-- ==== Sys2Proof/Word.lean ====
section
/-! DEFINITION. The two widths of the hardware (R8, R11): bytes on the data bus, words on the address bus. -/

namespace Sys2Proof

/-- A byte: registers A, X, Y, S and the data bus (R8). -/
abbrev Byte := BitVec 8

/-- A 16-bit word: PC and the address bus (R8). -/
abbrev Word := BitVec 16

end Sys2Proof
end

