-- ==== Sys2Proof/Config.lean ====
section
/-! DEFINITION. The free values: what the spec calls a draw of a collaborator or of
the memory environment (R80, R591, R592, R626, R645; U4, U5, U14) and the corruption patterns it leaves open (R633, U15). None has a body, so no proof can see a value of one.
Each draw is applied to a counter of State that advances with every draw. The numbered parameters of R9 are
fields of State.params: the model takes them as arguments. -/

namespace Sys2Proof

/-- A byte the parallel cable or the serial bus answers with (`driveRead`, `deviceRead`; R591, R592). -/
opaque Config.collaboratorByte : Nat → Byte

/-- The byte that an address without memory and without a device answers with: a draw of the environment (R80, D24). -/
opaque Config.environmentByte : Nat → Byte

/-- The image provider's answer to `isAllowed()` (R626). -/
opaque Config.extendAllowed : Nat → Bool

/-- The draw NOISE_CHANCE of the flux-noise rule (R645). -/
opaque Config.noiseChance : Nat → Bool

/-- The draw PHASE_SKIP_CHANCE of the flux-noise rule (R645). -/
opaque Config.phaseSkipChance : Nat → Bool

/-- ERROR_PATTERN: for a DOS error code other than 0 and 27, a function from a sector's 354 bytes to 354 bytes (R633). -/
opaque Config.errorPattern : Nat → (Fin 354 → Byte) → Fin 354 → Byte

end Sys2Proof
end

