-- ==== Sys2Proof/Syntax.lean ====
section
/-! DEFINITION. The instructions: one constructor for each of the 256 opcodes (R114), and the opcode table's row of each.
The constructors that carry operand bytes stand first (the runtime limits the place of such a constructor);
inside each group they stand in the order of the table. -/

namespace Sys2Proof

/-- The 77 mnemonics of the opcode table (R114, R121). -/
inductive Mnem where
  | brk | ora | jam | slo | nop | asl | php | anc | bpl | clc | jsr
  | and | rla | bit | rol | plp | bmi | sec | rti | eor | sre | lsr
  | pha | alr | jmp | bvc | cli | rts | adc | rra | ror | pla | arr
  | bvs | sei | sta | sax | sty | stx | dey | txa | ane | bcc | sha
  | tya | txs | shs | shy | shx | ldy | lda | ldx | lax | tay | tax
  | lxa | bcs | clv | tsx | las | cpy | cmp | dcp | dec | iny | dex
  | sbx | bne | cld | cpx | sbc | isb | inc | inx | usbc | beq | sed
  deriving DecidableEq, Repr

/-- The addressing modes (R111). -/
inductive Mode where
  | imp | acc | imm | zp | zpx | zpy | izx | izy | rel | abs | abx | aby | ind
  deriving DecidableEq, Repr

/-- The operation classes (R157). -/
inductive Cls where
  | read | write | rmw | special
  deriving DecidableEq, Repr

/-- A row of the opcode table: opcode, mnemonic, mode, class, base cycle count (R114, R157, R690). -/
structure Row where
  opcode : Byte
  mnem : Mnem
  mode : Mode
  cls : Cls
  cycles : Nat
  deriving DecidableEq, Repr

/-- The instructions (R114). An operand is the byte or the word that follows the opcode (R111, R112). -/
inductive Instr where
  | oraIndX (z : Byte)  -- $01 ORA (zero page,X), R267
  | sloIndX (z : Byte)  -- $03 SLO (zero page,X), R411
  | nopZp04 (z : Byte)  -- $04 NOP zero page, R436
  | oraZp (z : Byte)  -- $05 ORA zero page, R267
  | aslZp (z : Byte)  -- $06 ASL zero page, R301
  | sloZp (z : Byte)  -- $07 SLO zero page, R411
  | oraImm (v : Byte)  -- $09 ORA immediate, R267
  | ancImm0B (v : Byte)  -- $0B ANC immediate, R420
  | nopAbs (w : Word)  -- $0C NOP absolute, R436
  | oraAbs (w : Word)  -- $0D ORA absolute, R267
  | aslAbs (w : Word)  -- $0E ASL absolute, R301
  | sloAbs (w : Word)  -- $0F SLO absolute, R411
  | bpl (off : Byte)  -- $10 BPL relative, R341
  | oraIndY (z : Byte)  -- $11 ORA (zero page),Y, R267
  | sloIndY (z : Byte)  -- $13 SLO (zero page),Y, R411
  | nopZpX14 (z : Byte)  -- $14 NOP zero page,X, R436
  | oraZpX (z : Byte)  -- $15 ORA zero page,X, R267
  | aslZpX (z : Byte)  -- $16 ASL zero page,X, R301
  | sloZpX (z : Byte)  -- $17 SLO zero page,X, R411
  | oraAbsY (w : Word)  -- $19 ORA absolute,Y, R267
  | sloAbsY (w : Word)  -- $1B SLO absolute,Y, R411
  | nopAbsX1C (w : Word)  -- $1C NOP absolute,X, R436
  | oraAbsX (w : Word)  -- $1D ORA absolute,X, R267
  | aslAbsX (w : Word)  -- $1E ASL absolute,X, R301
  | sloAbsX (w : Word)  -- $1F SLO absolute,X, R411
  | jsr (w : Word)  -- $20 JSR absolute, R351
  | andIndX (z : Byte)  -- $21 AND (zero page,X), R266
  | rlaIndX (z : Byte)  -- $23 RLA (zero page,X), R412
  | bitZp (z : Byte)  -- $24 BIT zero page, R273
  | andZp (z : Byte)  -- $25 AND zero page, R266
  | rolZp (z : Byte)  -- $26 ROL zero page, R303
  | rlaZp (z : Byte)  -- $27 RLA zero page, R412
  | andImm (v : Byte)  -- $29 AND immediate, R266
  | ancImm2B (v : Byte)  -- $2B ANC immediate, R420
  | bitAbs (w : Word)  -- $2C BIT absolute, R273
  | andAbs (w : Word)  -- $2D AND absolute, R266
  | rolAbs (w : Word)  -- $2E ROL absolute, R303
  | rlaAbs (w : Word)  -- $2F RLA absolute, R412
  | bmi (off : Byte)  -- $30 BMI relative, R342
  | andIndY (z : Byte)  -- $31 AND (zero page),Y, R266
  | rlaIndY (z : Byte)  -- $33 RLA (zero page),Y, R412
  | nopZpX34 (z : Byte)  -- $34 NOP zero page,X, R436
  | andZpX (z : Byte)  -- $35 AND zero page,X, R266
  | rolZpX (z : Byte)  -- $36 ROL zero page,X, R303
  | rlaZpX (z : Byte)  -- $37 RLA zero page,X, R412
  | andAbsY (w : Word)  -- $39 AND absolute,Y, R266
  | rlaAbsY (w : Word)  -- $3B RLA absolute,Y, R412
  | nopAbsX3C (w : Word)  -- $3C NOP absolute,X, R436
  | andAbsX (w : Word)  -- $3D AND absolute,X, R266
  | rolAbsX (w : Word)  -- $3E ROL absolute,X, R303
  | rlaAbsX (w : Word)  -- $3F RLA absolute,X, R412
  | eorIndX (z : Byte)  -- $41 EOR (zero page,X), R268
  | sreIndX (z : Byte)  -- $43 SRE (zero page,X), R413
  | nopZp44 (z : Byte)  -- $44 NOP zero page, R436
  | eorZp (z : Byte)  -- $45 EOR zero page, R268
  | lsrZp (z : Byte)  -- $46 LSR zero page, R302
  | sreZp (z : Byte)  -- $47 SRE zero page, R413
  | eorImm (v : Byte)  -- $49 EOR immediate, R268
  | alrImm (v : Byte)  -- $4B ALR immediate, R421
  | jmpAbs (w : Word)  -- $4C JMP absolute, R349
  | eorAbs (w : Word)  -- $4D EOR absolute, R268
  | lsrAbs (w : Word)  -- $4E LSR absolute, R302
  | sreAbs (w : Word)  -- $4F SRE absolute, R413
  | bvc (off : Byte)  -- $50 BVC relative, R343
  | eorIndY (z : Byte)  -- $51 EOR (zero page),Y, R268
  | sreIndY (z : Byte)  -- $53 SRE (zero page),Y, R413
  | nopZpX54 (z : Byte)  -- $54 NOP zero page,X, R436
  | eorZpX (z : Byte)  -- $55 EOR zero page,X, R268
  | lsrZpX (z : Byte)  -- $56 LSR zero page,X, R302
  | sreZpX (z : Byte)  -- $57 SRE zero page,X, R413
  | eorAbsY (w : Word)  -- $59 EOR absolute,Y, R268
  | sreAbsY (w : Word)  -- $5B SRE absolute,Y, R413
  | nopAbsX5C (w : Word)  -- $5C NOP absolute,X, R436
  | eorAbsX (w : Word)  -- $5D EOR absolute,X, R268
  | lsrAbsX (w : Word)  -- $5E LSR absolute,X, R302
  | sreAbsX (w : Word)  -- $5F SRE absolute,X, R413
  | adcIndX (z : Byte)  -- $61 ADC (zero page,X), R264
  | rraIndX (z : Byte)  -- $63 RRA (zero page,X), R414
  | nopZp64 (z : Byte)  -- $64 NOP zero page, R436
  | adcZp (z : Byte)  -- $65 ADC zero page, R264
  | rorZp (z : Byte)  -- $66 ROR zero page, R304
  | rraZp (z : Byte)  -- $67 RRA zero page, R414
  | adcImm (v : Byte)  -- $69 ADC immediate, R264
  | arrImm (v : Byte)  -- $6B ARR immediate, R422
  | jmpInd (w : Word)  -- $6C JMP (absolute), R350
  | adcAbs (w : Word)  -- $6D ADC absolute, R264
  | rorAbs (w : Word)  -- $6E ROR absolute, R304
  | rraAbs (w : Word)  -- $6F RRA absolute, R414
  | bvs (off : Byte)  -- $70 BVS relative, R344
  | adcIndY (z : Byte)  -- $71 ADC (zero page),Y, R264
  | rraIndY (z : Byte)  -- $73 RRA (zero page),Y, R414
  | nopZpX74 (z : Byte)  -- $74 NOP zero page,X, R436
  | adcZpX (z : Byte)  -- $75 ADC zero page,X, R264
  | rorZpX (z : Byte)  -- $76 ROR zero page,X, R304
  | rraZpX (z : Byte)  -- $77 RRA zero page,X, R414
  | adcAbsY (w : Word)  -- $79 ADC absolute,Y, R264
  | rraAbsY (w : Word)  -- $7B RRA absolute,Y, R414
  | nopAbsX7C (w : Word)  -- $7C NOP absolute,X, R436
  | adcAbsX (w : Word)  -- $7D ADC absolute,X, R264
  | rorAbsX (w : Word)  -- $7E ROR absolute,X, R304
  | rraAbsX (w : Word)  -- $7F RRA absolute,X, R414
  | nopImm80 (v : Byte)  -- $80 NOP immediate, R436
  | staIndX (z : Byte)  -- $81 STA (zero page,X), R224
  | nopImm82 (v : Byte)  -- $82 NOP immediate, R436
  | saxIndX (z : Byte)  -- $83 SAX (zero page,X), R417
  | styZp (z : Byte)  -- $84 STY zero page, R226
  | staZp (z : Byte)  -- $85 STA zero page, R224
  | stxZp (z : Byte)  -- $86 STX zero page, R225
  | saxZp (z : Byte)  -- $87 SAX zero page, R417
  | nopImm89 (v : Byte)  -- $89 NOP immediate, R436
  | aneImm (v : Byte)  -- $8B ANE immediate, R425
  | styAbs (w : Word)  -- $8C STY absolute, R226
  | staAbs (w : Word)  -- $8D STA absolute, R224
  | stxAbs (w : Word)  -- $8E STX absolute, R225
  | saxAbs (w : Word)  -- $8F SAX absolute, R417
  | bcc (off : Byte)  -- $90 BCC relative, R345
  | staIndY (z : Byte)  -- $91 STA (zero page),Y, R224
  | shaIndY (z : Byte)  -- $93 SHA (zero page),Y, R426
  | styZpX (z : Byte)  -- $94 STY zero page,X, R226
  | staZpX (z : Byte)  -- $95 STA zero page,X, R224
  | stxZpY (z : Byte)  -- $96 STX zero page,Y, R225
  | saxZpY (z : Byte)  -- $97 SAX zero page,Y, R417
  | staAbsY (w : Word)  -- $99 STA absolute,Y, R224
  | shsAbsY (w : Word)  -- $9B SHS absolute,Y, R427
  | shyAbsX (w : Word)  -- $9C SHY absolute,X, R429
  | staAbsX (w : Word)  -- $9D STA absolute,X, R224
  | shxAbsY (w : Word)  -- $9E SHX absolute,Y, R428
  | shaAbsY (w : Word)  -- $9F SHA absolute,Y, R426
  | ldyImm (v : Byte)  -- $A0 LDY immediate, R223
  | ldaIndX (z : Byte)  -- $A1 LDA (zero page,X), R221
  | ldxImm (v : Byte)  -- $A2 LDX immediate, R222
  | laxIndX (z : Byte)  -- $A3 LAX (zero page,X), R418
  | ldyZp (z : Byte)  -- $A4 LDY zero page, R223
  | ldaZp (z : Byte)  -- $A5 LDA zero page, R221
  | ldxZp (z : Byte)  -- $A6 LDX zero page, R222
  | laxZp (z : Byte)  -- $A7 LAX zero page, R418
  | ldaImm (v : Byte)  -- $A9 LDA immediate, R221
  | lxaImm (v : Byte)  -- $AB LXA immediate, R424
  | ldyAbs (w : Word)  -- $AC LDY absolute, R223
  | ldaAbs (w : Word)  -- $AD LDA absolute, R221
  | ldxAbs (w : Word)  -- $AE LDX absolute, R222
  | laxAbs (w : Word)  -- $AF LAX absolute, R418
  | bcs (off : Byte)  -- $B0 BCS relative, R346
  | ldaIndY (z : Byte)  -- $B1 LDA (zero page),Y, R221
  | laxIndY (z : Byte)  -- $B3 LAX (zero page),Y, R418
  | ldyZpX (z : Byte)  -- $B4 LDY zero page,X, R223
  | ldaZpX (z : Byte)  -- $B5 LDA zero page,X, R221
  | ldxZpY (z : Byte)  -- $B6 LDX zero page,Y, R222
  | laxZpY (z : Byte)  -- $B7 LAX zero page,Y, R418
  | ldaAbsY (w : Word)  -- $B9 LDA absolute,Y, R221
  | lasAbsY (w : Word)  -- $BB LAS absolute,Y, R419
  | ldyAbsX (w : Word)  -- $BC LDY absolute,X, R223
  | ldaAbsX (w : Word)  -- $BD LDA absolute,X, R221
  | ldxAbsY (w : Word)  -- $BE LDX absolute,Y, R222
  | laxAbsY (w : Word)  -- $BF LAX absolute,Y, R418
  | cpyImm (v : Byte)  -- $C0 CPY immediate, R272
  | cmpIndX (z : Byte)  -- $C1 CMP (zero page,X), R270
  | nopImmC2 (v : Byte)  -- $C2 NOP immediate, R436
  | dcpIndX (z : Byte)  -- $C3 DCP (zero page,X), R415
  | cpyZp (z : Byte)  -- $C4 CPY zero page, R272
  | cmpZp (z : Byte)  -- $C5 CMP zero page, R270
  | decZp (z : Byte)  -- $C6 DEC zero page, R306
  | dcpZp (z : Byte)  -- $C7 DCP zero page, R415
  | cmpImm (v : Byte)  -- $C9 CMP immediate, R270
  | sbxImm (v : Byte)  -- $CB SBX immediate, R423
  | cpyAbs (w : Word)  -- $CC CPY absolute, R272
  | cmpAbs (w : Word)  -- $CD CMP absolute, R270
  | decAbs (w : Word)  -- $CE DEC absolute, R306
  | dcpAbs (w : Word)  -- $CF DCP absolute, R415
  | bne (off : Byte)  -- $D0 BNE relative, R347
  | cmpIndY (z : Byte)  -- $D1 CMP (zero page),Y, R270
  | dcpIndY (z : Byte)  -- $D3 DCP (zero page),Y, R415
  | nopZpXD4 (z : Byte)  -- $D4 NOP zero page,X, R436
  | cmpZpX (z : Byte)  -- $D5 CMP zero page,X, R270
  | decZpX (z : Byte)  -- $D6 DEC zero page,X, R306
  | dcpZpX (z : Byte)  -- $D7 DCP zero page,X, R415
  | cmpAbsY (w : Word)  -- $D9 CMP absolute,Y, R270
  | dcpAbsY (w : Word)  -- $DB DCP absolute,Y, R415
  | nopAbsXDC (w : Word)  -- $DC NOP absolute,X, R436
  | cmpAbsX (w : Word)  -- $DD CMP absolute,X, R270
  | decAbsX (w : Word)  -- $DE DEC absolute,X, R306
  | dcpAbsX (w : Word)  -- $DF DCP absolute,X, R415
  | cpxImm (v : Byte)  -- $E0 CPX immediate, R271
  | sbcIndX (z : Byte)  -- $E1 SBC (zero page,X), R265
  | nopImmE2 (v : Byte)  -- $E2 NOP immediate, R436
  | isbIndX (z : Byte)  -- $E3 ISB (zero page,X), R416
  | cpxZp (z : Byte)  -- $E4 CPX zero page, R271
  | sbcZp (z : Byte)  -- $E5 SBC zero page, R265
  | incZp (z : Byte)  -- $E6 INC zero page, R305
  | isbZp (z : Byte)  -- $E7 ISB zero page, R416
  | sbcImm (v : Byte)  -- $E9 SBC immediate, R265
  | usbcImm (v : Byte)  -- $EB USBC immediate, R437
  | cpxAbs (w : Word)  -- $EC CPX absolute, R271
  | sbcAbs (w : Word)  -- $ED SBC absolute, R265
  | incAbs (w : Word)  -- $EE INC absolute, R305
  | isbAbs (w : Word)  -- $EF ISB absolute, R416
  | beq (off : Byte)  -- $F0 BEQ relative, R348
  | sbcIndY (z : Byte)  -- $F1 SBC (zero page),Y, R265
  | isbIndY (z : Byte)  -- $F3 ISB (zero page),Y, R416
  | nopZpXF4 (z : Byte)  -- $F4 NOP zero page,X, R436
  | sbcZpX (z : Byte)  -- $F5 SBC zero page,X, R265
  | incZpX (z : Byte)  -- $F6 INC zero page,X, R305
  | isbZpX (z : Byte)  -- $F7 ISB zero page,X, R416
  | sbcAbsY (w : Word)  -- $F9 SBC absolute,Y, R265
  | isbAbsY (w : Word)  -- $FB ISB absolute,Y, R416
  | nopAbsXFC (w : Word)  -- $FC NOP absolute,X, R436
  | sbcAbsX (w : Word)  -- $FD SBC absolute,X, R265
  | incAbsX (w : Word)  -- $FE INC absolute,X, R305
  | isbAbsX (w : Word)  -- $FF ISB absolute,X, R416
  | brk  -- $00 BRK implied, R352
  | jam02  -- $02 JAM implied, R440
  | php  -- $08 PHP implied, R381
  | aslA  -- $0A ASL accumulator, R301
  | jam12  -- $12 JAM implied, R440
  | clc  -- $18 CLC implied, R384
  | nop1A  -- $1A NOP implied, R436
  | jam22  -- $22 JAM implied, R440
  | plp  -- $28 PLP implied, R383
  | rolA  -- $2A ROL accumulator, R303
  | jam32  -- $32 JAM implied, R440
  | sec  -- $38 SEC implied, R385
  | nop3A  -- $3A NOP implied, R436
  | rti  -- $40 RTI implied, R354
  | jam42  -- $42 JAM implied, R440
  | pha  -- $48 PHA implied, R380
  | lsrA  -- $4A LSR accumulator, R302
  | jam52  -- $52 JAM implied, R440
  | cli  -- $58 CLI implied, R386
  | nop5A  -- $5A NOP implied, R436
  | rts  -- $60 RTS implied, R353
  | jam62  -- $62 JAM implied, R440
  | pla  -- $68 PLA implied, R382
  | rorA  -- $6A ROR accumulator, R304
  | jam72  -- $72 JAM implied, R440
  | sei  -- $78 SEI implied, R387
  | nop7A  -- $7A NOP implied, R436
  | dey  -- $88 DEY implied, R310
  | txa  -- $8A TXA implied, R229
  | jam92  -- $92 JAM implied, R440
  | tya  -- $98 TYA implied, R230
  | txs  -- $9A TXS implied, R232
  | tay  -- $A8 TAY implied, R228
  | tax  -- $AA TAX implied, R227
  | jamB2  -- $B2 JAM implied, R440
  | clv  -- $B8 CLV implied, R390
  | tsx  -- $BA TSX implied, R231
  | iny  -- $C8 INY implied, R308
  | dex  -- $CA DEX implied, R309
  | jamD2  -- $D2 JAM implied, R440
  | cld  -- $D8 CLD implied, R388
  | nopDA  -- $DA NOP implied, R436
  | inx  -- $E8 INX implied, R307
  | nop  -- $EA NOP implied, R391
  | jamF2  -- $F2 JAM implied, R440
  | sed  -- $F8 SED implied, R389
  | nopFA  -- $FA NOP implied, R436
  deriving DecidableEq, Repr

/-- The opcode table: each instruction's row (R114, R157, R690). -/
def Instr.row : Instr → Row
  | .brk => ⟨0x00, .brk, .imp, .special, 7⟩
  | .oraIndX _ => ⟨0x01, .ora, .izx, .read, 6⟩
  | .jam02 => ⟨0x02, .jam, .imp, .special, 2⟩
  | .sloIndX _ => ⟨0x03, .slo, .izx, .rmw, 8⟩
  | .nopZp04 _ => ⟨0x04, .nop, .zp, .read, 3⟩
  | .oraZp _ => ⟨0x05, .ora, .zp, .read, 3⟩
  | .aslZp _ => ⟨0x06, .asl, .zp, .rmw, 5⟩
  | .sloZp _ => ⟨0x07, .slo, .zp, .rmw, 5⟩
  | .php => ⟨0x08, .php, .imp, .special, 3⟩
  | .oraImm _ => ⟨0x09, .ora, .imm, .read, 2⟩
  | .aslA => ⟨0x0A, .asl, .acc, .special, 2⟩
  | .ancImm0B _ => ⟨0x0B, .anc, .imm, .read, 2⟩
  | .nopAbs _ => ⟨0x0C, .nop, .abs, .read, 4⟩
  | .oraAbs _ => ⟨0x0D, .ora, .abs, .read, 4⟩
  | .aslAbs _ => ⟨0x0E, .asl, .abs, .rmw, 6⟩
  | .sloAbs _ => ⟨0x0F, .slo, .abs, .rmw, 6⟩
  | .bpl _ => ⟨0x10, .bpl, .rel, .special, 2⟩
  | .oraIndY _ => ⟨0x11, .ora, .izy, .read, 5⟩
  | .jam12 => ⟨0x12, .jam, .imp, .special, 2⟩
  | .sloIndY _ => ⟨0x13, .slo, .izy, .rmw, 8⟩
  | .nopZpX14 _ => ⟨0x14, .nop, .zpx, .read, 4⟩
  | .oraZpX _ => ⟨0x15, .ora, .zpx, .read, 4⟩
  | .aslZpX _ => ⟨0x16, .asl, .zpx, .rmw, 6⟩
  | .sloZpX _ => ⟨0x17, .slo, .zpx, .rmw, 6⟩
  | .clc => ⟨0x18, .clc, .imp, .special, 2⟩
  | .oraAbsY _ => ⟨0x19, .ora, .aby, .read, 4⟩
  | .nop1A => ⟨0x1A, .nop, .imp, .special, 2⟩
  | .sloAbsY _ => ⟨0x1B, .slo, .aby, .rmw, 7⟩
  | .nopAbsX1C _ => ⟨0x1C, .nop, .abx, .read, 4⟩
  | .oraAbsX _ => ⟨0x1D, .ora, .abx, .read, 4⟩
  | .aslAbsX _ => ⟨0x1E, .asl, .abx, .rmw, 7⟩
  | .sloAbsX _ => ⟨0x1F, .slo, .abx, .rmw, 7⟩
  | .jsr _ => ⟨0x20, .jsr, .abs, .special, 6⟩
  | .andIndX _ => ⟨0x21, .and, .izx, .read, 6⟩
  | .jam22 => ⟨0x22, .jam, .imp, .special, 2⟩
  | .rlaIndX _ => ⟨0x23, .rla, .izx, .rmw, 8⟩
  | .bitZp _ => ⟨0x24, .bit, .zp, .read, 3⟩
  | .andZp _ => ⟨0x25, .and, .zp, .read, 3⟩
  | .rolZp _ => ⟨0x26, .rol, .zp, .rmw, 5⟩
  | .rlaZp _ => ⟨0x27, .rla, .zp, .rmw, 5⟩
  | .plp => ⟨0x28, .plp, .imp, .special, 4⟩
  | .andImm _ => ⟨0x29, .and, .imm, .read, 2⟩
  | .rolA => ⟨0x2A, .rol, .acc, .special, 2⟩
  | .ancImm2B _ => ⟨0x2B, .anc, .imm, .read, 2⟩
  | .bitAbs _ => ⟨0x2C, .bit, .abs, .read, 4⟩
  | .andAbs _ => ⟨0x2D, .and, .abs, .read, 4⟩
  | .rolAbs _ => ⟨0x2E, .rol, .abs, .rmw, 6⟩
  | .rlaAbs _ => ⟨0x2F, .rla, .abs, .rmw, 6⟩
  | .bmi _ => ⟨0x30, .bmi, .rel, .special, 2⟩
  | .andIndY _ => ⟨0x31, .and, .izy, .read, 5⟩
  | .jam32 => ⟨0x32, .jam, .imp, .special, 2⟩
  | .rlaIndY _ => ⟨0x33, .rla, .izy, .rmw, 8⟩
  | .nopZpX34 _ => ⟨0x34, .nop, .zpx, .read, 4⟩
  | .andZpX _ => ⟨0x35, .and, .zpx, .read, 4⟩
  | .rolZpX _ => ⟨0x36, .rol, .zpx, .rmw, 6⟩
  | .rlaZpX _ => ⟨0x37, .rla, .zpx, .rmw, 6⟩
  | .sec => ⟨0x38, .sec, .imp, .special, 2⟩
  | .andAbsY _ => ⟨0x39, .and, .aby, .read, 4⟩
  | .nop3A => ⟨0x3A, .nop, .imp, .special, 2⟩
  | .rlaAbsY _ => ⟨0x3B, .rla, .aby, .rmw, 7⟩
  | .nopAbsX3C _ => ⟨0x3C, .nop, .abx, .read, 4⟩
  | .andAbsX _ => ⟨0x3D, .and, .abx, .read, 4⟩
  | .rolAbsX _ => ⟨0x3E, .rol, .abx, .rmw, 7⟩
  | .rlaAbsX _ => ⟨0x3F, .rla, .abx, .rmw, 7⟩
  | .rti => ⟨0x40, .rti, .imp, .special, 6⟩
  | .eorIndX _ => ⟨0x41, .eor, .izx, .read, 6⟩
  | .jam42 => ⟨0x42, .jam, .imp, .special, 2⟩
  | .sreIndX _ => ⟨0x43, .sre, .izx, .rmw, 8⟩
  | .nopZp44 _ => ⟨0x44, .nop, .zp, .read, 3⟩
  | .eorZp _ => ⟨0x45, .eor, .zp, .read, 3⟩
  | .lsrZp _ => ⟨0x46, .lsr, .zp, .rmw, 5⟩
  | .sreZp _ => ⟨0x47, .sre, .zp, .rmw, 5⟩
  | .pha => ⟨0x48, .pha, .imp, .special, 3⟩
  | .eorImm _ => ⟨0x49, .eor, .imm, .read, 2⟩
  | .lsrA => ⟨0x4A, .lsr, .acc, .special, 2⟩
  | .alrImm _ => ⟨0x4B, .alr, .imm, .read, 2⟩
  | .jmpAbs _ => ⟨0x4C, .jmp, .abs, .special, 3⟩
  | .eorAbs _ => ⟨0x4D, .eor, .abs, .read, 4⟩
  | .lsrAbs _ => ⟨0x4E, .lsr, .abs, .rmw, 6⟩
  | .sreAbs _ => ⟨0x4F, .sre, .abs, .rmw, 6⟩
  | .bvc _ => ⟨0x50, .bvc, .rel, .special, 2⟩
  | .eorIndY _ => ⟨0x51, .eor, .izy, .read, 5⟩
  | .jam52 => ⟨0x52, .jam, .imp, .special, 2⟩
  | .sreIndY _ => ⟨0x53, .sre, .izy, .rmw, 8⟩
  | .nopZpX54 _ => ⟨0x54, .nop, .zpx, .read, 4⟩
  | .eorZpX _ => ⟨0x55, .eor, .zpx, .read, 4⟩
  | .lsrZpX _ => ⟨0x56, .lsr, .zpx, .rmw, 6⟩
  | .sreZpX _ => ⟨0x57, .sre, .zpx, .rmw, 6⟩
  | .cli => ⟨0x58, .cli, .imp, .special, 2⟩
  | .eorAbsY _ => ⟨0x59, .eor, .aby, .read, 4⟩
  | .nop5A => ⟨0x5A, .nop, .imp, .special, 2⟩
  | .sreAbsY _ => ⟨0x5B, .sre, .aby, .rmw, 7⟩
  | .nopAbsX5C _ => ⟨0x5C, .nop, .abx, .read, 4⟩
  | .eorAbsX _ => ⟨0x5D, .eor, .abx, .read, 4⟩
  | .lsrAbsX _ => ⟨0x5E, .lsr, .abx, .rmw, 7⟩
  | .sreAbsX _ => ⟨0x5F, .sre, .abx, .rmw, 7⟩
  | .rts => ⟨0x60, .rts, .imp, .special, 6⟩
  | .adcIndX _ => ⟨0x61, .adc, .izx, .read, 6⟩
  | .jam62 => ⟨0x62, .jam, .imp, .special, 2⟩
  | .rraIndX _ => ⟨0x63, .rra, .izx, .rmw, 8⟩
  | .nopZp64 _ => ⟨0x64, .nop, .zp, .read, 3⟩
  | .adcZp _ => ⟨0x65, .adc, .zp, .read, 3⟩
  | .rorZp _ => ⟨0x66, .ror, .zp, .rmw, 5⟩
  | .rraZp _ => ⟨0x67, .rra, .zp, .rmw, 5⟩
  | .pla => ⟨0x68, .pla, .imp, .special, 4⟩
  | .adcImm _ => ⟨0x69, .adc, .imm, .read, 2⟩
  | .rorA => ⟨0x6A, .ror, .acc, .special, 2⟩
  | .arrImm _ => ⟨0x6B, .arr, .imm, .read, 2⟩
  | .jmpInd _ => ⟨0x6C, .jmp, .ind, .special, 5⟩
  | .adcAbs _ => ⟨0x6D, .adc, .abs, .read, 4⟩
  | .rorAbs _ => ⟨0x6E, .ror, .abs, .rmw, 6⟩
  | .rraAbs _ => ⟨0x6F, .rra, .abs, .rmw, 6⟩
  | .bvs _ => ⟨0x70, .bvs, .rel, .special, 2⟩
  | .adcIndY _ => ⟨0x71, .adc, .izy, .read, 5⟩
  | .jam72 => ⟨0x72, .jam, .imp, .special, 2⟩
  | .rraIndY _ => ⟨0x73, .rra, .izy, .rmw, 8⟩
  | .nopZpX74 _ => ⟨0x74, .nop, .zpx, .read, 4⟩
  | .adcZpX _ => ⟨0x75, .adc, .zpx, .read, 4⟩
  | .rorZpX _ => ⟨0x76, .ror, .zpx, .rmw, 6⟩
  | .rraZpX _ => ⟨0x77, .rra, .zpx, .rmw, 6⟩
  | .sei => ⟨0x78, .sei, .imp, .special, 2⟩
  | .adcAbsY _ => ⟨0x79, .adc, .aby, .read, 4⟩
  | .nop7A => ⟨0x7A, .nop, .imp, .special, 2⟩
  | .rraAbsY _ => ⟨0x7B, .rra, .aby, .rmw, 7⟩
  | .nopAbsX7C _ => ⟨0x7C, .nop, .abx, .read, 4⟩
  | .adcAbsX _ => ⟨0x7D, .adc, .abx, .read, 4⟩
  | .rorAbsX _ => ⟨0x7E, .ror, .abx, .rmw, 7⟩
  | .rraAbsX _ => ⟨0x7F, .rra, .abx, .rmw, 7⟩
  | .nopImm80 _ => ⟨0x80, .nop, .imm, .read, 2⟩
  | .staIndX _ => ⟨0x81, .sta, .izx, .write, 6⟩
  | .nopImm82 _ => ⟨0x82, .nop, .imm, .read, 2⟩
  | .saxIndX _ => ⟨0x83, .sax, .izx, .write, 6⟩
  | .styZp _ => ⟨0x84, .sty, .zp, .write, 3⟩
  | .staZp _ => ⟨0x85, .sta, .zp, .write, 3⟩
  | .stxZp _ => ⟨0x86, .stx, .zp, .write, 3⟩
  | .saxZp _ => ⟨0x87, .sax, .zp, .write, 3⟩
  | .dey => ⟨0x88, .dey, .imp, .special, 2⟩
  | .nopImm89 _ => ⟨0x89, .nop, .imm, .read, 2⟩
  | .txa => ⟨0x8A, .txa, .imp, .special, 2⟩
  | .aneImm _ => ⟨0x8B, .ane, .imm, .read, 2⟩
  | .styAbs _ => ⟨0x8C, .sty, .abs, .write, 4⟩
  | .staAbs _ => ⟨0x8D, .sta, .abs, .write, 4⟩
  | .stxAbs _ => ⟨0x8E, .stx, .abs, .write, 4⟩
  | .saxAbs _ => ⟨0x8F, .sax, .abs, .write, 4⟩
  | .bcc _ => ⟨0x90, .bcc, .rel, .special, 2⟩
  | .staIndY _ => ⟨0x91, .sta, .izy, .write, 6⟩
  | .jam92 => ⟨0x92, .jam, .imp, .special, 2⟩
  | .shaIndY _ => ⟨0x93, .sha, .izy, .write, 6⟩
  | .styZpX _ => ⟨0x94, .sty, .zpx, .write, 4⟩
  | .staZpX _ => ⟨0x95, .sta, .zpx, .write, 4⟩
  | .stxZpY _ => ⟨0x96, .stx, .zpy, .write, 4⟩
  | .saxZpY _ => ⟨0x97, .sax, .zpy, .write, 4⟩
  | .tya => ⟨0x98, .tya, .imp, .special, 2⟩
  | .staAbsY _ => ⟨0x99, .sta, .aby, .write, 5⟩
  | .txs => ⟨0x9A, .txs, .imp, .special, 2⟩
  | .shsAbsY _ => ⟨0x9B, .shs, .aby, .write, 5⟩
  | .shyAbsX _ => ⟨0x9C, .shy, .abx, .write, 5⟩
  | .staAbsX _ => ⟨0x9D, .sta, .abx, .write, 5⟩
  | .shxAbsY _ => ⟨0x9E, .shx, .aby, .write, 5⟩
  | .shaAbsY _ => ⟨0x9F, .sha, .aby, .write, 5⟩
  | .ldyImm _ => ⟨0xA0, .ldy, .imm, .read, 2⟩
  | .ldaIndX _ => ⟨0xA1, .lda, .izx, .read, 6⟩
  | .ldxImm _ => ⟨0xA2, .ldx, .imm, .read, 2⟩
  | .laxIndX _ => ⟨0xA3, .lax, .izx, .read, 6⟩
  | .ldyZp _ => ⟨0xA4, .ldy, .zp, .read, 3⟩
  | .ldaZp _ => ⟨0xA5, .lda, .zp, .read, 3⟩
  | .ldxZp _ => ⟨0xA6, .ldx, .zp, .read, 3⟩
  | .laxZp _ => ⟨0xA7, .lax, .zp, .read, 3⟩
  | .tay => ⟨0xA8, .tay, .imp, .special, 2⟩
  | .ldaImm _ => ⟨0xA9, .lda, .imm, .read, 2⟩
  | .tax => ⟨0xAA, .tax, .imp, .special, 2⟩
  | .lxaImm _ => ⟨0xAB, .lxa, .imm, .read, 2⟩
  | .ldyAbs _ => ⟨0xAC, .ldy, .abs, .read, 4⟩
  | .ldaAbs _ => ⟨0xAD, .lda, .abs, .read, 4⟩
  | .ldxAbs _ => ⟨0xAE, .ldx, .abs, .read, 4⟩
  | .laxAbs _ => ⟨0xAF, .lax, .abs, .read, 4⟩
  | .bcs _ => ⟨0xB0, .bcs, .rel, .special, 2⟩
  | .ldaIndY _ => ⟨0xB1, .lda, .izy, .read, 5⟩
  | .jamB2 => ⟨0xB2, .jam, .imp, .special, 2⟩
  | .laxIndY _ => ⟨0xB3, .lax, .izy, .read, 5⟩
  | .ldyZpX _ => ⟨0xB4, .ldy, .zpx, .read, 4⟩
  | .ldaZpX _ => ⟨0xB5, .lda, .zpx, .read, 4⟩
  | .ldxZpY _ => ⟨0xB6, .ldx, .zpy, .read, 4⟩
  | .laxZpY _ => ⟨0xB7, .lax, .zpy, .read, 4⟩
  | .clv => ⟨0xB8, .clv, .imp, .special, 2⟩
  | .ldaAbsY _ => ⟨0xB9, .lda, .aby, .read, 4⟩
  | .tsx => ⟨0xBA, .tsx, .imp, .special, 2⟩
  | .lasAbsY _ => ⟨0xBB, .las, .aby, .read, 4⟩
  | .ldyAbsX _ => ⟨0xBC, .ldy, .abx, .read, 4⟩
  | .ldaAbsX _ => ⟨0xBD, .lda, .abx, .read, 4⟩
  | .ldxAbsY _ => ⟨0xBE, .ldx, .aby, .read, 4⟩
  | .laxAbsY _ => ⟨0xBF, .lax, .aby, .read, 4⟩
  | .cpyImm _ => ⟨0xC0, .cpy, .imm, .read, 2⟩
  | .cmpIndX _ => ⟨0xC1, .cmp, .izx, .read, 6⟩
  | .nopImmC2 _ => ⟨0xC2, .nop, .imm, .read, 2⟩
  | .dcpIndX _ => ⟨0xC3, .dcp, .izx, .rmw, 8⟩
  | .cpyZp _ => ⟨0xC4, .cpy, .zp, .read, 3⟩
  | .cmpZp _ => ⟨0xC5, .cmp, .zp, .read, 3⟩
  | .decZp _ => ⟨0xC6, .dec, .zp, .rmw, 5⟩
  | .dcpZp _ => ⟨0xC7, .dcp, .zp, .rmw, 5⟩
  | .iny => ⟨0xC8, .iny, .imp, .special, 2⟩
  | .cmpImm _ => ⟨0xC9, .cmp, .imm, .read, 2⟩
  | .dex => ⟨0xCA, .dex, .imp, .special, 2⟩
  | .sbxImm _ => ⟨0xCB, .sbx, .imm, .read, 2⟩
  | .cpyAbs _ => ⟨0xCC, .cpy, .abs, .read, 4⟩
  | .cmpAbs _ => ⟨0xCD, .cmp, .abs, .read, 4⟩
  | .decAbs _ => ⟨0xCE, .dec, .abs, .rmw, 6⟩
  | .dcpAbs _ => ⟨0xCF, .dcp, .abs, .rmw, 6⟩
  | .bne _ => ⟨0xD0, .bne, .rel, .special, 2⟩
  | .cmpIndY _ => ⟨0xD1, .cmp, .izy, .read, 5⟩
  | .jamD2 => ⟨0xD2, .jam, .imp, .special, 2⟩
  | .dcpIndY _ => ⟨0xD3, .dcp, .izy, .rmw, 8⟩
  | .nopZpXD4 _ => ⟨0xD4, .nop, .zpx, .read, 4⟩
  | .cmpZpX _ => ⟨0xD5, .cmp, .zpx, .read, 4⟩
  | .decZpX _ => ⟨0xD6, .dec, .zpx, .rmw, 6⟩
  | .dcpZpX _ => ⟨0xD7, .dcp, .zpx, .rmw, 6⟩
  | .cld => ⟨0xD8, .cld, .imp, .special, 2⟩
  | .cmpAbsY _ => ⟨0xD9, .cmp, .aby, .read, 4⟩
  | .nopDA => ⟨0xDA, .nop, .imp, .special, 2⟩
  | .dcpAbsY _ => ⟨0xDB, .dcp, .aby, .rmw, 7⟩
  | .nopAbsXDC _ => ⟨0xDC, .nop, .abx, .read, 4⟩
  | .cmpAbsX _ => ⟨0xDD, .cmp, .abx, .read, 4⟩
  | .decAbsX _ => ⟨0xDE, .dec, .abx, .rmw, 7⟩
  | .dcpAbsX _ => ⟨0xDF, .dcp, .abx, .rmw, 7⟩
  | .cpxImm _ => ⟨0xE0, .cpx, .imm, .read, 2⟩
  | .sbcIndX _ => ⟨0xE1, .sbc, .izx, .read, 6⟩
  | .nopImmE2 _ => ⟨0xE2, .nop, .imm, .read, 2⟩
  | .isbIndX _ => ⟨0xE3, .isb, .izx, .rmw, 8⟩
  | .cpxZp _ => ⟨0xE4, .cpx, .zp, .read, 3⟩
  | .sbcZp _ => ⟨0xE5, .sbc, .zp, .read, 3⟩
  | .incZp _ => ⟨0xE6, .inc, .zp, .rmw, 5⟩
  | .isbZp _ => ⟨0xE7, .isb, .zp, .rmw, 5⟩
  | .inx => ⟨0xE8, .inx, .imp, .special, 2⟩
  | .sbcImm _ => ⟨0xE9, .sbc, .imm, .read, 2⟩
  | .nop => ⟨0xEA, .nop, .imp, .special, 2⟩
  | .usbcImm _ => ⟨0xEB, .usbc, .imm, .read, 2⟩
  | .cpxAbs _ => ⟨0xEC, .cpx, .abs, .read, 4⟩
  | .sbcAbs _ => ⟨0xED, .sbc, .abs, .read, 4⟩
  | .incAbs _ => ⟨0xEE, .inc, .abs, .rmw, 6⟩
  | .isbAbs _ => ⟨0xEF, .isb, .abs, .rmw, 6⟩
  | .beq _ => ⟨0xF0, .beq, .rel, .special, 2⟩
  | .sbcIndY _ => ⟨0xF1, .sbc, .izy, .read, 5⟩
  | .jamF2 => ⟨0xF2, .jam, .imp, .special, 2⟩
  | .isbIndY _ => ⟨0xF3, .isb, .izy, .rmw, 8⟩
  | .nopZpXF4 _ => ⟨0xF4, .nop, .zpx, .read, 4⟩
  | .sbcZpX _ => ⟨0xF5, .sbc, .zpx, .read, 4⟩
  | .incZpX _ => ⟨0xF6, .inc, .zpx, .rmw, 6⟩
  | .isbZpX _ => ⟨0xF7, .isb, .zpx, .rmw, 6⟩
  | .sed => ⟨0xF8, .sed, .imp, .special, 2⟩
  | .sbcAbsY _ => ⟨0xF9, .sbc, .aby, .read, 4⟩
  | .nopFA => ⟨0xFA, .nop, .imp, .special, 2⟩
  | .isbAbsY _ => ⟨0xFB, .isb, .aby, .rmw, 7⟩
  | .nopAbsXFC _ => ⟨0xFC, .nop, .abx, .read, 4⟩
  | .sbcAbsX _ => ⟨0xFD, .sbc, .abx, .read, 4⟩
  | .incAbsX _ => ⟨0xFE, .inc, .abx, .rmw, 7⟩
  | .isbAbsX _ => ⟨0xFF, .isb, .abx, .rmw, 7⟩

/-- The mnemonic of an instruction. -/
def Instr.mnem (i : Instr) : Mnem := i.row.mnem

/-- The addressing mode of an instruction. -/
def Instr.mode (i : Instr) : Mode := i.row.mode

/-- The opcode byte of an instruction. -/
def Instr.opcode (i : Instr) : Byte := i.row.opcode

end Sys2Proof
end

