-- ==== Sys2Proof/WellFormed.lean ====
section
/-! DEFINITION. What makes a row of the opcode table, an instruction and an instruction's byte string well formed
(R111, R118, R119, R157, R503): the checks that a machine built from a table would refuse to start without. -/

namespace Sys2Proof

/-- The length in bytes that an addressing mode gives an instruction (R111). -/
def Mode.length : Mode → Nat
  | .imp | .acc => 1
  | .imm | .zp | .zpx | .zpy | .izx | .izy | .rel => 2
  | .abs | .abx | .aby | .ind => 3

/-- Which classes an addressing mode admits (R157, R118: "contradictory legal-addressing/legal-operation flags"):
an immediate operand can only be read; the modes without an operand in memory belong to no class but `special`. -/
def Row.classFitsMode (r : Row) : Bool :=
  match r.cls, r.mode with
  | .read, m => [Mode.imm, .zp, .zpx, .zpy, .abs, .abx, .aby, .izx, .izy].contains m
  | .write, m => [Mode.zp, .zpx, .zpy, .abs, .abx, .aby, .izx, .izy].contains m
  | .rmw, m => [Mode.zp, .zpx, .abs, .abx, .aby, .izx, .izy].contains m
  | .special, m => [Mode.imp, .acc, .rel, .abs, .ind].contains m

/-- The cycle count that R159 to R178 give a class and a mode; a special row has its own sequence. -/
def Row.cyclesFit (r : Row) : Bool :=
  match r.cls, r.mode with
  | .read, .imm => r.cycles == 2
  | .read, .zp | .write, .zp => r.cycles == 3
  | .read, .zpx | .read, .zpy | .read, .abs | .write, .zpx | .write, .zpy | .write, .abs => r.cycles == 4
  | .read, .abx | .read, .aby => r.cycles == 4
  | .read, .izx | .write, .izx | .write, .izy => r.cycles == 6
  | .read, .izy | .write, .abx | .write, .aby => r.cycles == 5
  | .rmw, .zp => r.cycles == 5
  | .rmw, .zpx | .rmw, .abs => r.cycles == 6
  | .rmw, .abx | .rmw, .aby => r.cycles == 7
  | .rmw, .izx | .rmw, .izy => r.cycles == 8
  | .special, _ => 2 ≤ r.cycles && r.cycles ≤ 7
  | _, _ => false

/-- A row is well formed when it has one mode, one class that the mode admits and the count of its sequence (R118). -/
def Row.wellFormed (r : Row) : Bool := r.classFitsMode && r.cyclesFit

/-- An instruction is well formed when its row is. Its operand may be any byte or word (R110: no other check exists). -/
def Instr.wellFormed (i : Instr) : Bool := i.row.wellFormed

/-- The length in bytes of an instruction (R119). -/
def Instr.length (i : Instr) : Nat := i.mode.length

end Sys2Proof
end

