-- ==== Sys2Proof/Decode.lean ====
section
/-! DEFINITION. Byte order, bit fields, the decoder (total on any bytes, refusing a short byte string by name) and the
encoder (R110 to R114, R82). -/

namespace Sys2Proof

/-- lo(w) = w[7:0] (R11). -/
def lo (w : Word) : Byte := w.setWidth 8

/-- hi(w) = w[15:8] (R11). -/
def hi (w : Word) : Byte := (w >>> 8).setWidth 8

/-- (h << 8) | l (R11). -/
def joinBytes (h l : Byte) : Word := (h.setWidth 16 <<< 8) ||| l.setWidth 16

/-- zext_16 (R11). -/
def zext16 (b : Byte) : Word := b.setWidth 16

/-- sext_16 (R11): two's complement, -128..127. -/
def sext16 (b : Byte) : Word := b.signExtend 16

theorem toNat_lo (w : Word) : (lo w).toNat = w.toNat % 256 := by
  simp [lo]

theorem toNat_hi (w : Word) : (hi w).toNat = w.toNat / 256 := by
  simp [hi, Nat.shiftRight_eq_div_pow]
  omega

theorem toNat_joinBytes (h l : Byte) : (joinBytes h l).toNat = 256 * h.toNat + l.toNat := by
  have hl : l.toNat < 2 ^ 8 := l.isLt
  have hh : h.toNat < 2 ^ 8 := h.isLt
  have h1 : h.toNat % 65536 = h.toNat := by omega
  have h2 : l.toNat % 65536 = l.toNat := by omega
  have h3 : (h.toNat <<< 8) % 65536 = h.toNat <<< 8 := by
    rw [Nat.shiftLeft_eq]; omega
  simp only [joinBytes, BitVec.toNat_or, BitVec.toNat_shiftLeft, BitVec.toNat_setWidth, Nat.reducePow, h1, h2, h3]
  rw [← Nat.shiftLeft_add_eq_or_of_lt hl, Nat.shiftLeft_eq]
  omega

theorem joinBytes_hi_lo (w : Word) : joinBytes (hi w) (lo w) = w := by
  apply BitVec.eq_of_toNat_eq
  rw [toNat_joinBytes, toNat_hi, toNat_lo]
  omega

theorem lo_joinBytes (h l : Byte) : lo (joinBytes h l) = l := by
  apply BitVec.eq_of_toNat_eq
  rw [toNat_lo, toNat_joinBytes]
  omega

theorem hi_joinBytes (h l : Byte) : hi (joinBytes h l) = h := by
  apply BitVec.eq_of_toNat_eq
  rw [toNat_hi, toNat_joinBytes]
  omega

/-- Why a byte string is no instruction. No opcode is refused (R116), only a string that ends too soon. -/
inductive DecodeError where
  /-- there is no opcode byte -/
  | noOpcode
  /-- the string ends before the operand bytes that the opcode's mode needs (R110) -/
  | missingOperand (opcode : Byte)
  deriving DecidableEq, Repr


/-- Row 0x of the opcode map (R114): column, first and second operand byte. -/
def decodeRow0 (column : Nat) (b1 b2 : Byte) : Instr :=
  match column with
  | 0 => .brk
  | 1 => .oraIndX b1
  | 2 => .jam02
  | 3 => .sloIndX b1
  | 4 => .nopZp04 b1
  | 5 => .oraZp b1
  | 6 => .aslZp b1
  | 7 => .sloZp b1
  | 8 => .php
  | 9 => .oraImm b1
  | 10 => .aslA
  | 11 => .ancImm0B b1
  | 12 => .nopAbs (joinBytes b2 b1)
  | 13 => .oraAbs (joinBytes b2 b1)
  | 14 => .aslAbs (joinBytes b2 b1)
  | _ => .sloAbs (joinBytes b2 b1)

/-- Row 1x of the opcode map (R114): column, first and second operand byte. -/
def decodeRow1 (column : Nat) (b1 b2 : Byte) : Instr :=
  match column with
  | 0 => .bpl b1
  | 1 => .oraIndY b1
  | 2 => .jam12
  | 3 => .sloIndY b1
  | 4 => .nopZpX14 b1
  | 5 => .oraZpX b1
  | 6 => .aslZpX b1
  | 7 => .sloZpX b1
  | 8 => .clc
  | 9 => .oraAbsY (joinBytes b2 b1)
  | 10 => .nop1A
  | 11 => .sloAbsY (joinBytes b2 b1)
  | 12 => .nopAbsX1C (joinBytes b2 b1)
  | 13 => .oraAbsX (joinBytes b2 b1)
  | 14 => .aslAbsX (joinBytes b2 b1)
  | _ => .sloAbsX (joinBytes b2 b1)

/-- Row 2x of the opcode map (R114): column, first and second operand byte. -/
def decodeRow2 (column : Nat) (b1 b2 : Byte) : Instr :=
  match column with
  | 0 => .jsr (joinBytes b2 b1)
  | 1 => .andIndX b1
  | 2 => .jam22
  | 3 => .rlaIndX b1
  | 4 => .bitZp b1
  | 5 => .andZp b1
  | 6 => .rolZp b1
  | 7 => .rlaZp b1
  | 8 => .plp
  | 9 => .andImm b1
  | 10 => .rolA
  | 11 => .ancImm2B b1
  | 12 => .bitAbs (joinBytes b2 b1)
  | 13 => .andAbs (joinBytes b2 b1)
  | 14 => .rolAbs (joinBytes b2 b1)
  | _ => .rlaAbs (joinBytes b2 b1)

/-- Row 3x of the opcode map (R114): column, first and second operand byte. -/
def decodeRow3 (column : Nat) (b1 b2 : Byte) : Instr :=
  match column with
  | 0 => .bmi b1
  | 1 => .andIndY b1
  | 2 => .jam32
  | 3 => .rlaIndY b1
  | 4 => .nopZpX34 b1
  | 5 => .andZpX b1
  | 6 => .rolZpX b1
  | 7 => .rlaZpX b1
  | 8 => .sec
  | 9 => .andAbsY (joinBytes b2 b1)
  | 10 => .nop3A
  | 11 => .rlaAbsY (joinBytes b2 b1)
  | 12 => .nopAbsX3C (joinBytes b2 b1)
  | 13 => .andAbsX (joinBytes b2 b1)
  | 14 => .rolAbsX (joinBytes b2 b1)
  | _ => .rlaAbsX (joinBytes b2 b1)

/-- Row 4x of the opcode map (R114): column, first and second operand byte. -/
def decodeRow4 (column : Nat) (b1 b2 : Byte) : Instr :=
  match column with
  | 0 => .rti
  | 1 => .eorIndX b1
  | 2 => .jam42
  | 3 => .sreIndX b1
  | 4 => .nopZp44 b1
  | 5 => .eorZp b1
  | 6 => .lsrZp b1
  | 7 => .sreZp b1
  | 8 => .pha
  | 9 => .eorImm b1
  | 10 => .lsrA
  | 11 => .alrImm b1
  | 12 => .jmpAbs (joinBytes b2 b1)
  | 13 => .eorAbs (joinBytes b2 b1)
  | 14 => .lsrAbs (joinBytes b2 b1)
  | _ => .sreAbs (joinBytes b2 b1)

/-- Row 5x of the opcode map (R114): column, first and second operand byte. -/
def decodeRow5 (column : Nat) (b1 b2 : Byte) : Instr :=
  match column with
  | 0 => .bvc b1
  | 1 => .eorIndY b1
  | 2 => .jam52
  | 3 => .sreIndY b1
  | 4 => .nopZpX54 b1
  | 5 => .eorZpX b1
  | 6 => .lsrZpX b1
  | 7 => .sreZpX b1
  | 8 => .cli
  | 9 => .eorAbsY (joinBytes b2 b1)
  | 10 => .nop5A
  | 11 => .sreAbsY (joinBytes b2 b1)
  | 12 => .nopAbsX5C (joinBytes b2 b1)
  | 13 => .eorAbsX (joinBytes b2 b1)
  | 14 => .lsrAbsX (joinBytes b2 b1)
  | _ => .sreAbsX (joinBytes b2 b1)

/-- Row 6x of the opcode map (R114): column, first and second operand byte. -/
def decodeRow6 (column : Nat) (b1 b2 : Byte) : Instr :=
  match column with
  | 0 => .rts
  | 1 => .adcIndX b1
  | 2 => .jam62
  | 3 => .rraIndX b1
  | 4 => .nopZp64 b1
  | 5 => .adcZp b1
  | 6 => .rorZp b1
  | 7 => .rraZp b1
  | 8 => .pla
  | 9 => .adcImm b1
  | 10 => .rorA
  | 11 => .arrImm b1
  | 12 => .jmpInd (joinBytes b2 b1)
  | 13 => .adcAbs (joinBytes b2 b1)
  | 14 => .rorAbs (joinBytes b2 b1)
  | _ => .rraAbs (joinBytes b2 b1)

/-- Row 7x of the opcode map (R114): column, first and second operand byte. -/
def decodeRow7 (column : Nat) (b1 b2 : Byte) : Instr :=
  match column with
  | 0 => .bvs b1
  | 1 => .adcIndY b1
  | 2 => .jam72
  | 3 => .rraIndY b1
  | 4 => .nopZpX74 b1
  | 5 => .adcZpX b1
  | 6 => .rorZpX b1
  | 7 => .rraZpX b1
  | 8 => .sei
  | 9 => .adcAbsY (joinBytes b2 b1)
  | 10 => .nop7A
  | 11 => .rraAbsY (joinBytes b2 b1)
  | 12 => .nopAbsX7C (joinBytes b2 b1)
  | 13 => .adcAbsX (joinBytes b2 b1)
  | 14 => .rorAbsX (joinBytes b2 b1)
  | _ => .rraAbsX (joinBytes b2 b1)

/-- Row 8x of the opcode map (R114): column, first and second operand byte. -/
def decodeRow8 (column : Nat) (b1 b2 : Byte) : Instr :=
  match column with
  | 0 => .nopImm80 b1
  | 1 => .staIndX b1
  | 2 => .nopImm82 b1
  | 3 => .saxIndX b1
  | 4 => .styZp b1
  | 5 => .staZp b1
  | 6 => .stxZp b1
  | 7 => .saxZp b1
  | 8 => .dey
  | 9 => .nopImm89 b1
  | 10 => .txa
  | 11 => .aneImm b1
  | 12 => .styAbs (joinBytes b2 b1)
  | 13 => .staAbs (joinBytes b2 b1)
  | 14 => .stxAbs (joinBytes b2 b1)
  | _ => .saxAbs (joinBytes b2 b1)

/-- Row 9x of the opcode map (R114): column, first and second operand byte. -/
def decodeRow9 (column : Nat) (b1 b2 : Byte) : Instr :=
  match column with
  | 0 => .bcc b1
  | 1 => .staIndY b1
  | 2 => .jam92
  | 3 => .shaIndY b1
  | 4 => .styZpX b1
  | 5 => .staZpX b1
  | 6 => .stxZpY b1
  | 7 => .saxZpY b1
  | 8 => .tya
  | 9 => .staAbsY (joinBytes b2 b1)
  | 10 => .txs
  | 11 => .shsAbsY (joinBytes b2 b1)
  | 12 => .shyAbsX (joinBytes b2 b1)
  | 13 => .staAbsX (joinBytes b2 b1)
  | 14 => .shxAbsY (joinBytes b2 b1)
  | _ => .shaAbsY (joinBytes b2 b1)

/-- Row Ax of the opcode map (R114): column, first and second operand byte. -/
def decodeRowA (column : Nat) (b1 b2 : Byte) : Instr :=
  match column with
  | 0 => .ldyImm b1
  | 1 => .ldaIndX b1
  | 2 => .ldxImm b1
  | 3 => .laxIndX b1
  | 4 => .ldyZp b1
  | 5 => .ldaZp b1
  | 6 => .ldxZp b1
  | 7 => .laxZp b1
  | 8 => .tay
  | 9 => .ldaImm b1
  | 10 => .tax
  | 11 => .lxaImm b1
  | 12 => .ldyAbs (joinBytes b2 b1)
  | 13 => .ldaAbs (joinBytes b2 b1)
  | 14 => .ldxAbs (joinBytes b2 b1)
  | _ => .laxAbs (joinBytes b2 b1)

/-- Row Bx of the opcode map (R114): column, first and second operand byte. -/
def decodeRowB (column : Nat) (b1 b2 : Byte) : Instr :=
  match column with
  | 0 => .bcs b1
  | 1 => .ldaIndY b1
  | 2 => .jamB2
  | 3 => .laxIndY b1
  | 4 => .ldyZpX b1
  | 5 => .ldaZpX b1
  | 6 => .ldxZpY b1
  | 7 => .laxZpY b1
  | 8 => .clv
  | 9 => .ldaAbsY (joinBytes b2 b1)
  | 10 => .tsx
  | 11 => .lasAbsY (joinBytes b2 b1)
  | 12 => .ldyAbsX (joinBytes b2 b1)
  | 13 => .ldaAbsX (joinBytes b2 b1)
  | 14 => .ldxAbsY (joinBytes b2 b1)
  | _ => .laxAbsY (joinBytes b2 b1)

/-- Row Cx of the opcode map (R114): column, first and second operand byte. -/
def decodeRowC (column : Nat) (b1 b2 : Byte) : Instr :=
  match column with
  | 0 => .cpyImm b1
  | 1 => .cmpIndX b1
  | 2 => .nopImmC2 b1
  | 3 => .dcpIndX b1
  | 4 => .cpyZp b1
  | 5 => .cmpZp b1
  | 6 => .decZp b1
  | 7 => .dcpZp b1
  | 8 => .iny
  | 9 => .cmpImm b1
  | 10 => .dex
  | 11 => .sbxImm b1
  | 12 => .cpyAbs (joinBytes b2 b1)
  | 13 => .cmpAbs (joinBytes b2 b1)
  | 14 => .decAbs (joinBytes b2 b1)
  | _ => .dcpAbs (joinBytes b2 b1)

/-- Row Dx of the opcode map (R114): column, first and second operand byte. -/
def decodeRowD (column : Nat) (b1 b2 : Byte) : Instr :=
  match column with
  | 0 => .bne b1
  | 1 => .cmpIndY b1
  | 2 => .jamD2
  | 3 => .dcpIndY b1
  | 4 => .nopZpXD4 b1
  | 5 => .cmpZpX b1
  | 6 => .decZpX b1
  | 7 => .dcpZpX b1
  | 8 => .cld
  | 9 => .cmpAbsY (joinBytes b2 b1)
  | 10 => .nopDA
  | 11 => .dcpAbsY (joinBytes b2 b1)
  | 12 => .nopAbsXDC (joinBytes b2 b1)
  | 13 => .cmpAbsX (joinBytes b2 b1)
  | 14 => .decAbsX (joinBytes b2 b1)
  | _ => .dcpAbsX (joinBytes b2 b1)

/-- Row Ex of the opcode map (R114): column, first and second operand byte. -/
def decodeRowE (column : Nat) (b1 b2 : Byte) : Instr :=
  match column with
  | 0 => .cpxImm b1
  | 1 => .sbcIndX b1
  | 2 => .nopImmE2 b1
  | 3 => .isbIndX b1
  | 4 => .cpxZp b1
  | 5 => .sbcZp b1
  | 6 => .incZp b1
  | 7 => .isbZp b1
  | 8 => .inx
  | 9 => .sbcImm b1
  | 10 => .nop
  | 11 => .usbcImm b1
  | 12 => .cpxAbs (joinBytes b2 b1)
  | 13 => .sbcAbs (joinBytes b2 b1)
  | 14 => .incAbs (joinBytes b2 b1)
  | _ => .isbAbs (joinBytes b2 b1)

/-- Row Fx of the opcode map (R114): column, first and second operand byte. -/
def decodeRowF (column : Nat) (b1 b2 : Byte) : Instr :=
  match column with
  | 0 => .beq b1
  | 1 => .sbcIndY b1
  | 2 => .jamF2
  | 3 => .isbIndY b1
  | 4 => .nopZpXF4 b1
  | 5 => .sbcZpX b1
  | 6 => .incZpX b1
  | 7 => .isbZpX b1
  | 8 => .sed
  | 9 => .sbcAbsY (joinBytes b2 b1)
  | 10 => .nopFA
  | 11 => .isbAbsY (joinBytes b2 b1)
  | 12 => .nopAbsXFC (joinBytes b2 b1)
  | 13 => .sbcAbsX (joinBytes b2 b1)
  | 14 => .incAbsX (joinBytes b2 b1)
  | _ => .isbAbsX (joinBytes b2 b1)

/-- The instruction of an opcode and the two bytes after it; a shorter instruction ignores what it does not own
(R110, R112, R114). -/
def decodeBytes (b0 b1 b2 : Byte) : Instr :=
  match b0.toNat / 16 with
  | 0 => decodeRow0 (b0.toNat % 16) b1 b2
  | 1 => decodeRow1 (b0.toNat % 16) b1 b2
  | 2 => decodeRow2 (b0.toNat % 16) b1 b2
  | 3 => decodeRow3 (b0.toNat % 16) b1 b2
  | 4 => decodeRow4 (b0.toNat % 16) b1 b2
  | 5 => decodeRow5 (b0.toNat % 16) b1 b2
  | 6 => decodeRow6 (b0.toNat % 16) b1 b2
  | 7 => decodeRow7 (b0.toNat % 16) b1 b2
  | 8 => decodeRow8 (b0.toNat % 16) b1 b2
  | 9 => decodeRow9 (b0.toNat % 16) b1 b2
  | 10 => decodeRowA (b0.toNat % 16) b1 b2
  | 11 => decodeRowB (b0.toNat % 16) b1 b2
  | 12 => decodeRowC (b0.toNat % 16) b1 b2
  | 13 => decodeRowD (b0.toNat % 16) b1 b2
  | 14 => decodeRowE (b0.toNat % 16) b1 b2
  | _ => decodeRowF (b0.toNat % 16) b1 b2

/-- The instruction at the head of a byte string and the rest of the string (R110). -/
def decode (bytes : List Byte) : Except DecodeError (Instr × List Byte) :=
  match bytes with
  | [] => .error .noOpcode
  | b0 :: rest =>
    match (decodeBytes b0 0 0).length, rest with
    | 1, rest => .ok (decodeBytes b0 0 0, rest)
    | 2, b1 :: rest => .ok (decodeBytes b0 b1 0, rest)
    | _, b1 :: b2 :: rest => .ok (decodeBytes b0 b1 b2, rest)
    | _, _ => .error (.missingOperand b0)

/-- The bytes of an instruction, the opcode at the lowest address, a word's low byte first (R82, R111). -/
def encode : Instr → List Byte
  | .brk => [0x00]
  | .oraIndX z => [0x01, z]
  | .jam02 => [0x02]
  | .sloIndX z => [0x03, z]
  | .nopZp04 z => [0x04, z]
  | .oraZp z => [0x05, z]
  | .aslZp z => [0x06, z]
  | .sloZp z => [0x07, z]
  | .php => [0x08]
  | .oraImm v => [0x09, v]
  | .aslA => [0x0A]
  | .ancImm0B v => [0x0B, v]
  | .nopAbs w => [0x0C, lo w, hi w]
  | .oraAbs w => [0x0D, lo w, hi w]
  | .aslAbs w => [0x0E, lo w, hi w]
  | .sloAbs w => [0x0F, lo w, hi w]
  | .bpl off => [0x10, off]
  | .oraIndY z => [0x11, z]
  | .jam12 => [0x12]
  | .sloIndY z => [0x13, z]
  | .nopZpX14 z => [0x14, z]
  | .oraZpX z => [0x15, z]
  | .aslZpX z => [0x16, z]
  | .sloZpX z => [0x17, z]
  | .clc => [0x18]
  | .oraAbsY w => [0x19, lo w, hi w]
  | .nop1A => [0x1A]
  | .sloAbsY w => [0x1B, lo w, hi w]
  | .nopAbsX1C w => [0x1C, lo w, hi w]
  | .oraAbsX w => [0x1D, lo w, hi w]
  | .aslAbsX w => [0x1E, lo w, hi w]
  | .sloAbsX w => [0x1F, lo w, hi w]
  | .jsr w => [0x20, lo w, hi w]
  | .andIndX z => [0x21, z]
  | .jam22 => [0x22]
  | .rlaIndX z => [0x23, z]
  | .bitZp z => [0x24, z]
  | .andZp z => [0x25, z]
  | .rolZp z => [0x26, z]
  | .rlaZp z => [0x27, z]
  | .plp => [0x28]
  | .andImm v => [0x29, v]
  | .rolA => [0x2A]
  | .ancImm2B v => [0x2B, v]
  | .bitAbs w => [0x2C, lo w, hi w]
  | .andAbs w => [0x2D, lo w, hi w]
  | .rolAbs w => [0x2E, lo w, hi w]
  | .rlaAbs w => [0x2F, lo w, hi w]
  | .bmi off => [0x30, off]
  | .andIndY z => [0x31, z]
  | .jam32 => [0x32]
  | .rlaIndY z => [0x33, z]
  | .nopZpX34 z => [0x34, z]
  | .andZpX z => [0x35, z]
  | .rolZpX z => [0x36, z]
  | .rlaZpX z => [0x37, z]
  | .sec => [0x38]
  | .andAbsY w => [0x39, lo w, hi w]
  | .nop3A => [0x3A]
  | .rlaAbsY w => [0x3B, lo w, hi w]
  | .nopAbsX3C w => [0x3C, lo w, hi w]
  | .andAbsX w => [0x3D, lo w, hi w]
  | .rolAbsX w => [0x3E, lo w, hi w]
  | .rlaAbsX w => [0x3F, lo w, hi w]
  | .rti => [0x40]
  | .eorIndX z => [0x41, z]
  | .jam42 => [0x42]
  | .sreIndX z => [0x43, z]
  | .nopZp44 z => [0x44, z]
  | .eorZp z => [0x45, z]
  | .lsrZp z => [0x46, z]
  | .sreZp z => [0x47, z]
  | .pha => [0x48]
  | .eorImm v => [0x49, v]
  | .lsrA => [0x4A]
  | .alrImm v => [0x4B, v]
  | .jmpAbs w => [0x4C, lo w, hi w]
  | .eorAbs w => [0x4D, lo w, hi w]
  | .lsrAbs w => [0x4E, lo w, hi w]
  | .sreAbs w => [0x4F, lo w, hi w]
  | .bvc off => [0x50, off]
  | .eorIndY z => [0x51, z]
  | .jam52 => [0x52]
  | .sreIndY z => [0x53, z]
  | .nopZpX54 z => [0x54, z]
  | .eorZpX z => [0x55, z]
  | .lsrZpX z => [0x56, z]
  | .sreZpX z => [0x57, z]
  | .cli => [0x58]
  | .eorAbsY w => [0x59, lo w, hi w]
  | .nop5A => [0x5A]
  | .sreAbsY w => [0x5B, lo w, hi w]
  | .nopAbsX5C w => [0x5C, lo w, hi w]
  | .eorAbsX w => [0x5D, lo w, hi w]
  | .lsrAbsX w => [0x5E, lo w, hi w]
  | .sreAbsX w => [0x5F, lo w, hi w]
  | .rts => [0x60]
  | .adcIndX z => [0x61, z]
  | .jam62 => [0x62]
  | .rraIndX z => [0x63, z]
  | .nopZp64 z => [0x64, z]
  | .adcZp z => [0x65, z]
  | .rorZp z => [0x66, z]
  | .rraZp z => [0x67, z]
  | .pla => [0x68]
  | .adcImm v => [0x69, v]
  | .rorA => [0x6A]
  | .arrImm v => [0x6B, v]
  | .jmpInd w => [0x6C, lo w, hi w]
  | .adcAbs w => [0x6D, lo w, hi w]
  | .rorAbs w => [0x6E, lo w, hi w]
  | .rraAbs w => [0x6F, lo w, hi w]
  | .bvs off => [0x70, off]
  | .adcIndY z => [0x71, z]
  | .jam72 => [0x72]
  | .rraIndY z => [0x73, z]
  | .nopZpX74 z => [0x74, z]
  | .adcZpX z => [0x75, z]
  | .rorZpX z => [0x76, z]
  | .rraZpX z => [0x77, z]
  | .sei => [0x78]
  | .adcAbsY w => [0x79, lo w, hi w]
  | .nop7A => [0x7A]
  | .rraAbsY w => [0x7B, lo w, hi w]
  | .nopAbsX7C w => [0x7C, lo w, hi w]
  | .adcAbsX w => [0x7D, lo w, hi w]
  | .rorAbsX w => [0x7E, lo w, hi w]
  | .rraAbsX w => [0x7F, lo w, hi w]
  | .nopImm80 v => [0x80, v]
  | .staIndX z => [0x81, z]
  | .nopImm82 v => [0x82, v]
  | .saxIndX z => [0x83, z]
  | .styZp z => [0x84, z]
  | .staZp z => [0x85, z]
  | .stxZp z => [0x86, z]
  | .saxZp z => [0x87, z]
  | .dey => [0x88]
  | .nopImm89 v => [0x89, v]
  | .txa => [0x8A]
  | .aneImm v => [0x8B, v]
  | .styAbs w => [0x8C, lo w, hi w]
  | .staAbs w => [0x8D, lo w, hi w]
  | .stxAbs w => [0x8E, lo w, hi w]
  | .saxAbs w => [0x8F, lo w, hi w]
  | .bcc off => [0x90, off]
  | .staIndY z => [0x91, z]
  | .jam92 => [0x92]
  | .shaIndY z => [0x93, z]
  | .styZpX z => [0x94, z]
  | .staZpX z => [0x95, z]
  | .stxZpY z => [0x96, z]
  | .saxZpY z => [0x97, z]
  | .tya => [0x98]
  | .staAbsY w => [0x99, lo w, hi w]
  | .txs => [0x9A]
  | .shsAbsY w => [0x9B, lo w, hi w]
  | .shyAbsX w => [0x9C, lo w, hi w]
  | .staAbsX w => [0x9D, lo w, hi w]
  | .shxAbsY w => [0x9E, lo w, hi w]
  | .shaAbsY w => [0x9F, lo w, hi w]
  | .ldyImm v => [0xA0, v]
  | .ldaIndX z => [0xA1, z]
  | .ldxImm v => [0xA2, v]
  | .laxIndX z => [0xA3, z]
  | .ldyZp z => [0xA4, z]
  | .ldaZp z => [0xA5, z]
  | .ldxZp z => [0xA6, z]
  | .laxZp z => [0xA7, z]
  | .tay => [0xA8]
  | .ldaImm v => [0xA9, v]
  | .tax => [0xAA]
  | .lxaImm v => [0xAB, v]
  | .ldyAbs w => [0xAC, lo w, hi w]
  | .ldaAbs w => [0xAD, lo w, hi w]
  | .ldxAbs w => [0xAE, lo w, hi w]
  | .laxAbs w => [0xAF, lo w, hi w]
  | .bcs off => [0xB0, off]
  | .ldaIndY z => [0xB1, z]
  | .jamB2 => [0xB2]
  | .laxIndY z => [0xB3, z]
  | .ldyZpX z => [0xB4, z]
  | .ldaZpX z => [0xB5, z]
  | .ldxZpY z => [0xB6, z]
  | .laxZpY z => [0xB7, z]
  | .clv => [0xB8]
  | .ldaAbsY w => [0xB9, lo w, hi w]
  | .tsx => [0xBA]
  | .lasAbsY w => [0xBB, lo w, hi w]
  | .ldyAbsX w => [0xBC, lo w, hi w]
  | .ldaAbsX w => [0xBD, lo w, hi w]
  | .ldxAbsY w => [0xBE, lo w, hi w]
  | .laxAbsY w => [0xBF, lo w, hi w]
  | .cpyImm v => [0xC0, v]
  | .cmpIndX z => [0xC1, z]
  | .nopImmC2 v => [0xC2, v]
  | .dcpIndX z => [0xC3, z]
  | .cpyZp z => [0xC4, z]
  | .cmpZp z => [0xC5, z]
  | .decZp z => [0xC6, z]
  | .dcpZp z => [0xC7, z]
  | .iny => [0xC8]
  | .cmpImm v => [0xC9, v]
  | .dex => [0xCA]
  | .sbxImm v => [0xCB, v]
  | .cpyAbs w => [0xCC, lo w, hi w]
  | .cmpAbs w => [0xCD, lo w, hi w]
  | .decAbs w => [0xCE, lo w, hi w]
  | .dcpAbs w => [0xCF, lo w, hi w]
  | .bne off => [0xD0, off]
  | .cmpIndY z => [0xD1, z]
  | .jamD2 => [0xD2]
  | .dcpIndY z => [0xD3, z]
  | .nopZpXD4 z => [0xD4, z]
  | .cmpZpX z => [0xD5, z]
  | .decZpX z => [0xD6, z]
  | .dcpZpX z => [0xD7, z]
  | .cld => [0xD8]
  | .cmpAbsY w => [0xD9, lo w, hi w]
  | .nopDA => [0xDA]
  | .dcpAbsY w => [0xDB, lo w, hi w]
  | .nopAbsXDC w => [0xDC, lo w, hi w]
  | .cmpAbsX w => [0xDD, lo w, hi w]
  | .decAbsX w => [0xDE, lo w, hi w]
  | .dcpAbsX w => [0xDF, lo w, hi w]
  | .cpxImm v => [0xE0, v]
  | .sbcIndX z => [0xE1, z]
  | .nopImmE2 v => [0xE2, v]
  | .isbIndX z => [0xE3, z]
  | .cpxZp z => [0xE4, z]
  | .sbcZp z => [0xE5, z]
  | .incZp z => [0xE6, z]
  | .isbZp z => [0xE7, z]
  | .inx => [0xE8]
  | .sbcImm v => [0xE9, v]
  | .nop => [0xEA]
  | .usbcImm v => [0xEB, v]
  | .cpxAbs w => [0xEC, lo w, hi w]
  | .sbcAbs w => [0xED, lo w, hi w]
  | .incAbs w => [0xEE, lo w, hi w]
  | .isbAbs w => [0xEF, lo w, hi w]
  | .beq off => [0xF0, off]
  | .sbcIndY z => [0xF1, z]
  | .jamF2 => [0xF2]
  | .isbIndY z => [0xF3, z]
  | .nopZpXF4 z => [0xF4, z]
  | .sbcZpX z => [0xF5, z]
  | .incZpX z => [0xF6, z]
  | .isbZpX z => [0xF7, z]
  | .sed => [0xF8]
  | .sbcAbsY w => [0xF9, lo w, hi w]
  | .nopFA => [0xFA]
  | .isbAbsY w => [0xFB, lo w, hi w]
  | .nopAbsXFC w => [0xFC, lo w, hi w]
  | .sbcAbsX w => [0xFD, lo w, hi w]
  | .incAbsX w => [0xFE, lo w, hi w]
  | .isbAbsX w => [0xFF, lo w, hi w]

/-- The instruction that the decoder reads from an instruction whose bits are w, bit 0 the least significant bit of the
first byte; every bit above nbits is 0. -/
def decodeTableWord (nbits w : Nat) : Option Instr :=
  let v := w % 2 ^ nbits
  match decode [BitVec.ofNat 8 v, BitVec.ofNat 8 (v / 256), BitVec.ofNat 8 (v / 65536)] with
  | .ok (i, _) => some i
  | .error _ => none

end Sys2Proof
end

