-- ==== Sys2Proof/Machine/PowerOn.lean ====
section
/-! DEFINITION. The power-on values that State.reset takes where the spec gives a default or leaves the value open
(R9, R46, R80, R548, R590, R599, R620). Each is named in the assumption log; the values the spec fixes stand in State.reset. -/

namespace Sys2Proof.Machine

/-- Power-on content of A, X and Y (R46: INIT_A, INIT_X, INIT_Y). DESIGN CHOICE, unsafe (log 3). -/
def powerOnRegister : Byte := 0

/-- INIT_S (R46). DESIGN CHOICE, unsafe (log 3). -/
def powerOnS : Byte := 0

/-- INIT_PC (R46). DESIGN CHOICE, unsafe (log 3). -/
def powerOnPC : Word := 0

/-- Power-on content of each stored flag (R46: INIT_P). DESIGN CHOICE, unsafe (log 3). -/
def powerOnFlag : Bool := false

/-- Power-on content of a byte latch, a word latch and a one-bit latch of the microsequencer. DESIGN CHOICE, unsafe (log 4). -/
def powerOnLatch : Byte := 0

/-- See powerOnLatch. -/
def powerOnAddressLatch : Word := 0

/-- VIA_INIT_T1C and VIA_INIT_T2C (R548). DESIGN CHOICE, unsafe (log 5). -/
def powerOnCounter : Word := 0

/-- VIA_INIT_T1L, VIA_INIT_T2L and VIA_INIT_SR (R548). DESIGN CHOICE, unsafe (log 5). -/
def powerOnViaByte : Byte := 0

/-- UNINIT_AS_DRAW (R9, R46). DESIGN CHOICE, unsafe (log 23): the spec's default is false; a machine that State.reset starts
holds the draws INIT_A, INIT_X, INIT_Y and INIT_P instead, so that every program can run from reset. -/
def initialUninitAsDraw : Bool := true

/-- MAGIC (R9, R430). The spec's default. -/
def defaultMagic : Byte := 0xEE

/-- I_FLAG_DELAY (R9, R476). The spec's default. -/
def defaultIFlagDelay : Bool := true

/-- VECTOR_HIJACK (R9, R485). The spec's default. -/
def defaultVectorHijack : Bool := true

/-- SH_RDY_QUIRK (R9, R434). The spec's default. -/
def defaultShRdyQuirk : Bool := false

/-- T1_ONESHOT_RELOAD (R9, R572). The spec's default. -/
def defaultT1OneshotReload : Bool := true

/-- ATTACH_DELAY, DETACH_DELAY, ATTACH_DETACH_DELAY (R9, OPEN). DESIGN CHOICE, unsafe (log 6). -/
def initialWindowDelay : Nat := 0

/-- NOISE_ENABLED (R9, OPEN). DESIGN CHOICE, unsafe (log 6). -/
def initialNoiseEnabled : Bool := false

/-- NOISE_PATTERN (R9, OPEN). DESIGN CHOICE, unsafe (log 6). -/
def initialNoisePattern : BitVec 6 := 0

/-- MAX_HALFTRACKS (R9, OPEN; R620: at least 84 on a 1541). DESIGN CHOICE, unsafe (log 6). -/
def initialMaxHalftracks : Nat := 84

/-- MAX_TRACK_BYTES (R9, OPEN; R620: at least 7928 on a 1541). DESIGN CHOICE, unsafe (log 6). -/
def initialMaxTrackBytes : Nat := 7928

/-- Whether the drive's devices are attached to the core (R45, R80, R670). DESIGN CHOICE, unsafe (log 1). -/
def initialDriveAttached : Bool := true

/-- The drive's device number (R590). DESIGN CHOICE, unsafe (log 8). -/
def initialDriveId : Nat := 8

/-- The head's half-track at power-on. DEDUCED from R605 sequence 4, unsafe (log 7). -/
def powerOnHalfTrack : Nat := 33

/-- Whether a disk that is not there is write-protected (R620). DESIGN CHOICE, unsafe (log 27). -/
def powerOnWriteProtected : Bool := false

end Sys2Proof.Machine
end

