-- ==== Sys2Proof/Machine/State.lean ====
section
/-! DEFINITION. The machine's state as plain data, all of it, and the state at power-on (R30 to R46, R547, R599, R600,
R620, R640, R670). INVENTORY.md lists each field with its rule and its power-on value. -/

namespace Sys2Proof.Machine

/-- Why the machine stops. -/
inductive Fault where
  /-- CLEAR_NEVER_RAISED (R503): raised by `clearIRQ` or `clearNMI` on a line with no active source, whether the host
  or a VIA calls it. Safe: it is the spec's own stop, and no agent steps again (log 24). -/
  | clearNeverRaised
  /-- UNINIT_REG: with UNINIT_AS_DRAW = false, an operation that uses the value of a register or flag which nothing has written
  since power-on "enters `fault(UNINIT_REG)` in that tick instead of completing it" (R46; R503 lists the fault), and so does a
  decision that reads such an I while an IRQ source is active (R476). State.reset takes UNINIT_AS_DRAW = true, with which nothing
  raises it (log 23). Safe: it is the spec's own stop. -/
  | uninitReg
  deriving DecidableEq, Repr

/-- Why an instruction has no meaning. -/
inductive Refusal where
  /-- Raised by an arm of `exec` for an instruction that is not modelled. Safe: nothing is claimed of it. -/
  | notModelled (mnemonic : String)
  deriving DecidableEq, Repr

/-- The eight stored flags (R35). -/
structure Flags where
  n : Bool
  v : Bool
  u : Bool
  b : Bool
  d : Bool
  i : Bool
  z : Bool
  c : Bool
  deriving DecidableEq, Repr

/-- The `written` bits (R46): set by every write since power-on. -/
structure Written where
  a : Bool
  x : Bool
  y : Bool
  n : Bool
  v : Bool
  d : Bool
  i : Bool
  z : Bool
  c : Bool
  deriving DecidableEq, Repr

/-- The register file (R30 to R35). -/
structure Cpu where
  a : Byte
  x : Byte
  y : Byte
  s : Byte
  pc : Word
  p : Flags
  written : Written
  deriving DecidableEq, Repr

/-- The three entry sequences (R10). -/
inductive Entry where
  | rst | nmi | irq
  deriving DecidableEq, Repr

/-- SEQ (R41): what the next micro-op belongs to. The opcode of `op` is IR. -/
inductive Seq where
  | boundary
  | op
  | entry (k : Entry)
  deriving DecidableEq, Repr

/-- The microsequencer's latches (R41). `lo` is the low byte that R167 to R178 and R349 to R354 carry to a later tick.
`op1` and `op2` are the model's own copies of the operand bytes as they were fetched (log 10), `iprevKnown` its `written` bit of
IPREV (log 37). -/
structure Latches where
  seq : Seq
  ir : Byte
  cyc : Nat
  ea : Word
  ptr : Byte
  data : Byte
  bah : Byte
  cross : Bool
  off : Byte
  vec : Word
  brkb : Bool
  ichg : Bool
  iprev : Bool
  iprevKnown : Bool
  shstall : Bool
  lo : Byte
  op1 : Byte
  op2 : Byte
  deriving DecidableEq, Repr

/-- A recognition-latency counter: 0, 1 or 2 (R42, R474). -/
inductive Lat where
  | zero | one | two
  deriving DecidableEq, Repr

/-- Interrupt state (R42). -/
structure Interrupts where
  irqCount : Nat
  nmiCount : Nat
  nmiPending : Bool
  rstPending : Bool
  irqLat : Lat
  nmiLat : Lat
  rstLat : Lat
  deriving DecidableEq, Repr

/-- An edge of a control line (R530). -/
inductive Edge where
  | rise | fall
  deriving DecidableEq, Repr

/-- A control line of a VIA (R530). -/
inductive ControlLine where
  | ca1 | ca2 | cb1 | cb2
  deriving DecidableEq, Repr

/-- The two VIAs (R530): the bus controller and the disk controller. -/
inductive ViaId where
  | via1 | via2
  deriving DecidableEq, Repr

/-- One VIA (R547). -/
structure Via where
  ora : Byte
  orb : Byte
  ddra : Byte
  ddrb : Byte
  t1c : Word
  t1ll : Byte
  t1lh : Byte
  t2c : Word
  t2ll : Byte
  t2lh : Byte
  sr : Byte
  acr : Byte
  pcr : Byte
  ifr : BitVec 7
  ier : BitVec 7
  t1load : Bool
  t2load : Bool
  t1armed : Bool
  t2armed : Bool
  pb7 : Bool
  ca2hs : Bool
  cb2hs : Bool
  ca2pulse : Bool
  cb2pulse : Bool
  latchA : Byte
  latchB : Byte
  lastCA2 : Option Edge
  lastCB2 : Option Edge
  irqOut : Bool
  deriving DecidableEq, Repr

/-- Stepper, head position and disk-change windows (R599, R600). `attachAt` is the end of an insertion's window. -/
structure Mech where
  phase : BitVec 2
  halfTrack : Nat
  attachEnd : Nat
  detachEnd : Nat
  swapEnd : Nat
  attachAt : Option Nat
  deriving DecidableEq, Repr

/-- The bytes of one half-track (R620: `buf` and `size[h]` together). -/
structure Track where
  half : Nat
  bytes : List Byte
  deriving DecidableEq, Repr

/-- The track buffer (R620). `denied` holds the half-tracks that `isAllowed()` refused to create (R626). -/
structure Disk where
  tracks : List Track
  bitPos : Nat
  attached : Bool
  writeProtected : Bool
  dirty : List Nat
  denied : List Nat
  deriving DecidableEq, Repr

/-- The rotation engine (R640). -/
structure Rotation where
  acc : Nat
  bitCounter : Nat
  history : BitVec 10
  writeShift : Byte
  zone : BitVec 2
  motor : Bool
  writing : Bool
  zeroRun : Nat
  zc : Nat
  readLatch : Byte
  staleFirst : Bool
  ca1Low : Bool
  lastTick : Nat
  deriving DecidableEq, Repr

/-- What is attached to the core: memory alone (R45: no platform callback), or the drive's VIAs and rotation engine. -/
inductive Platform where
  | core | drive
  deriving DecidableEq, Repr

/-- What answers an address outside the VIAs' windows (R80): storage, storage that ignores writes, or nothing. -/
inductive RegionKind where
  | ram | rom | unmapped
  deriving DecidableEq, Repr

/-- A region of the platform's memory map (R80): `size` addresses from `base`. -/
structure Region where
  base : Nat
  size : Nat
  kind : RegionKind
  deriving DecidableEq, Repr

/-- The arguments of the model (R9, R80, R590). No step changes them. `regions` is the platform's memory map: the first region
that holds an address decides, an address in none is RAM (log 2). -/
structure Params where
  uninitAsDraw : Bool
  iFlagDelay : Bool
  vectorHijack : Bool
  magic : Byte
  shRdyQuirk : Bool
  t1OneshotReload : Bool
  attachDelay : Nat
  detachDelay : Nat
  attachDetachDelay : Nat
  noiseEnabled : Bool
  noisePattern : BitVec 6
  maxHalftracks : Nat
  maxTrackBytes : Nat
  platform : Platform
  regions : List Region
  driveId : Nat
  deriving DecidableEq, Repr

/-- Which half of the current tick runs next (R15, R44). -/
inductive Half where
  | phi1 | phi2
  deriving DecidableEq, Repr

/-- A call the outside world makes (R40, R530, R600, R623, R625, R672). -/
inductive HostCall where
  | triggerIRQ
  | clearIRQ
  | triggerNMI
  | clearNMI
  | triggerRST
  | setBusHold (level : Bool)
  | forcedJump (addr : Word)
  | setOverflow
  | signal (via : ViaId) (line : ControlLine) (edge : Edge)
  | driveReset
  | insert (tracks : List Track) (writeProtected : Bool)
  | eject
  | setTrack (half : Nat) (bytes : List Byte)
  deriving DecidableEq, Repr

/-- Where in its tick a host call stands, among the five events that the spec orders in one (R95, R586): before VIA1's, VIA2's
or the rotation engine's step, before the CPU's micro-op, or after it. -/
inductive Moment where
  | beforeVia1 | beforeVia2 | beforeRotation | beforeCpu | afterCpu
  deriving DecidableEq, Repr

/-- A host call, the tick it is due in and its place in that tick (R95, R154, R478). -/
structure Due where
  at_ : Nat
  moment : Moment
  call : HostCall
  deriving DecidableEq, Repr

/-- One bus access (R13, R40). -/
inductive BusAccess where
  | read (addr : Word) (value : Byte)
  | write (addr : Word) (value : Byte)
  deriving DecidableEq, Repr

/-- A call made to a collaborator, or a host call refused (R591 to R594, R620, R623, R626). `id` is the drive's number. -/
inductive OutCall where
  | driveRead (handshake : Bool)
  | driveWrite (value : Byte) (handshake : Bool) (id : Nat)
  | deviceRead
  | updateDrive (id : Nat) (value : Byte)
  | pulse
  | isAllowed
  | setTrackRefused (half : Nat)
  | insertRefused
  deriving DecidableEq, Repr

/-- The machine. `mem` lists the bytes that differ from what an unlisted address reads as. -/
structure State where
  cpu : Cpu
  sq : Latches
  irq : Interrupts
  busHold : Bool
  mem : List Host.Cell
  via1 : Via
  via2 : Via
  mech : Mech
  disk : Disk
  rot : Rotation
  params : Params
  tick : Nat
  half : Half
  agenda : List Due
  draws : Nat
  bus : List BusAccess
  calls : List OutCall
  stopped : Option Fault
  deriving DecidableEq, Repr

/-- A VIA after power-on and `reset()` (R548, R585). -/
def Via.powerOn : Via where
  ora := 0
  orb := 0
  ddra := 0
  ddrb := 0
  t1c := powerOnCounter
  t1ll := powerOnViaByte
  t1lh := powerOnViaByte
  t2c := powerOnCounter
  t2ll := powerOnViaByte
  t2lh := powerOnViaByte
  sr := powerOnViaByte
  acr := 0
  pcr := 0
  ifr := 0
  ier := 0
  t1load := false
  t2load := false
  t1armed := false
  t2armed := false
  pb7 := true
  ca2hs := true
  cb2hs := true
  ca2pulse := false
  cb2pulse := false
  latchA := 0
  latchB := 0
  lastCA2 := none
  lastCB2 := none
  irqOut := false

/-- The CPU's registers at power-on (R46). -/
def Cpu.powerOn : Cpu where
  a := powerOnRegister
  x := powerOnRegister
  y := powerOnRegister
  s := powerOnS
  pc := powerOnPC
  p := ⟨powerOnFlag, powerOnFlag, powerOnFlag, powerOnFlag, powerOnFlag, powerOnFlag, powerOnFlag, powerOnFlag⟩
  written := ⟨false, false, false, false, false, false, false, false, false⟩

/-- The microsequencer at power-on (R46: SEQ is Boundary and ICHG 0). -/
def Latches.powerOn : Latches where
  seq := .boundary
  ir := powerOnLatch
  cyc := 1
  ea := powerOnAddressLatch
  ptr := powerOnLatch
  data := powerOnLatch
  bah := powerOnLatch
  cross := false
  off := powerOnLatch
  vec := powerOnAddressLatch
  brkb := false
  ichg := false
  iprev := false
  iprevKnown := false
  shstall := false
  lo := powerOnLatch
  op1 := powerOnLatch
  op2 := powerOnLatch

/-- The arguments of the model as State.reset takes them (R9). The memory map has no region: every address but the VIA windows
is RAM. DESIGN CHOICE, unsafe (log 2). -/
def Params.initial : Params where
  uninitAsDraw := initialUninitAsDraw
  iFlagDelay := defaultIFlagDelay
  vectorHijack := defaultVectorHijack
  magic := defaultMagic
  shRdyQuirk := defaultShRdyQuirk
  t1OneshotReload := defaultT1OneshotReload
  attachDelay := initialWindowDelay
  detachDelay := initialWindowDelay
  attachDetachDelay := initialWindowDelay
  noiseEnabled := initialNoiseEnabled
  noisePattern := initialNoisePattern
  maxHalftracks := initialMaxHalftracks
  maxTrackBytes := initialMaxTrackBytes
  platform := if initialDriveAttached then .drive else .core
  regions := []
  driveId := initialDriveId

/-- Power-on, before tick 0 (R670): the reset request is pending with its latency served, both VIAs have run `reset()`,
no disk is attached, memory lists nothing. The first step is the RST entry sequence (log 22). The track buffer, for which R620
gives no power-on content, starts with no tracks, so every `size[h]` is 0, and with nothing dirty: DESIGN CHOICE, unsafe
(log 35). The call `updateDrive(id, $FF)` that VIA1's `reset()` makes at power-on (R585, R594) belongs to no step and is not
in `calls`: DESIGN CHOICE, safe (log 21). -/
def State.reset : State where
  cpu := Cpu.powerOn
  sq := Latches.powerOn
  irq := ⟨0, 0, false, true, .zero, .zero, .two⟩
  busHold := false
  mem := []
  via1 := Via.powerOn
  via2 := Via.powerOn
  mech := ⟨3, powerOnHalfTrack, 0, 0, 0, none⟩
  disk := ⟨[], 0, false, powerOnWriteProtected, [], []⟩
  rot := ⟨0, 0, 0, 0, 3, true, false, 0, 0, 0, false, false, 0⟩
  params := Params.initial
  tick := 0
  half := .phi1
  agenda := []
  draws := 0
  bus := []
  calls := []
  stopped := none

end Sys2Proof.Machine
end

