-- ==== Sys2Proof/Machine/Registers.lean ====
section
/-! DEFINITION. The named operations on plain storage: memory bytes, registers and flags with their `written` bits (R46),
the interrupt lines (R471 to R475), the free-value counter and the two logs of a step. -/

namespace Sys2Proof.Machine

/-! ### Memory -/

/-- What a byte of storage reads as before anything has written it. DESIGN CHOICE, unsafe (log 2). -/
def Memory.unlisted (_addr : Nat) : Byte := 0

/-- The byte at an address. -/
def Memory.read (m : List Host.Cell) (a : Nat) : Byte :=
  match m with
  | [] => Memory.unlisted a
  | (k, v) :: rest => if k = a then v else Memory.read rest a

/-- Memory with one byte written, in canonical form. -/
def Memory.write (m : List Host.Cell) (a : Nat) (v : Byte) : List Host.Cell :=
  match m with
  | [] => if v = Memory.unlisted a then [] else [(a, v)]
  | (k, w) :: rest =>
    if a < k then
      if v = Memory.unlisted a then (k, w) :: rest else (a, v) :: (k, w) :: rest
    else if a = k then
      if v = Memory.unlisted a then rest else (a, v) :: rest
    else (k, w) :: Memory.write rest a v

/-- Every listed address is at least `n` and below 65536, the addresses rise strictly, and no entry equals what an
unlisted address reads as. -/
def Memory.wfFrom (n : Nat) (m : List Host.Cell) : Bool :=
  match m with
  | [] => true
  | (k, v) :: rest => decide (n ≤ k) && decide (k < 65536) && v != Memory.unlisted k && Memory.wfFrom (k + 1) rest

/-- The canonical form of memory. -/
def Memory.wf (m : List Host.Cell) : Bool := Memory.wfFrom 0 m

/-- The stored byte at an address of the bus. -/
def State.peek (s : State) (a : Word) : Byte := Memory.read s.mem a.toNat

/-- Store a byte of plain storage. -/
def State.poke (s : State) (a : Word) (v : Byte) : State := { s with mem := Memory.write s.mem a.toNat v }

/-! ### Registers and flags -/

/-- `A <- v` (R12, R46). -/
def State.setA (s : State) (v : Byte) : State :=
  { s with cpu := { s.cpu with a := v, written := { s.cpu.written with a := true } } }

/-- `X <- v`. -/
def State.setX (s : State) (v : Byte) : State :=
  { s with cpu := { s.cpu with x := v, written := { s.cpu.written with x := true } } }

/-- `Y <- v`. -/
def State.setY (s : State) (v : Byte) : State :=
  { s with cpu := { s.cpu with y := v, written := { s.cpu.written with y := true } } }

/-- `S <- v`. -/
def State.setS (s : State) (v : Byte) : State := { s with cpu := { s.cpu with s := v } }

/-- `PC <- v`. -/
def State.setPC (s : State) (v : Word) : State := { s with cpu := { s.cpu with pc := v } }

/-- `P.N <- v`. -/
def State.setN (s : State) (v : Bool) : State :=
  { s with cpu := { s.cpu with p := { s.cpu.p with n := v }, written := { s.cpu.written with n := true } } }

/-- `P.V <- v`, without the hook of R45 (Machine/Ops.lean's `writeV` calls it first). -/
def State.setV (s : State) (v : Bool) : State :=
  { s with cpu := { s.cpu with p := { s.cpu.p with v := v }, written := { s.cpu.written with v := true } } }

/-- `P.D <- v`. -/
def State.setD (s : State) (v : Bool) : State :=
  { s with cpu := { s.cpu with p := { s.cpu.p with d := v }, written := { s.cpu.written with d := true } } }

/-- `P.I <- v`. -/
def State.setI (s : State) (v : Bool) : State :=
  { s with cpu := { s.cpu with p := { s.cpu.p with i := v }, written := { s.cpu.written with i := true } } }

/-- `P.Z <- v`. -/
def State.setZ (s : State) (v : Bool) : State :=
  { s with cpu := { s.cpu with p := { s.cpu.p with z := v }, written := { s.cpu.written with z := true } } }

/-- `P.C <- v`. -/
def State.setC (s : State) (v : Bool) : State :=
  { s with cpu := { s.cpu with p := { s.cpu.p with c := v }, written := { s.cpu.written with c := true } } }

/-- The stored U and B bits (R35, R38): written by `unpack` alone, read by nothing (R37). -/
def State.setUB (s : State) (u b : Bool) : State :=
  { s with cpu := { s.cpu with p := { s.cpu.p with u := u, b := b } } }

/-- `setOverflow()`: `P.V <- 1`, the SO input (R45). -/
def State.setOverflow (s : State) : State := s.setV true

/-! ### Faults (R503) -/

/-- `fault(f)` (R503): "nothing clears it", so the first fault stays. -/
def State.fail (s : State) (f : Fault) : State := { s with stopped := s.stopped.or (some f) }

/-- What comes next in a tick: after a fault nothing does ("no further step of any agent is taken", R503). -/
def State.unlessStopped (s : State) (k : State → State) : State := if s.stopped.isSome then s else k s

/-! ### Reading a register that nothing has written (R46, R503) -/

/-- The registers and flags that have a `written` bit (R46). -/
inductive Source where
  | a | x | y | n | v | d | i | z | c
  deriving DecidableEq, Repr

/-- The `written` bit of a register or flag (R46). -/
def Written.has (w : Written) (r : Source) : Bool :=
  match r with
  | .a => w.a
  | .x => w.x
  | .y => w.y
  | .n => w.n
  | .v => w.v
  | .d => w.d
  | .i => w.i
  | .z => w.z
  | .c => w.c

/-- The values of these registers and flags may be used: all have been written, or UNINIT_AS_DRAW holds (R46). -/
def State.mayUse (s : State) (l : List Source) : Bool := s.params.uninitAsDraw || l.all s.cpu.written.has

/-- `fault(UNINIT_REG)` (R46: "enters `fault(UNINIT_REG)` in that tick instead of completing it"; R503). -/
def State.uninitFault (s : State) : State := s.fail .uninitReg

/-- An operation `k` that uses the values of the registers `l`: it is done, or the machine stops in its place (R46). -/
def State.using (s : State) (l : List Source) (k : State → State) : State := if s.mayUse l then k s else s.uninitFault

/-- The registers `l` are read (R46). -/
def State.uses (s : State) (l : List Source) : State := s.using l id

/-- The flags that `pack` reads (R37, R46). -/
def statusSources : List Source := [.n, .v, .d, .i, .z, .c]

/-! ### The microsequencer -/

/-- The sequence goes on with its next cycle (R151). -/
def State.nextCycle (s : State) : State := { s with sq := { s.sq with cyc := s.sq.cyc + 1 } }

/-- The sequence ends: the next micro-op is a terminal one (R151). -/
def State.finish (s : State) : State := { s with sq := { s.sq with seq := .boundary } }

def State.setEA (s : State) (w : Word) : State := { s with sq := { s.sq with ea := w } }

def State.setPTR (s : State) (v : Byte) : State := { s with sq := { s.sq with ptr := v } }

def State.setDATA (s : State) (v : Byte) : State := { s with sq := { s.sq with data := v } }

def State.setLo (s : State) (v : Byte) : State := { s with sq := { s.sq with lo := v } }

/-! ### Interrupt lines -/

/-- `triggerIRQ()` (R471): the latency starts on the line's 0-to-1 transition only. -/
def State.triggerIRQ (s : State) : State :=
  { s with irq := { s.irq with
      irqCount := s.irq.irqCount + 1
      irqLat := if s.irq.irqCount = 0 then .zero else s.irq.irqLat } }

/-- `clearIRQ()` (R471, R503). -/
def State.clearIRQ (s : State) : State :=
  if s.irq.irqCount = 0 then s.fail .clearNeverRaised
  else { s with irq := { s.irq with irqCount := s.irq.irqCount - 1 } }

/-- `triggerNMI()` (R472): only the 0-to-1 edge latches, and an edge while a request is pending is absorbed. -/
def State.triggerNMI (s : State) : State :=
  let edge := s.irq.nmiCount = 0 && !s.irq.nmiPending
  { s with irq := { s.irq with
      nmiCount := s.irq.nmiCount + 1
      nmiPending := if edge then true else s.irq.nmiPending
      nmiLat := if edge then .zero else s.irq.nmiLat } }

/-- `clearNMI()` (R472, R503). -/
def State.clearNMI (s : State) : State :=
  if s.irq.nmiCount = 0 then s.fail .clearNeverRaised
  else { s with irq := { s.irq with nmiCount := s.irq.nmiCount - 1 } }

/-- `triggerRST()` (R473). -/
def State.triggerRST (s : State) : State :=
  { s with irq := { s.irq with rstPending := true, rstLat := .zero } }

/-- A latency counter at the end of a tick in which the CPU executed (R474): min(lat + 1, 2). -/
def Lat.executed : Lat → Lat
  | .zero => .one
  | .one => .two
  | .two => .two

/-- A latency counter at the end of a tick in which the CPU stalled (R475): 0 becomes 1, 1 and 2 stay. -/
def Lat.stalled : Lat → Lat
  | .zero => .one
  | .one => .one
  | .two => .two

/-- All three latency counters at the end of a tick (R474, R475). -/
def State.updateLatency (s : State) (step : Lat → Lat) : State :=
  { s with irq := { s.irq with
      irqLat := step s.irq.irqLat
      nmiLat := step s.irq.nmiLat
      rstLat := step s.irq.rstLat } }

/-- The IRQ line is asserted (R471). -/
def State.irqLine (s : State) : Bool := s.irq.irqCount != 0

/-! ### Devices, logs and free values -/

/-- One of the two VIAs. -/
def State.via (s : State) (k : ViaId) : Via :=
  match k with
  | .via1 => s.via1
  | .via2 => s.via2

/-- Replace one of the two VIAs. -/
def State.setVia (s : State) (k : ViaId) (v : Via) : State :=
  match k with
  | .via1 => { s with via1 := v }
  | .via2 => { s with via2 := v }

/-- Append a bus access to the step's log (R6, R695). -/
def State.logBus (s : State) (b : BusAccess) : State := { s with bus := s.bus ++ [b] }

/-- Append a call to a collaborator to the step's log. -/
def State.logCall (s : State) (c : OutCall) : State := { s with calls := s.calls ++ [c] }

/-- A step begins with empty logs (log 21). -/
def State.clearLogs (s : State) : State := { s with bus := [], calls := [] }

/-- The next draw counter: every free value is applied to a fresh number (log 12). -/
def State.advanceDraws (s : State) : State := { s with draws := s.draws + 1 }

end Sys2Proof.Machine
end

