-- ==== Sys2Proof/Machine/Flags.lean ====
section
/-! DEFINITION. Every flag computation and every formula of the ALU (R12, R37, R38, R220, R260 to R263, R269, R300, R422). -/

namespace Sys2Proof.Machine

/-- A bit as 0 or 1. -/
def bit (b : Bool) : Nat := if b then 1 else 0

/-- `setNZ(v)` (R12, R220). -/
def State.setNZ (s : State) (v : Byte) : State := (s.setN v.msb).setZ (v == 0)

/-- `pack(P, b)` = N V 1 b D I Z C (R37). -/
def packFlags (p : Flags) (b : Bool) : Byte :=
  BitVec.ofNat 8 (128 * bit p.n + 64 * bit p.v + 32 + 16 * bit b + 8 * bit p.d + 4 * bit p.i + 2 * bit p.z + bit p.c)

/-- What the adder and the subtracter answer: the result byte and the four flags they set. -/
structure AluResult where
  value : Byte
  c : Bool
  v : Bool
  n : Bool
  z : Bool
  deriving DecidableEq, Repr

/-- Binary add (R260). -/
def adcBin (a v : Byte) (c : Bool) : AluResult :=
  let r := a.toNat + v.toNat + bit c
  let r8 : Byte := BitVec.ofNat 8 r
  { value := r8
    c := decide (r > 255)
    v := ((a ^^^ r8) &&& (v ^^^ r8) &&& 0x80) != 0
    n := r8.msb
    z := r8 == 0 }

/-- Decimal add (R261): Z from the binary sum, N and V before the high-nibble correction. -/
def adcDec (a v : Byte) (c : Bool) : AluResult :=
  let lo0 := a.toNat % 16 + v.toNat % 16 + bit c
  let lo := if lo0 > 9 then lo0 + 6 else lo0
  let hi0 := a.toNat / 16 * 16 + v.toNat / 16 * 16
  let hi1 := if lo > 0x0F then hi0 + 0x10 else hi0
  let hi1b : Byte := BitVec.ofNat 8 hi1
  let hi := if hi1 > 0x90 then hi1 + 0x60 else hi1
  { value := BitVec.ofNat 8 hi ||| BitVec.ofNat 8 (lo % 16)
    c := decide (hi > 0xFF)
    v := ((hi1b ^^^ a) &&& 0x80) != 0 && ((a ^^^ v) &&& 0x80) == 0
    n := hi1b.msb
    z := decide ((a.toNat + v.toNat + bit c) % 256 = 0) }

/-- Binary subtract (R262): the borrow is 1 - c. -/
def sbcBin (a v : Byte) (c : Bool) : AluResult :=
  let r : Int := (a.toNat : Int) - v.toNat - (1 - bit c)
  let r8 : Byte := BitVec.ofInt 8 r
  { value := r8
    c := decide (r ≥ 0)
    v := ((a ^^^ v) &&& (a ^^^ r8) &&& 0x80) != 0
    n := r8.msb
    z := r8 == 0 }

/-- Decimal subtract (R263): the flags of the binary subtract, the result on signed integers. -/
def sbcDec (a v : Byte) (c : Bool) : AluResult :=
  let lo0 : Int := ((a.toNat % 16 : Nat) : Int) - ((v.toNat % 16 : Nat) : Int) - (1 - bit c)
  let hi0 : Int := ((a.toNat / 16 * 16 : Nat) : Int) - ((v.toNat / 16 * 16 : Nat) : Int)
  let lo := if lo0 < 0 then lo0 - 6 else lo0
  let hi1 := if lo0 < 0 then hi0 - 0x10 else hi0
  let hi := if hi1 < 0 then hi1 - 0x60 else hi1
  { sbcBin a v c with value := BitVec.ofInt 8 hi ||| (BitVec.ofInt 8 lo &&& 0x0F) }

/-- The adder that P.D selects (R264). -/
def adcBy (d : Bool) (a v : Byte) (c : Bool) : AluResult := if d then adcDec a v c else adcBin a v c

/-- The subtracter that P.D selects (R265). -/
def sbcBy (d : Bool) (a v : Byte) (c : Bool) : AluResult := if d then sbcDec a v c else sbcBin a v c

/-- `cmp(r, v)` (R269): C, and N and Z of the difference; V, D and the registers stay. -/
def State.compare (s : State) (r v : Byte) : State := (s.setC (decide (v.toNat ≤ r.toNat))).setNZ (r - v)

/-- `asl(v)` (R300). -/
def aslByte (v : Byte) : Byte × Bool := (v <<< 1, v.msb)

/-- `lsr(v)` (R300). -/
def lsrByte (v : Byte) : Byte × Bool := (v >>> 1, v.getLsbD 0)

/-- `rol(v, c)` (R300). -/
def rolByte (v : Byte) (c : Bool) : Byte × Bool := ((v <<< 1) ||| BitVec.ofNat 8 (bit c), v.msb)

/-- `ror(v, c)` (R300). -/
def rorByte (v : Byte) (c : Bool) : Byte × Bool := ((v >>> 1) ||| BitVec.ofNat 8 (128 * bit c), v.getLsbD 0)

/-- ARR (R422) with `c` the carry and `d` the decimal flag before the instruction. -/
def arrResult (a v : Byte) (c d : Bool) : AluResult :=
  let t := a &&& v
  let r := (t >>> 1) ||| BitVec.ofNat 8 (128 * bit c)
  if d then
    let tl := t.toNat % 16
    let th := t.toNat / 16 * 16
    let r1 : Byte := if tl + t.toNat % 2 > 5 then (r &&& 0xF0) ||| ((r + 6) &&& 0x0F) else r
    let carry := decide (th + th % 32 > 0x50)
    let r2 : Byte := if carry then (r1 &&& 0x0F) ||| ((r1 + 0x60) &&& 0xF0) else r1
    { value := r2, c := carry, v := (t ^^^ r).getLsbD 6, n := c, z := r == 0 }
  else
    { value := r, c := r.getLsbD 6, v := r.getLsbD 6 ^^ r.getLsbD 5, n := r.msb, z := r == 0 }

end Sys2Proof.Machine
end

