-- ==== Sys2Proof/Machine/ViaLines.lean ====
section
/-! DEFINITION. The pins of a VIA: its interrupt output (R580), the levels of CA2 and CB2 (R560), the port inputs of each
specialization (R591, R592, R596, R597, R600), the port pins (R555 to R557) and the edges of the control lines
(R563, R564). -/

namespace Sys2Proof.Machine

/-- Set IFR or IER bits (R551). -/
def flagBit (k : Nat) : BitVec 7 := BitVec.ofNat 7 (2 ^ k)

/-- `(IFR & IER & $7F) != 0` (R544, R580). -/
def Via.wantsIrq (v : Via) : Bool := (v.ifr &&& v.ier) != 0

/-- `IFR[k] <- 1`. -/
def Via.raiseFlag (v : Via) (k : Nat) : Via := { v with ifr := v.ifr ||| flagBit k }

/-- `IFR[k] <- 0`. -/
def Via.clearFlag (v : Via) (k : Nat) : Via := { v with ifr := v.ifr &&& ~~~ flagBit k }

/-- `checkInterrupts()` (R580): the CPU hears only of an edge of the output. -/
def State.checkInterrupts (s : State) (k : ViaId) : State :=
  let v := s.via k
  if v.wantsIrq && !v.irqOut then (s.setVia k { v with irqOut := true }).triggerIRQ
  else if v.irqOut && !v.wantsIrq then (s.setVia k { v with irqOut := false }).clearIRQ
  else s

/-- PCR[3:1], the CA2 control field (R550). -/
def Via.ca2Mode (v : Via) : Nat := v.pcr.toNat / 2 % 8

/-- PCR[7:5], the CB2 control field (R550). -/
def Via.cb2Mode (v : Via) : Nat := v.pcr.toNat / 32

/-- The level of a CA2 or CB2 line from its control field and its flip-flop (R560). -/
def lineLevel (mode : Nat) (flipflop : Bool) : Bool :=
  if mode = 6 then false else if mode = 7 then true else if mode = 4 || mode = 5 then flipflop else true

/-- `ca2Level` (R560). -/
def Via.ca2Level (v : Via) : Bool := lineLevel v.ca2Mode v.ca2hs

/-- `cb2Level` (R560). -/
def Via.cb2Level (v : Via) : Bool := lineLevel v.cb2Mode v.cb2hs

/-- `outA` (R555). -/
def Via.outA (v : Via) : Byte := v.ora ||| ~~~ v.ddra

/-- A byte with bit 7 replaced when ACR[7] routes Timer A to PB7 (R555 to R557). -/
def Via.withPb7 (v : Via) (b : Byte) : Byte :=
  if v.acr.getLsbD 7 then (b &&& 0x7F) ||| BitVec.ofNat 8 (128 * bit v.pb7) else b

/-- `outB` (R555). -/
def Via.outB (v : Via) : Byte := v.withPb7 (v.orb ||| ~~~ v.ddrb)

/-- `pinsA` for the input byte `inA` (R555). -/
def Via.pinsA (v : Via) (inA : Byte) : Byte :=
  let src := if v.acr.getLsbD 0 then v.latchA else inA
  (v.ora &&& v.ddra) ||| (src &&& ~~~ v.ddra)

/-- `pinsB` for the input byte `inB` (R555). -/
def Via.pinsB (v : Via) (inB : Byte) : Byte :=
  let src := if v.acr.getLsbD 1 then v.latchB else inB
  (v.orb &&& v.ddrb) ||| (src &&& ~~~ v.ddrb)

/-- The disk-change window is open at the current tick (R600). -/
def State.windowOpen (s : State) : Bool :=
  decide (s.tick < s.mech.attachEnd) || decide (s.tick < s.mech.detachEnd) || decide (s.tick < s.mech.swapEnd)

/-- The write-protect sense (R600): 0 inside a window, else 0 for a protected disk, else 1. -/
def State.wpSense (s : State) : Bool :=
  if s.windowOpen then false else !(s.disk.attached && s.disk.writeProtected)

/-- `syncDetected()` (R644). -/
def State.syncDetected (s : State) : Bool := s.rot.history == 0x3FF && !s.rot.writing && !s.windowOpen

/-- A byte of a collaborator: a free value (R591, R592; log 12). -/
def State.drawByte (s : State) (c : OutCall) : Byte × State :=
  (Config.collaboratorByte s.draws, s.advanceDraws.logCall c)

/-- `inA` (R591: the cable's `driveRead(handshake)`; R596: the rotation engine's read latch). -/
def State.inA (s : State) (k : ViaId) (handshake : Bool) : Byte × State :=
  match k with
  | .via1 => s.drawByte (.driveRead handshake)
  | .via2 => (s.rot.readLatch, s)

/-- `inB` of VIA2: SYNC on bit 7 (low when detected), write-protect sense on bit 4, $6F elsewhere (R597). -/
def State.diskInB (s : State) : Byte :=
  BitVec.ofNat 8 (128 * bit (!s.syncDetected) + 16 * bit s.wpSense) ||| 0x6F

/-- `inB` (R592: the bus's `deviceRead()`; R597). -/
def State.inB (s : State) (k : ViaId) : Byte × State :=
  match k with
  | .via1 => s.drawByte .deviceRead
  | .via2 => (s.diskInB, s)

/-- An edge is active for an edge-select bit: 1 a rise, 0 a fall (R550, R563, R564). -/
def activeEdge (e : Edge) (select : Bool) : Bool :=
  match e with
  | .rise => select
  | .fall => !select

/-- `signal(CA1, e)` (R563). -/
def State.signalCA1 (s : State) (k : ViaId) (e : Edge) : State :=
  if activeEdge e ((s.via k).pcr.getLsbD 0) then
    let (b, s1) := (s.setVia k ((s.via k).raiseFlag 1)).inA k false
    let v := s1.via k
    (s1.setVia k { v with latchA := b, ca2hs := v.ca2hs || v.ca2Mode == 4 }).checkInterrupts k
  else s

/-- `signal(CB1, e)` (R563). -/
def State.signalCB1 (s : State) (k : ViaId) (e : Edge) : State :=
  if activeEdge e ((s.via k).pcr.getLsbD 4) then
    let (b, s1) := (s.setVia k ((s.via k).raiseFlag 4)).inB k
    let v := s1.via k
    (s1.setVia k { v with latchB := b, cb2hs := v.cb2hs || v.cb2Mode == 4 }).checkInterrupts k
  else s

/-- `signal(CA2, e)` (R564): recorded always, a flag only in an input mode. -/
def State.signalCA2 (s : State) (k : ViaId) (e : Edge) : State :=
  let v := { s.via k with lastCA2 := some e }
  if !v.pcr.getLsbD 3 && activeEdge e (v.pcr.getLsbD 2) then (s.setVia k (v.raiseFlag 0)).checkInterrupts k
  else s.setVia k v

/-- `signal(CB2, e)` (R564). -/
def State.signalCB2 (s : State) (k : ViaId) (e : Edge) : State :=
  let v := { s.via k with lastCB2 := some e }
  if !v.pcr.getLsbD 7 && activeEdge e (v.pcr.getLsbD 6) then (s.setVia k (v.raiseFlag 3)).checkInterrupts k
  else s.setVia k v

/-- `signal(line, edge)` (R530). -/
def State.signal (s : State) (k : ViaId) (line : ControlLine) (e : Edge) : State :=
  match line with
  | .ca1 => s.signalCA1 k e
  | .ca2 => s.signalCA2 k e
  | .cb1 => s.signalCB1 k e
  | .cb2 => s.signalCB2 k e

end Sys2Proof.Machine
end

