-- ==== Sys2Proof/Machine/Codec.lean ====
section
/-! DEFINITION. The GCR codec (R611 to R614), the sector format (R630 to R635), the track buffer and its head
(R620 to R626) and the scans over a track's bits (R636 to R638). -/

namespace Sys2Proof.Machine

/-! ### GCR code -/

/-- `gcr5(n)` (R611). -/
def gcr5 (n : BitVec 4) : BitVec 5 :=
  match n.toNat with
  | 0 => 0x0A | 1 => 0x0B | 2 => 0x12 | 3 => 0x13 | 4 => 0x0E | 5 => 0x0F | 6 => 0x16 | 7 => 0x17
  | 8 => 0x09 | 9 => 0x19 | 10 => 0x1A | 11 => 0x1B | 12 => 0x0D | 13 => 0x1D | 14 => 0x1E | _ => 0x15

/-- `nib(c)` (R612): an invalid code decodes to 0. -/
def nib (c : BitVec 5) : BitVec 4 :=
  match c.toNat with
  | 0x0A => 0 | 0x0B => 1 | 0x12 => 2 | 0x13 => 3 | 0x0E => 4 | 0x0F => 5 | 0x16 => 6 | 0x17 => 7
  | 0x09 => 8 | 0x19 => 9 | 0x1A => 10 | 0x1B => 11 | 0x0D => 12 | 0x1D => 13 | 0x1E => 14 | 0x15 => 15
  | _ => 0

/-- The two codes of a byte, high nibble first (R613). -/
def gcrByte (b : Byte) : BitVec 10 := gcr5 (b.extractLsb' 4 4) ++ gcr5 (b.extractLsb' 0 4)

/-- The byte of two codes (R614). -/
def ungcrByte (g : BitVec 10) : Byte := nib (g.extractLsb' 5 5) ++ nib (g.extractLsb' 0 5)

/-- `enc(bytes)` (R613): four bytes become five; an incomplete last group encodes to nothing. -/
def enc : List Byte → List Byte
  | b0 :: b1 :: b2 :: b3 :: rest =>
    let g : BitVec 40 := gcrByte b0 ++ gcrByte b1 ++ gcrByte b2 ++ gcrByte b3
    g.extractLsb' 32 8 :: g.extractLsb' 24 8 :: g.extractLsb' 16 8 :: g.extractLsb' 8 8 :: g.extractLsb' 0 8 :: enc rest
  | _ => []

/-- `dec(gcr)` (R614): five bytes become four; an incomplete last group decodes to nothing. -/
def dec : List Byte → List Byte
  | g0 :: g1 :: g2 :: g3 :: g4 :: rest =>
    let g : BitVec 40 := g0 ++ g1 ++ g2 ++ g3 ++ g4
    ungcrByte (g.extractLsb' 30 10) :: ungcrByte (g.extractLsb' 20 10) :: ungcrByte (g.extractLsb' 10 10)
      :: ungcrByte (g.extractLsb' 0 10) :: dec rest
  | _ => []

/-! ### Sectors -/

/-- The XOR of a list of bytes (R631). -/
def xorBytes (bytes : List Byte) : Byte := bytes.foldl (· ^^^ ·) 0

/-- The header block (R630); `flip` is XORed into its checksum (R633). -/
def headerBlock (track sector id1 id2 flip : Byte) : List Byte :=
  [0x08, sector ^^^ track ^^^ id2 ^^^ id1 ^^^ flip, sector, track, id2, id1, 0x0F, 0x0F]

/-- The data block (R631). -/
def dataBlock (data : List Byte) : List Byte := 0x07 :: data ++ [xorBytes data, 0x00, 0x00]

/-- The 354 bytes of R632 with a given XOR on the header checksum. -/
def plainSector (data : List Byte) (track sector id1 id2 flip : Byte) : List Byte :=
  List.replicate 5 0xFF ++ enc (headerBlock track sector id1 id2 flip) ++ List.replicate 9 0x55
    ++ List.replicate 5 0xFF ++ enc (dataBlock data)

/-- 354 bytes as ERROR_PATTERN makes them of 354 bytes (R633). -/
def corruptSector (err : Nat) (bytes : List Byte) : List Byte :=
  List.ofFn (Config.errorPattern err (fun k => bytes.getD k 0))

/-- `encodeSector` (R632, R633): the identity for code 0, the header-checksum XOR for code 27, ERROR_PATTERN for the rest
(DESIGN CHOICE, safe, log 28). -/
def encodeSector (data : List Byte) (track sector id1 id2 : Byte) (err : Nat) : List Byte :=
  if err = 0 then plainSector data track sector id1 id2 0
  else if err = 27 then plainSector data track sector id1 id2 0xFF
  else corruptSector err (plainSector data track sector id1 id2 0)

/-- `decodeSector` (R634): bytes 1..256 of the decoded data block, nothing checked. -/
def decodeSector (g : List Byte) : List Byte := ((dec g).drop 1).take 256

/-! ### Track buffer and head -/

/-- `getTrack(h)` (R623), empty where the half-track has no track. -/
def Disk.trackBytes (d : Disk) (h : Nat) : List Byte :=
  match d.tracks.find? (fun t => t.half == h) with
  | some t => t.bytes
  | none => []

/-- The buffer with half-track h's bytes replaced. -/
def Disk.putTrack (d : Disk) (h : Nat) (bytes : List Byte) : Disk :=
  { d with tracks := ⟨h, bytes⟩ :: d.tracks.filter (fun t => t.half != h) }

/-- `size[h]` (R620). -/
def Disk.size (d : Disk) (h : Nat) : Nat := (d.trackBytes h).length

/-- `base` (R620). -/
def State.base (s : State) : Nat := s.mech.halfTrack * s.params.maxTrackBytes

/-- `trackSizeBits` (R620). -/
def State.trackSizeBits (s : State) : Nat := 8 * s.disk.size s.mech.halfTrack

/-- Bit p of a track's bytes, most significant bit first (R621). -/
def bitAt (bytes : List Byte) (p : Nat) : Bool := (bytes.getD (p / 8) 0).getLsbD (7 - p % 8)

/-- A track's bytes with bit p set to b (R621). -/
def withBitAt (bytes : List Byte) (p : Nat) (b : Bool) : List Byte :=
  let old := bytes.getD (p / 8) 0
  let mask : Byte := 1#8 <<< (7 - p % 8)
  bytes.set (p / 8) (if b then old ||| mask else old &&& ~~~ mask)

/-- The head one bit further, wrapping at the track's end (R621). -/
def State.moveHead (s : State) : State :=
  { s with disk := { s.disk with bitPos := (s.disk.bitPos + 1) % s.trackSizeBits } }

/-- `readNextBit()` (R621). -/
def State.readNextBit (s : State) : Bool × State :=
  if s.trackSizeBits = 0 then (false, s)
  else (s.disk.attached && bitAt (s.disk.trackBytes s.mech.halfTrack) s.disk.bitPos, s.moveHead)

/-- The standard track length of a zone (R626). -/
def zoneTrackBytes (zone : BitVec 2) : Nat :=
  match zone.toNat with
  | 3 => 7692
  | 2 => 7142
  | 1 => 6666
  | _ => 6250

/-- A track fits the buffer's dimensions: `size[h] <= MAX_TRACK_BYTES` and h below MAX_HALFTRACKS (R620). -/
def Params.trackFits (p : Params) (t : Track) : Bool :=
  decide (t.bytes.length ≤ p.maxTrackBytes) && decide (t.half < p.maxHalftracks)

/-- `extendTrack()` (R626): `isAllowed()` is asked once for each half-track. DEDUCED, unsafe (log 20). A standard track that
does not fit the buffer is not created, and the write is discarded. DEDUCED, unsafe (log 32). -/
def State.extendTrack (s : State) : State :=
  let h := s.mech.halfTrack
  if s.disk.denied.contains h || decide (s.params.maxTrackBytes < zoneTrackBytes s.rot.zone) then s
  else
    let s1 := s.advanceDraws.logCall .isAllowed
    if Config.extendAllowed s.draws then
      { s1 with disk := s1.disk.putTrack h (List.replicate (zoneTrackBytes s.rot.zone) 0x55) }
    else { s1 with disk := { s1.disk with denied := h :: s1.disk.denied } }

/-- `writeNextBit(b)` (R621): an unattached or protected disk discards the bit, the head still moves. -/
def State.writeNextBit (s : State) (b : Bool) : State :=
  let s1 := if s.trackSizeBits = 0 then s.extendTrack else s
  if s1.trackSizeBits = 0 then s1
  else
    let h := s1.mech.halfTrack
    let s2 :=
      if s1.disk.attached && !s1.disk.writeProtected then
        let d := s1.disk.putTrack h (withBitAt (s1.disk.trackBytes h) s1.disk.bitPos b)
        { s1 with disk := { d with dirty := if d.dirty.contains h then d.dirty else h :: d.dirty } }
      else s1
    s2.moveHead

/-- The bit offset after the track under the head changes its length (R622): rescaled, rounded down, 0 if either is empty. -/
def rescale (bitPos oldBits newBits : Nat) : Nat :=
  if oldBits = 0 || newBits = 0 then 0 else bitPos * newBits / oldBits

/-- `setHalfTrack(h)` (R622). -/
def State.setHalfTrack (s : State) (h : Nat) : State :=
  { s with
    mech := { s.mech with halfTrack := h }
    disk := { s.disk with bitPos := rescale s.disk.bitPos s.trackSizeBits (8 * s.disk.size h) } }

/-- `setTrack(h, bytes)` (R623): refused, with no effect, beyond the buffer's dimensions (log 19). -/
def State.setTrack (s : State) (h : Nat) (bytes : List Byte) : State :=
  if !s.params.trackFits ⟨h, bytes⟩ then s.logCall (.setTrackRefused h)
  else
    let d := s.disk.putTrack h bytes
    if h = s.mech.halfTrack then
      { s with disk := { d with bitPos := rescale s.disk.bitPos s.trackSizeBits (8 * bytes.length) } }
    else { s with disk := d }

/-! ### Scans -/

/-- The bit at position p of the current half-track, taken modulo n bits; zeros from an unattached disk (R636, R637). -/
def State.scanBit (s : State) (n p : Nat) : Bool :=
  s.disk.attached && bitAt (s.disk.trackBytes s.mech.halfTrack) (p % n)

/-- A block starts at p: bit p is 0 and the ten bits before it, modulo n, are 1 (R636). DEDUCED, unsafe (log 26). -/
def State.blockStartsAt (s : State) (n p : Nat) : Bool :=
  !s.scanBit n p && (List.range 10).all (fun k => s.scanBit n (p + 10 * n - 1 - k))

/-- The byte of eight bits from p, most significant first. -/
def State.scanByte (s : State) (n p : Nat) : Byte :=
  BitVec.ofNat 8 ((List.range 8).foldl (fun acc k => 2 * acc + bit (s.scanBit n (p + k))) 0)

/-- `count` bytes of eight bits each from p, across the wrap (R637, R638). -/
def State.scanBytes (s : State) (n p count : Nat) : List Byte :=
  (List.range count).map (fun k => s.scanByte n (p + 8 * k))

/-- The first of `fuel` positions from p at which `found` holds, modulo n (R637, R638). -/
def scanFrom (found : Nat → Bool) (n : Nat) : Nat → Nat → Option Nat
  | 0, _ => none
  | fuel + 1, p => if found (p % n) then some (p % n) else scanFrom found n fuel (p + 1)

/-- `findSectorHeader(track, sector, sz)` (R637): the position just after the header's 80 bits. The rule says that sz must equal
`size[halfTrack]` and not what happens otherwise: then 8*sz positions are scanned, and a position beyond the track reads as 0.
DESIGN CHOICE, unsafe (log 36). -/
def State.findSectorHeader (s : State) (track sector : Byte) (sz : Nat) : Option Nat :=
  let n := 8 * sz
  let isHeader := fun p =>
    s.blockStartsAt n p &&
      (let h := dec (s.scanBytes n p 10)
       h.getD 0 0 == 0x08 && h.getD 3 0 == track && h.getD 2 0 == sector)
  (scanFrom isHeader n n s.disk.bitPos).map (fun p => (p + 80) % n)

/-- `findSectorData(p)` (R638): the first bit of the first block from p whose first decoded byte is $07. -/
def State.findSectorData (s : State) (p : Nat) : Option Nat :=
  let n := s.trackSizeBits
  let isData := fun q => s.blockStartsAt n q && (dec (s.scanBytes n q 5)).getD 0 0 == 0x07
  scanFrom isData n n p

/-- The 325 bytes that a caller reads from a data block's first bit (R638). -/
def State.readSectorBytes (s : State) (p : Nat) : List Byte := s.scanBytes s.trackSizeBits p 325

end Sys2Proof.Machine
end

