-- ==== Sys2Proof/Machine/Rotation.lean ====
section
/-! DEFINITION. The rotation engine (R640 to R651): bit cells, the read algorithm with its clock recovery and flux noise,
byte framing, the write path, byte-ready and `advance`. -/

namespace Sys2Proof.Machine

/-- `byteReady()` (R651): CA1 falls, and SOE passes the pulse on to the CPU's overflow input. -/
def State.byteReady (s : State) : State :=
  let s1 := s.signal .via2 .ca1 .fall
  let s2 := { s1 with rot := { s1.rot with ca1Low := true } }
  if s2.via2.ca2Level then s2.setOverflow else s2

/-- `frame()` (R646). -/
def State.frame (s : State) : State :=
  if s.rot.history == 0x3FF then { s with rot := { s.rot with bitCounter := 0 } }
  else if s.rot.bitCounter + 1 = 8 then
    State.byteReady { s with rot := { s.rot with bitCounter := 0, readLatch := s.rot.history.setWidth 8 } }
  else { s with rot := { s.rot with bitCounter := s.rot.bitCounter + 1 } }

/-- The history with one more bit shifted in (R645, R648). -/
def shiftHistory (h : BitVec 10) (b : Bool) : BitVec 10 := (h <<< 1) ||| BitVec.ofNat 10 (bit b)

/-- The flux-noise draws of R645: whether a noise 1 is made, and one extra cell read and discarded. DESIGN CHOICE, safe
(log 29). -/
def State.fluxNoise (s : State) : Bool × State :=
  if s.params.noiseEnabled && decide (s.rot.zeroRun ≥ 8) && s.rot.history.setWidth 6 == s.params.noisePattern then
    let noise := Config.noiseChance s.draws
    let s1 := s.advanceDraws
    let skip := Config.phaseSkipChance s1.draws
    let s2 := s1.advanceDraws
    (noise, if skip then s2.readNextBit.2 else s2)
  else (false, s)

/-- The engine delivers a 1 in place of the raw 0 (R645). -/
def State.forceOne (s : State) : State :=
  { s with rot := { s.rot with history := s.rot.history ||| 1, zc := 0 } }

/-- `readBit()` (R645). -/
def State.readBit (s : State) : State :=
  let (raw, s1) := s.readNextBit
  let s2 := { s1 with rot := { s1.rot with history := shiftHistory s1.rot.history raw } }
  if raw then State.frame { s2 with rot := { s2.rot with zeroRun := 0, zc := 0 } }
  else
    let (noise, s3) := State.fluxNoise { s2 with rot := { s2.rot with zeroRun := min (s2.rot.zeroRun + 1) 8 } }
    if noise then s3.forceOne.frame
    else if s3.rot.zc + 1 = 4 then s3.forceOne.frame
    else State.frame { s3 with rot := { s3.rot with zc := s3.rot.zc + 1 } }

/-- The byte boundary of the write path (R648): the stale byte first, then VIA2's port A. -/
def State.loadWriteShift (s : State) : State :=
  if s.rot.staleFirst then { s with rot := { s.rot with staleFirst := false } }
  else { s with rot := { s.rot with writeShift := s.via2.pinsA s.rot.readLatch } }

/-- `writeBit()` (R648). -/
def State.writeBit (s : State) : State :=
  let s1 := if s.rot.bitCounter = 0 then s.loadWriteShift else s
  let b := s1.rot.writeShift.msb
  let s2 := State.writeNextBit { s1 with rot := { s1.rot with writeShift := s1.rot.writeShift <<< 1 } } b
  let s3 := { s2 with rot := { s2.rot with
      history := shiftHistory s2.rot.history b
      zeroRun := 0
      zc := 0
      bitCounter := (s2.rot.bitCounter + 1) % 8 } }
  if s3.rot.bitCounter = 0 then s3.byteReady else s3

/-- The engine is told VIA2's read/write mode (R648, R598). -/
def State.setWriting (s : State) (w : Bool) : State :=
  if w && !s.rot.writing then
    { s with rot := { s.rot with writing := true, writeShift := s.rot.readLatch, bitCounter := 0, staleFirst := true } }
  else { s with rot := { s.rot with writing := w } }

/-- The bit cell of the current zone in quarter ticks (R641). -/
def Rotation.cell (r : Rotation) : Nat := 16 - r.zone.toNat

/-- One bit cell passes under the head (R643). -/
def State.passBit (s : State) : State := if s.rot.writing then s.writeBit else s.readBit

/-- `n` bit cells pass. -/
def State.passBits (s : State) : Nat → State
  | 0 => s
  | n + 1 => s.passBit.passBits n

/-- One tick of `advance()` (R643): the CA1 rise of the last tick's byte, then the bit cells that the tick completes. -/
def State.advanceTick (s : State) : State :=
  let s1 := { s with rot := { s.rot with lastTick := s.rot.lastTick + 1 } }
  let s2 :=
    if s1.rot.ca1Low then State.signal { s1 with rot := { s1.rot with ca1Low := false } } .via2 .ca1 .rise else s1
  if s2.rot.motor then
    let acc := s2.rot.acc + 4
    State.passBits { s2 with rot := { s2.rot with acc := acc % s2.rot.cell } } (acc / s2.rot.cell)
  else s2

/-- `n` ticks of `advance()`. -/
def State.advanceTicks (s : State) : Nat → State
  | 0 => s
  | n + 1 => s.advanceTick.advanceTicks n

/-- `advance()` (R643): idempotent when no time has elapsed. -/
def State.advance (s : State) : State := s.advanceTicks (s.tick - s.rot.lastTick)

end Sys2Proof.Machine
end

