-- ==== Sys2Proof/Machine/Via.lean ====
section
/-! DEFINITION. The 6522 VIA: its sixteen registers with every side effect (R531 to R546), the handshakes (R561, R562), the
side effects of each specialization (R591 to R594, R596 to R601), the timers (R570 to R577), `reset` (R585) and
`viaTick` (R586). -/

namespace Sys2Proof.Machine

/-! ### Side effects of the specializations -/

/-- The stepper (R599): one phase up or down moves the head one half-track, within the buffer. -/
def State.stepHead (s : State) (new : BitVec 2) : State :=
  let h := s.mech.halfTrack
  let h' :=
    if new = s.mech.phase + 1 then min (h + 1) (s.params.maxHalftracks - 1)
    else if new = s.mech.phase - 1 then h - 1
    else h
  let s1 := { s with mech := { s.mech with phase := new } }
  if h' = h then s1 else s1.setHalfTrack h'

/-- VIA2's port-B side effect (R597): zone, motor, stepper. -/
def State.diskPortB (s : State) : State :=
  let out := s.via2.outB
  let s1 := { s with rot := { s.rot with zone := out.extractLsb' 5 2, motor := out.getLsbD 2 } }
  s1.stepHead (out.extractLsb' 0 2)

/-- The port-B side effect (R592, R597). -/
def State.portBEffect (s : State) (k : ViaId) : State :=
  match k with
  | .via1 => s.logCall (.updateDrive s.params.driveId s.via1.outB)
  | .via2 => s.diskPortB

/-- The port-A side effect (R591, R596). -/
def State.portAEffect (s : State) (k : ViaId) (handshake : Bool) : State :=
  match k with
  | .via1 => s.logCall (.driveWrite s.via1.outA handshake s.params.driveId)
  | .via2 => s

/-- The control-line side effect of a PCR write (R543, R598). DEDUCED, unsafe (log 16). -/
def State.pcrEffect (s : State) (k : ViaId) : State :=
  match k with
  | .via1 => s
  | .via2 => s.setWriting (!s.via2.cb2Level)

/-! ### Ports and handshakes -/

/-- Clear port A's flags (R532): CA2's stays in the independent modes. -/
def Via.clearPortAFlags (v : Via) : Via :=
  let v1 := v.clearFlag 1
  if v.ca2Mode = 1 || v.ca2Mode = 3 then v1 else v1.clearFlag 0

/-- Clear port B's flags (R531). -/
def Via.clearPortBFlags (v : Via) : Via :=
  let v1 := v.clearFlag 4
  if v.cb2Mode = 1 || v.cb2Mode = 3 then v1 else v1.clearFlag 3

/-- The CA2 handshake (R561); on VIA1 a fall of the flip-flop is the cable's `pulse()` (R593). -/
def State.ca2Handshake (s : State) (k : ViaId) : State :=
  let v := s.via k
  if v.ca2Mode = 4 || v.ca2Mode = 5 then
    let s1 := s.setVia k { v with ca2hs := false, ca2pulse := v.ca2pulse || v.ca2Mode == 5 }
    if v.ca2hs && k == .via1 then s1.logCall .pulse else s1
  else s

/-- The CB2 handshake (R562). -/
def Via.cb2Handshake (v : Via) : Via :=
  if v.cb2Mode = 4 || v.cb2Mode = 5 then { v with cb2hs := false, cb2pulse := v.cb2pulse || v.cb2Mode == 5 } else v

/-- `portARead()` (R556). -/
def State.portARead (s : State) (k : ViaId) (handshake : Bool) : Byte × State :=
  let (b, s1) := s.inA k handshake
  ((s1.via k).pinsA b, s1)

/-- `portBRead()` (R556). -/
def State.portBRead (s : State) (k : ViaId) : Byte × State :=
  let (b, s1) := s.inB k
  ((s1.via k).withPb7 ((s1.via k).pinsB b), s1)

/-- Apply a change to one VIA's own fields. -/
def State.mapVia (s : State) (k : ViaId) (f : Via → Via) : State := s.setVia k (f (s.via k))

/-! ### Registers -/

/-- `read(r)` (R531 to R546). -/
def State.viaRead (s : State) (k : ViaId) (r : BitVec 4) : Byte × State :=
  let v := s.via k
  match r.toNat with
  | 0 =>
    let (b, s1) := s.portBRead k
    (b, (s1.mapVia k Via.clearPortBFlags).checkInterrupts k)
  | 1 =>
    let (b, s1) := s.portARead k true
    (b, ((s1.mapVia k Via.clearPortAFlags).ca2Handshake k).checkInterrupts k)
  | 2 => (v.ddrb, s)
  | 3 => (v.ddra, s)
  | 4 => (lo v.t1c, (s.setVia k (v.clearFlag 6)).checkInterrupts k)
  | 5 => (hi v.t1c, s)
  | 6 => (v.t1ll, s)
  | 7 => (v.t1lh, s)
  | 8 => (lo v.t2c, (s.setVia k (v.clearFlag 5)).checkInterrupts k)
  | 9 => (hi v.t2c, s)
  | 10 => (v.sr, (s.setVia k (v.clearFlag 2)).checkInterrupts k)
  | 11 => (v.acr, s)
  | 12 => (v.pcr, s)
  | 13 => (BitVec.ofNat 8 (128 * bit v.wantsIrq) ||| v.ifr.setWidth 8, s)
  | 14 => (0x80 ||| v.ier.setWidth 8, s)
  | _ => s.portARead k false

/-- The fields of a VIA that a write of register r changes directly, before handshakes and side effects (R531 to R546). That
a PCR write sets a flip-flop even where the mode was selected before is DEDUCED, unsafe (log 17). -/
def Via.written (v : Via) (r : BitVec 4) (b : Byte) : Via :=
  match r.toNat with
  | 0 => Via.cb2Handshake (Via.clearPortBFlags { v with orb := b })
  | 1 => Via.clearPortAFlags { v with ora := b }
  | 2 => { v with ddrb := b }
  | 3 => { v with ddra := b }
  | 4 => { v with t1ll := b }
  | 5 => Via.clearFlag { v with t1lh := b, t1armed := true, pb7 := false, t1load := true } 6
  | 6 => { v with t1ll := b }
  | 7 => Via.clearFlag { v with t1lh := b } 6
  | 8 => { v with t2ll := b }
  | 9 => Via.clearFlag { v with t2lh := b, t2armed := true, t2load := true } 5
  | 10 => Via.clearFlag { v with sr := b } 2
  | 11 => { v with acr := b }
  | 12 =>
    let v1 := { v with pcr := b }
    { v1 with
      ca2hs := v1.ca2hs || v1.ca2Mode == 4 || v1.ca2Mode == 5
      cb2hs := v1.cb2hs || v1.cb2Mode == 4 || v1.cb2Mode == 5 }
  | 13 => { v with ifr := v.ifr &&& ~~~ b.setWidth 7 }
  | 14 => { v with ier := if b.msb then v.ier ||| b.setWidth 7 else v.ier &&& ~~~ b.setWidth 7 }
  | _ => { v with ora := b }

/-- `write(r, b)` (R531 to R546): every write ends with `checkInterrupts`. -/
def State.viaWrite (s : State) (k : ViaId) (r : BitVec 4) (b : Byte) : State :=
  let s1 := s.mapVia k (fun v => v.written r b)
  let s2 :=
    match r.toNat with
    | 0 | 2 => s1.portBEffect k
    | 1 => (s1.ca2Handshake k).portAEffect k true
    | 3 | 15 => s1.portAEffect k false
    | 12 => s1.pcrEffect k
    | _ => s1
  s2.checkInterrupts k

/-! ### Timers -/

/-- Timer A's underflow (R572), `reload` being T1_ONESHOT_RELOAD. -/
def Via.t1Underflow (v : Via) (reload : Bool) : Via :=
  if v.acr.getLsbD 6 then { v.raiseFlag 6 with pb7 := !v.pb7, t1load := true }
  else
    let v1 := if v.t1armed then { v.raiseFlag 6 with pb7 := true, t1armed := false } else v
    if reload then { v1 with t1load := true } else v1

/-- Timer A's step (R571). -/
def Via.timerAStep (v : Via) (reload : Bool) : Via :=
  if v.t1load then { v with t1c := joinBytes v.t1lh v.t1ll, t1load := false }
  else
    let v1 := { v with t1c := v.t1c - 1 }
    if v1.t1c = 0xFFFF then v1.t1Underflow reload else v1

/-- Timer B's step (R574); in pulse-counting mode the counter holds (R575). -/
def Via.timerBStep (v : Via) : Via :=
  if v.t2load then { v with t2c := joinBytes v.t2lh v.t2ll, t2load := false }
  else if v.acr.getLsbD 5 then v
  else
    let v1 := { v with t2c := v.t2c - 1 }
    if v1.t2c = 0xFFFF && v1.t2armed then { v1.raiseFlag 5 with t2armed := false } else v1

/-- The end of a one-tick pulse output (R561, R562, R586). -/
def Via.endPulses (v : Via) : Via :=
  { v with
    ca2hs := v.ca2hs || v.ca2pulse
    ca2pulse := false
    cb2hs := v.cb2hs || v.cb2pulse
    cb2pulse := false }

/-- A VIA's own part of `viaTick()` (R586). -/
def Via.ticked (v : Via) (reload : Bool) : Via := (v.endPulses.timerAStep reload).timerBStep

/-- `viaTick()` (R586). -/
def State.viaTick (s : State) (k : ViaId) : State :=
  (s.mapVia k (fun v => v.ticked s.params.t1OneshotReload)).checkInterrupts k

/-! ### Reset -/

/-- The fields that `reset()` clears (R585); counters, latches, SR and the load flags stay. -/
def Via.resetFields (v : Via) : Via :=
  { v with
    ora := 0, orb := 0, ddra := 0, ddrb := 0, acr := 0, pcr := 0, ifr := 0, ier := 0
    t1armed := false, t2armed := false, pb7 := true, ca2hs := true, cb2hs := true
    ca2pulse := false, cb2pulse := false, latchA := 0, latchB := 0, lastCA2 := none, lastCB2 := none }

/-- The specialization's reset side effect (R594, R601). -/
def State.resetEffect (s : State) (k : ViaId) : State :=
  match k with
  | .via1 => s.portBEffect .via1
  | .via2 =>
    let out := s.via2.outB
    let s1 := { s with
      rot := { s.rot with zone := out.extractLsb' 5 2, motor := out.getLsbD 2 }
      mech := { s.mech with phase := out.extractLsb' 0 2 } }
    s1.setWriting (!s1.via2.cb2Level)

/-- `reset()` (R585). -/
def State.viaReset (s : State) (k : ViaId) : State :=
  ((s.mapVia k Via.resetFields).checkInterrupts k).unlessStopped (fun t => t.resetEffect k)

end Sys2Proof.Machine
end

