-- ==== Sys2Proof/Machine/HostCalls.lean ====
section
/-! DEFINITION. What happens in a tick beside the CPU's micro-op (R95, R586, R625, R650, R672): the host calls due, each at its
place, the end of an insertion's window, VIA1, VIA2 and the rotation engine; and the end of a tick (R474, R475). -/

namespace Sys2Proof.Machine

/-- Insert a disk (R600, R625): the windows start, the disk is not attached before its window ends (log 18). Tracks that do not
fit the buffer (R620) are refused, as `setTrack` refuses one, with no effect (log 19). -/
def State.insertDisk (s : State) (tracks : List Track) (writeProtected : Bool) : State :=
  let disk : Disk := ⟨tracks, 0, false, writeProtected, [], []⟩
  if !tracks.all s.params.trackFits then s.logCall .insertRefused
  else if s.tick < s.mech.detachEnd then
    let stop := s.tick + s.params.attachDetachDelay
    { s with disk := disk, mech := { s.mech with swapEnd := stop, attachAt := some stop } }
  else
    let stop := s.tick + s.params.attachDelay
    { s with disk := disk, mech := { s.mech with attachEnd := stop, attachAt := some stop } }

/-- Eject the disk (R600, R624, R625): its track data stays, unreadable; a pending attachment is given up (log 18). -/
def State.ejectDisk (s : State) : State :=
  { s with
    disk := { s.disk with attached := false }
    mech := { s.mech with detachEnd := s.tick + s.params.detachDelay, attachAt := none } }

/-- `forcedJump(addr)` (R158). -/
def State.forcedJump (s : State) (addr : Word) : State := (s.setPC addr).finish

/-- One host call (R40, R530, R600, R623, R625, R672). The order inside a drive reset is DEDUCED, safe (log 31). -/
def State.apply (s : State) (c : HostCall) : State :=
  match c with
  | .triggerIRQ => s.triggerIRQ
  | .clearIRQ => s.clearIRQ
  | .triggerNMI => s.triggerNMI
  | .clearNMI => s.clearNMI
  | .triggerRST => s.triggerRST
  | .setBusHold level => { s with busHold := level }
  | .forcedJump addr => s.forcedJump addr
  | .setOverflow => s.setOverflow
  | .signal k line e => s.signal k line e
  | .driveReset => (s.triggerRST.viaReset .via1).unlessStopped (fun t => t.viaReset .via2)
  | .insert tracks wp => s.insertDisk tracks wp
  | .eject => s.ejectDisk
  | .setTrack h bytes => s.setTrack h bytes

/-- The order of the five places in a tick. -/
def Moment.rank : Moment → Nat
  | .beforeVia1 => 0
  | .beforeVia2 => 1
  | .beforeRotation => 2
  | .beforeCpu => 3
  | .afterCpu => 4

/-- The last place in a tick at which a call can be applied: disk changes come before the rotation step (R625, R650), a drive
reset before the CPU's micro-op (R672), any other call anywhere. -/
def HostCall.lastMoment (c : HostCall) : Moment :=
  match c with
  | .insert _ _ | .eject => .beforeRotation
  | .driveReset => .beforeCpu
  | .triggerIRQ | .clearIRQ | .triggerNMI | .clearNMI | .triggerRST | .setBusHold _ | .forcedJump _ | .setOverflow
  | .signal _ _ _ | .setTrack _ _ => .afterCpu

/-- A host call whose turn has come at a place of the tick `t`: one of that place or of a place passed over before, unless the
place is behind the last one for such a call. A call listed for a place behind its last one comes at its last one (log 11). -/
def Due.isDue (d : Due) (t : Nat) (m : Moment) : Bool :=
  decide (m.rank ≤ d.call.lastMoment.rank) &&
    (decide (d.at_ < t) ||
      (d.at_ == t && (decide (d.moment.rank ≤ m.rank) || decide (d.call.lastMoment.rank ≤ m.rank))))

/-- Apply host calls in their order; after a fault no further one is taken (R95, R503). -/
def State.applyAll (s : State) : List Due → State
  | [] => s
  | d :: rest => s.unlessStopped (fun t => (t.apply d.call).applyAll rest)

/-- The disk becomes attached at the tick its insertion's window ends (R600, R624). -/
def State.attachDue (s : State) : State :=
  match s.mech.attachAt with
  | some t =>
    if t ≤ s.tick then
      { s with disk := { s.disk with attached := true }, mech := { s.mech with attachAt := none } }
    else s
  | none => s

/-- The host calls of one place in the tick, in the agenda's order (R95): every one whose turn has come, wherever the agenda
lists it (log 11). -/
def State.hostCalls (s : State) (m : Moment) : State :=
  let due := s.agenda.filter (fun d => d.isDue s.tick m)
  let rest := s.agenda.filter (fun d => !d.isDue s.tick m)
  State.applyAll { s with agenda := rest } due

/-- A VIA's step at PHI1 (R586). A bare core has none; after a fault no agent steps (R503). -/
def State.viaStep (s : State) (k : ViaId) : State :=
  match s.params.platform with
  | .core => s
  | .drive => s.unlessStopped (fun t => t.viaTick k)

/-- The rotation engine's step at PHI1 (R586, R650). -/
def State.rotationStep (s : State) : State :=
  match s.params.platform with
  | .core => s
  | .drive => s.unlessStopped State.advance

/-- The events of PHI1 (R586, R650): VIA1, VIA2, the rotation engine, and the host calls before, between and after them. A disk
whose window ends in this tick becomes attached before the rotation step (R600, R624, R625). -/
def State.phi1Events (s : State) : State :=
  let s1 := (s.hostCalls .beforeVia1).attachDue.viaStep .via1
  let s2 := (s1.hostCalls .beforeVia2).attachDue.viaStep .via2
  let s3 := (s2.hostCalls .beforeRotation).attachDue.rotationStep
  s3.hostCalls .beforeCpu

/-- PHI1 of the current tick, if it has not run yet. -/
def State.phi1 (s : State) : State :=
  match s.half with
  | .phi2 => s
  | .phi1 => { s.phi1Events with half := .phi2 }

/-- The end of a tick, the host calls after the CPU's micro-op being done: the latency update, then the next tick's PHI1 is due
(R474, R475). -/
def State.endTick (s : State) (step : Lat → Lat) : State :=
  let s1 := s.updateLatency step
  { s1 with tick := s1.tick + 1, half := .phi1 }

end Sys2Proof.Machine
end

