-- ==== Sys2Proof/Machine/Ops.lean ====
section
/-! DEFINITION. The shared operations of the core: the bus (R13, R80, R530), the V hook (R45), status packing (R37, R38), the
stack (R33), one micro-op of a tick (R81, R150, R153), the interrupt decision (R476, R477), the entry sequences that take an
interrupt (R484 to R486) and the return from one (R354, R487). -/

namespace Sys2Proof.Machine

/-! ### The bus -/

/-- The VIA that answers an address (R530: $1800-$1BFF VIA1, $1C00-$1FFF VIA2); none for plain storage. -/
def State.deviceAt (s : State) (a : Word) : Option ViaId :=
  match s.params.platform with
  | .core => none
  | .drive => if a.toNat / 1024 = 6 then some .via1 else if a.toNat / 1024 = 7 then some .via2 else none

/-- The region holds an address. -/
def Region.holds (r : Region) (a : Nat) : Bool := decide (r.base ≤ a) && decide (a < r.base + r.size)

/-- What the platform's memory map has at an address outside the VIAs' windows (R80): RAM where no region holds it. -/
def State.regionAt (s : State) (a : Word) : RegionKind :=
  match s.params.regions.find? (fun r => r.holds a.toNat) with
  | some r => r.kind
  | none => .ram

/-- Plain storage that can be written. -/
def State.isRam (s : State) (a : Word) : Bool := (s.deviceAt a).isNone && s.regionAt a == .ram

/-- Plain storage: a read answers the stored byte. -/
def State.isStored (s : State) (a : Word) : Bool := (s.deviceAt a).isNone && s.regionAt a != .unmapped

/-- `readMemory(addr)` (R80): a device's register, a stored byte, or a draw of the environment where nothing is mapped. -/
def State.readMemory (s : State) (a : Word) : Byte × State :=
  match s.deviceAt a with
  | some k => s.viaRead k (a.extractLsb' 0 4)
  | none =>
    match s.regionAt a with
    | .unmapped => (Config.environmentByte s.draws, s.advanceDraws)
    | _ => (s.peek a, s)

/-- `writeMemory(addr, v)` (R80): a write to ROM or to nothing leaves everything as it is. -/
def State.writeMemory (s : State) (a : Word) (v : Byte) : State :=
  match s.deviceAt a with
  | some k => s.viaWrite k (a.extractLsb' 0 4) v
  | none =>
    match s.regionAt a with
    | .ram => s.poke a v
    | _ => s

/-- `Read(addr)` (R13): the byte and the state with every side effect of the access (R86). -/
def State.busRead (s : State) (a : Word) : Byte × State :=
  let (v, s1) := s.readMemory a
  (v, s1.logBus (.read a v))

/-- `Write(addr, v)` (R13). -/
def State.busWrite (s : State) (a : Word) (v : Byte) : State := (s.writeMemory a v).logBus (.write a v)

/-! ### Status and stack -/

/-- `onVAccess()` (R45): on the drive it is `rotation.advance()`, which R650 leaves nothing to do (R651). DEDUCED, safe
(log 30). -/
def State.onVAccess (s : State) : State :=
  match s.params.platform with
  | .core => s
  | .drive => s.advance

/-- A read of `P.V` (R45). -/
def State.readV (s : State) : Bool × State := (s.onVAccess.cpu.p.v, s.onVAccess)

/-- The reads of `pack` (R37): V through the hook, and every flag with its `written` bit (R46). -/
def State.packAccess (s : State) : State := s.onVAccess.uses statusSources

/-- A write of `P.V` (R45): the hook runs first. -/
def State.writeV (s : State) (v : Bool) : State := s.onVAccess.setV v

/-- `unpack(v)` (R38). -/
def State.unpack (s : State) (v : Byte) : State :=
  ((((((s.setN (v.getLsbD 7)).writeV (v.getLsbD 6)).setUB (v.getLsbD 5) (v.getLsbD 4)).setD (v.getLsbD 3)).setI
    (v.getLsbD 2)).setZ (v.getLsbD 1)).setC (v.getLsbD 0)

/-- The result and the flags of ADC and SBC (R264, R265): A, C, V through the hook, N, Z. -/
def State.setAlu (s : State) (r : AluResult) : State :=
  ((((s.setA r.value).setC r.c).writeV r.v).setN r.n).setZ r.z

/-- `$0100 | S` (R33). -/
def State.stackAddr (s : State) : Word := 0x0100 ||| zext16 s.cpu.s

/-- `S <- S -8 1` (R33). -/
def State.decS (s : State) : State := s.setS (s.cpu.s - 1)

/-- `S <- S +8 1` (R33). -/
def State.incS (s : State) : State := s.setS (s.cpu.s + 1)

/-- `PC <- PC +16 1` (R34). -/
def State.incPC (s : State) : State := s.setPC (s.cpu.pc + 1)

/-! ### Micro-ops -/

/-- Which byte of the instruction stream a fetch reads. -/
inductive Slot where
  | opcode | first | second
  deriving DecidableEq, Repr

/-- Where the value of a stream fetch comes from: the bus, or the bytes of an instruction that is being executed (log 10). -/
inductive Feed where
  | live
  | given (b0 b1 b2 : Byte)
  deriving DecidableEq, Repr

/-- The value of a stream fetch whose bus access returned `d`. -/
def Feed.pick (f : Feed) (slot : Slot) (d : Byte) : Byte :=
  match f with
  | .live => d
  | .given b0 b1 b2 =>
    match slot with
    | .opcode => b0
    | .first => b1
    | .second => b2

/-- The bytes of an instruction, as a feed. -/
def Feed.ofInstr (i : Instr) : Feed :=
  .given ((encode i).getD 0 0) ((encode i).getD 1 0) ((encode i).getD 2 0)

/-- The work of one tick (R17): a read, a fetch from the instruction stream (a read of PC that increments it), or a write.
A write computes its address and value after `pre`. -/
inductive MicroOp where
  | read (addr : Word) (act : Byte → State → State)
  | fetch (slot : Slot) (act : Byte → State → State)
  | write (pre : State → State) (addr : State → Word) (value : State → Byte) (post : State → State)

/-- Steal-immune: exactly the writes (R153). -/
def MicroOp.stealImmune : MicroOp → Bool
  | .write _ _ _ _ => true
  | _ => false

/-- Keep the operand byte a fetch delivered (log 10). -/
def State.keepOperand (s : State) (slot : Slot) (v : Byte) : State :=
  match slot with
  | .opcode => s
  | .first => { s with sq := { s.sq with op1 := v } }
  | .second => { s with sq := { s.sq with op2 := v } }

/-- Execute a micro-op: exactly one bus access (R81). A write that uses an unwritten register is not completed (R46), and after
an access at which a VIA's clear of the IRQ line faults the micro-op does nothing more (R503). -/
def MicroOp.perform (u : MicroOp) (f : Feed) (s : State) : State :=
  match u with
  | .read addr act =>
    let (d, s1) := s.busRead addr
    s1.unlessStopped (act d)
  | .fetch slot act =>
    let (d, s1) := s.busRead s.cpu.pc
    let v := f.pick slot d
    s1.unlessStopped (fun t => act v (t.incPC.keepOperand slot v))
  | .write pre addr value post =>
    (pre s).unlessStopped (fun t => (t.busWrite (addr t) (value t)).unlessStopped post)

/-- A micro-op that reads, discards the byte and goes on. -/
def MicroOp.discard (addr : Word) (act : State → State) : MicroOp := .read addr (fun _ s => act s)

/-- A push: write at `$0100 | S`, then decrement S (R33). -/
def MicroOp.push (pre : State → State) (value : State → Byte) (post : State → State) : MicroOp :=
  .write pre State.stackAddr value (fun s => post s.decS)

/-! ### The interrupt decision -/

/-- Ipoll (R476): the I of before CLI, SEI or PLP at the terminal that ends it, with I_FLAG_DELAY. -/
def State.polledI (s : State) : Bool := if s.params.iFlagDelay && s.sq.ichg then s.sq.iprev else s.cpu.p.i

/-- The I that `polledI` reads has been written, or UNINIT_AS_DRAW holds (R46, R476): P.I, or the P.I that was copied into IPREV.
DEDUCED, safe (log 37). -/
def State.mayPoll (s : State) : Bool :=
  s.params.uninitAsDraw || (if s.params.iFlagDelay && s.sq.ichg then s.sq.iprevKnown else s.cpu.written.i)

/-- The decision reads an unwritten I: "subject to the unwritten-register fault of 10_state.md rule R46 only when `irqCount > 0`"
(R476), and only when it comes to the IRQ's turn (R477). -/
def State.pollFaults (s : State) : Bool :=
  !(s.irq.rstPending && s.irq.rstLat == .two) && !(s.irq.nmiPending && s.irq.nmiLat == .two) && s.irqLine && !s.mayPoll

/-- `irqEligible` (R476). -/
def State.irqEligible (s : State) : Bool := s.irqLine && !s.polledI && s.irq.irqLat == .two

/-- The decision at a terminal micro-op (R477): RST over NMI over IRQ; none means fetch. -/
def State.decision (s : State) : Option Entry :=
  if s.irq.rstPending && s.irq.rstLat == .two then some .rst
  else if s.irq.nmiPending && s.irq.nmiLat == .two then some .nmi
  else if s.irqEligible then some .irq
  else none

/-- What a decision for an entry consumes and chooses (R477). -/
def State.accept (s : State) (k : Entry) : State :=
  match k with
  | .rst => { s with irq := { s.irq with rstPending := false } }
  | .nmi => { s with irq := { s.irq with nmiPending := false }, sq := { s.sq with vec := 0xFFFA } }
  | .irq => { s with sq := { s.sq with vec := 0xFFFE } }

/-- What every terminal micro-op clears (R152: ICHG and SHSTALL; R476: IPREV too), and where the sequence goes on. -/
def State.startSequence (s : State) (seq : Seq) : State :=
  { s with sq := { s.sq with seq := seq, cyc := 2, ichg := false, iprev := false, iprevKnown := false, shstall := false } }

/-- The terminal micro-op that fetches an opcode (R152). -/
def terminalFetch : MicroOp :=
  .fetch .opcode (fun v s => State.startSequence { s with sq := { s.sq with ir := v } } .op)

/-- The terminal micro-op that starts an entry sequence (R152): the byte at PC is read and discarded. An entry that is not
a BRK pushes b = 0 (R484), whatever an abandoned BRK left in BRKB (log 13). -/
def terminalEntry (k : Entry) (s : State) : MicroOp :=
  .discard s.cpu.pc (fun t => State.startSequence { t with sq := { t.sq with brkb := false } } (.entry k))

/-! ### Taking an interrupt, and returning from one -/

/-- Vector selection at c4 (R485): an NMI recognised by now takes over an IRQ or BRK sequence. -/
def State.selectVector (s : State) : State :=
  if s.params.vectorHijack && s.irq.nmiPending && s.irq.nmiLat == .two then
    { s with irq := { s.irq with nmiPending := false }, sq := { s.sq with vec := 0xFFFA } }
  else s

/-- The last two cycles of every entry: the vector is read, I is set, PC is loaded (R484, R486). -/
def vectorCycle (vec : Word) (c : Nat) : MicroOp :=
  if c = 6 then .read vec (fun d s => ((s.setDATA d).setI true).nextCycle)
  else .read (vec + 1) (fun d s =>
    State.finish { s.setPC (joinBytes d s.sq.data) with sq := { s.sq with brkb := false } })

/-- Cycles c3 to c7 of an IRQ, NMI or BRK sequence (R484): PCH, PCL and the status are pushed, and the vector is taken.
`hijackable` is false for an NMI sequence, which keeps its vector (R485). -/
def takeInterrupt (hijackable : Bool) (s : State) (c : Nat) : MicroOp :=
  match c with
  | 3 => .push id (fun t => hi t.cpu.pc) State.nextCycle
  | 4 => .push id (fun t => lo t.cpu.pc) (fun t => (if hijackable then t.selectVector else t).nextCycle)
  | 5 => .push State.packAccess (fun t => packFlags t.cpu.p t.sq.brkb) State.nextCycle
  | c => vectorCycle s.sq.vec c

/-- Cycles c3 to c7 of the RST sequence (R486): the stack cycles are reads. -/
def takeReset (s : State) (c : Nat) : MicroOp :=
  match c with
  | 3 | 4 | 5 => .discard s.stackAddr (fun t => t.decS.nextCycle)
  | c => vectorCycle 0xFFFC c

/-- Cycle c of an entry sequence (R484, R486). -/
def entryCycle (k : Entry) (s : State) (c : Nat) : MicroOp :=
  match c with
  | 2 => .discard s.cpu.pc State.nextCycle
  | c =>
    match k with
    | .rst => takeReset s c
    | .nmi => takeInterrupt false s c
    | .irq => takeInterrupt true s c

/-- Cycle c of RTI (R354): the status, then PC, are pulled; PC is not incremented. -/
def returnFromInterrupt (s : State) (c : Nat) : MicroOp :=
  match c with
  | 2 => .discard s.cpu.pc State.nextCycle
  | 3 => .discard s.stackAddr (fun t => t.incS.nextCycle)
  | 4 => .read s.stackAddr (fun d t => (t.unpack d).incS.nextCycle)
  | 5 => .read s.stackAddr (fun d t => (t.setLo d).incS.nextCycle)
  | _ => .read s.stackAddr (fun d t => (t.setPC (joinBytes d t.sq.lo)).finish)

end Sys2Proof.Machine
end

