-- ==== Sys2Proof/Machine/Operands.lean ====
section
/-! DEFINITION. Every operand form: the effective-address formulas (R88, R89, R113) and the address cycles of each mode
(R160 to R178). -/

namespace Sys2Proof.Machine

/-! ### Formulas -/

/-- A zero-page address plus an index, wrapping in page 0 (R88, R113). -/
def zpIndexed (z idx : Byte) : Word := zext16 (z + idx)

/-- An indexed 16-bit address, wrapping at 65536 (R89, R113). -/
def indexed (base : Word) (idx : Byte) : Word := base + zext16 idx

/-- The index addition carries into the high byte (R113, R170). -/
def crosses (base : Word) (idx : Byte) : Bool := decide ((lo base).toNat + idx.toNat ≥ 256)

/-- The indexed address before its high byte is fixed (R170). -/
def unfixed (base : Word) (idx : Byte) : Word := joinBytes (hi base) (lo base + idx)

/-- The 16-bit pointer held at a zero-page location and the next, wrapping in page 0 (R88, R113). -/
def State.zpPointer (s : State) (z : Byte) : Word := joinBytes (s.peek (zext16 (z + 1))) (s.peek (zext16 z))

/-- The index register of a mode: Y for zp,Y, abs,Y and (zp),Y, else X (R31, R32). -/
def State.index (s : State) (m : Mode) : Byte :=
  match m with
  | .zpy | .aby | .izy => s.cpu.y
  | _ => s.cpu.x

/-- The index register that the address cycles of a mode read (R46). -/
def indexSources (m : Mode) : List Source :=
  match m with
  | .zpx | .abx | .izx => [.x]
  | .zpy | .aby | .izy => [.y]
  | _ => []

/-- The effective address of a mode (R113) for operand bytes b1 and b2, from the registers and the zero page as they are. -/
def State.effectiveAddress (s : State) (m : Mode) (b1 b2 : Byte) : Word :=
  match m with
  | .zp => zext16 b1
  | .zpx | .zpy => zpIndexed b1 (s.index m)
  | .abs => joinBytes b2 b1
  | .abx | .aby => indexed (joinBytes b2 b1) (s.index m)
  | .izx => s.zpPointer (b1 + s.cpu.x)
  | .izy => indexed (s.zpPointer b1) s.cpu.y
  | _ => s.cpu.pc

/-! ### Address cycles -/

/-- Latch an indexed address with its unfixed high byte, the carry and the base's high byte (R170, R176). -/
def State.latchIndexed (s : State) (base : Word) (idx : Byte) : State :=
  { s with sq := { s.sq with bah := hi base, cross := crosses base idx, ea := unfixed base idx } }

/-- Fix the high byte of EA if the index carried (R170, R171). -/
def State.fixEA (s : State) : State := if s.sq.cross then s.setEA (s.sq.ea + 256) else s

/-- The cycle at which a mode's operand is first accessed (R160 to R178); `always` for the classes that always spend the
fix-up cycle of an indexed mode (write, RMW). -/
def accessCycle (m : Mode) (always : Bool) : Nat :=
  match m with
  | .zp => 3
  | .zpx | .zpy | .abs => 4
  | .abx | .aby => if always then 5 else 4
  | .izx => 6
  | .izy => if always then 6 else 5
  | _ => 2

/-- The modes whose index can cross a page (R113). -/
def canCross : Mode → Bool
  | .abx | .aby | .izy => true
  | _ => false

/-- Cycle c of a mode before its operand is accessed (R160 to R178). -/
def addressCycle (m : Mode) (s : State) (c : Nat) : MicroOp :=
  match m, c with
  | .zp, _ => .fetch .first (fun v t => (t.setEA (zext16 v)).nextCycle)
  | .zpx, 2 | .zpy, 2 | .izx, 2 | .izy, 2 => .fetch .first (fun v t => (t.setPTR v).nextCycle)
  | .zpx, _ | .zpy, _ =>
    .discard (zext16 s.sq.ptr) (fun t => t.using (indexSources m) fun t =>
      (t.setEA (zpIndexed t.sq.ptr (t.index m))).nextCycle)
  | .abs, 2 | .abx, 2 | .aby, 2 => .fetch .first (fun v t => (t.setLo v).nextCycle)
  | .abs, _ => .fetch .second (fun v t => (t.setEA (joinBytes v t.sq.lo)).nextCycle)
  | .abx, 3 | .aby, 3 =>
    .fetch .second (fun v t => t.using (indexSources m) fun t =>
      (t.latchIndexed (joinBytes v t.sq.lo) (t.index m)).nextCycle)
  | .izx, 3 =>
    .discard (zext16 s.sq.ptr) (fun t => t.using (indexSources .izx) fun t => (t.setPTR (t.sq.ptr + t.cpu.x)).nextCycle)
  | .izx, 4 => .read (zext16 s.sq.ptr) (fun d t => (t.setLo d).nextCycle)
  | .izx, _ => .read (zext16 (s.sq.ptr + 1)) (fun d t => (t.setEA (joinBytes d t.sq.lo)).nextCycle)
  | .izy, 3 => .read (zext16 s.sq.ptr) (fun d t => (t.setLo d).nextCycle)
  | .izy, 4 =>
    .read (zext16 (s.sq.ptr + 1)) (fun d t => t.using (indexSources .izy) fun t =>
      (t.latchIndexed (joinBytes d t.sq.lo) t.cpu.y).nextCycle)
  | _, _ => .discard s.sq.ea (fun t => t.fixEA.nextCycle)

end Sys2Proof.Machine
end

