-- ==== Sys2Proof/Machine/Sequencer.lean ====
section
/-! DEFINITION. The sequences (R159 to R178, R340, R349 to R354, R380 to R383, R431, R440, R484, R486) as micro-ops of a cycle
number, and the engine that runs them tick by tick (R150, R151, R153, R155). -/

namespace Sys2Proof.Machine

/-- The sequence of an instruction or an entry. The operation of an instruction is an argument of its sequence:
`rd` (a read class instruction), `value` (what a write class instruction stores, from the registers `uses`), `f` (a
read-modify-write). -/
inductive Sequence where
  | implied (op : State → State)
  | read (m : Mode) (rd : Byte → State → State)
  | write (m : Mode) (uses : List Source) (value : State → Byte)
  | rmw (m : Mode) (f : Byte → State → Byte × State)
  | sh (m : Mode) (prep : State → State) (src : State → Byte)
  | branch (cond : State → Bool × State)
  | push (pre : State → State) (value : State → Byte)
  | pull (act : Byte → State → State)
  | jmpAbs
  | jmpInd
  | jsr
  | brk
  | rts
  | rti
  | jam
  | entry (k : Entry)

/-! ### The sequences, cycle by cycle -/

/-- Read class (R160, R161, R164, R167, R170, R173, R176): the operation happens in the tick of the last read (R156). -/
def readCycle (m : Mode) (rd : Byte → State → State) (s : State) (c : Nat) : MicroOp :=
  match m with
  | .imm => .fetch .first (fun v t => (rd v (t.setDATA v)).finish)
  | m =>
    if c < accessCycle m false then addressCycle m s c
    else if canCross m && s.sq.cross && c == accessCycle m false then
      .read s.sq.ea (fun d t => ((t.setDATA d).fixEA).nextCycle)
    else .read s.sq.ea (fun d t => (rd d (t.setDATA d)).finish)

/-- Write class (R162, R165, R168, R171, R174, R177): the value is computed in the tick of the write (R156). -/
def writeCycle (m : Mode) (uses : List Source) (value : State → Byte) (s : State) (c : Nat) : MicroOp :=
  if c < accessCycle m true then addressCycle m s c
  else .write (fun t => t.uses uses) (fun t => t.sq.ea) value State.finish

/-- Read-modify-write class (R163, R166, R169, R172, R175, R178): read, dummy write of the unmodified value together with the
operation (R156), write of the new value. -/
def rmwCycle (m : Mode) (f : Byte → State → Byte × State) (s : State) (c : Nat) : MicroOp :=
  if c < accessCycle m true then addressCycle m s c
  else if c = accessCycle m true then .read s.sq.ea (fun d t => (t.setDATA d).nextCycle)
  else if c = accessCycle m true + 1 then
    .write id (fun t => t.sq.ea) (fun t => t.sq.data)
      (fun t => State.nextCycle ((f t.sq.data t).2.setDATA (f t.sq.data t).1))
  else .write id (fun t => t.sq.ea) (fun t => t.sq.data) State.finish

/-- The byte that SHA, SHS, SHX and SHY store (R431, R434). -/
def shValue (src : State → Byte) (s : State) : Byte :=
  if s.params.shRdyQuirk && s.sq.shstall then src s else src s &&& (s.sq.bah + 1)

/-- The address that SHA, SHS, SHX and SHY store to (R431). -/
def shAddr (src : State → Byte) (s : State) : Word :=
  if s.sq.cross then joinBytes (shValue src s) (lo s.sq.ea) else s.sq.ea

/-- SHA, SHS, SHX, SHY: the write sequence with the final cycle of R431. -/
def shCycle (m : Mode) (prep : State → State) (src : State → Byte) (s : State) (c : Nat) : MicroOp :=
  if c < accessCycle m true then addressCycle m s c
  else .write prep (shAddr src) (shValue src) State.finish

/-- The branch sequence (R340). -/
def branchCycle (cond : State → Bool × State) (s : State) (c : Nat) : MicroOp :=
  match c with
  | 2 => .fetch .first (fun v t =>
      let t1 := { t with sq := { t.sq with off := v } }
      if (cond t1).1 then (cond t1).2.nextCycle else (cond t1).2.finish)
  | 3 => .discard s.cpu.pc (fun t =>
      let target := t.cpu.pc + sext16 t.sq.off
      let cross := hi target != hi t.cpu.pc
      let t1 := ({ t with sq := { t.sq with ea := target, cross := cross } }).setPC (joinBytes (hi t.cpu.pc) (lo target))
      if cross then t1.nextCycle else t1.finish)
  | _ => .discard s.cpu.pc (fun t => (t.setPC t.sq.ea).finish)

/-- PHA and PHP (R380, R381). -/
def pushCycle (pre : State → State) (value : State → Byte) (s : State) (c : Nat) : MicroOp :=
  match c with
  | 2 => .discard s.cpu.pc State.nextCycle
  | _ => .push pre value State.finish

/-- PLA and PLP (R382, R383). -/
def pullCycle (act : Byte → State → State) (s : State) (c : Nat) : MicroOp :=
  match c with
  | 2 => .discard s.cpu.pc State.nextCycle
  | 3 => .discard s.stackAddr (fun t => t.incS.nextCycle)
  | _ => .read s.stackAddr (fun d t => (act d t).finish)

/-- JMP absolute (R349). -/
def jmpAbsCycle (_s : State) (c : Nat) : MicroOp :=
  match c with
  | 2 => .fetch .first (fun v t => (t.setLo v).nextCycle)
  | _ => .fetch .second (fun v t => (t.setPC (joinBytes v t.sq.lo)).finish)

/-- The second byte of a pointer, read from the same page as the first (R350). -/
def samePageNext (w : Word) : Word := joinBytes (hi w) (lo w + 1)

/-- JMP (indirect) (R350). -/
def jmpIndCycle (s : State) (c : Nat) : MicroOp :=
  match c with
  | 2 => .fetch .first (fun v t => (t.setLo v).nextCycle)
  | 3 => .fetch .second (fun v t => (t.setEA (joinBytes v t.sq.lo)).nextCycle)
  | 4 => .read s.sq.ea (fun d t => (t.setDATA d).nextCycle)
  | _ => .read (samePageNext s.sq.ea) (fun d t => (t.setPC (joinBytes d t.sq.data)).finish)

/-- JSR (R351): the high byte of the target is fetched after the pushes. -/
def jsrCycle (s : State) (c : Nat) : MicroOp :=
  match c with
  | 2 => .fetch .first (fun v t => (t.setLo v).nextCycle)
  | 3 => .discard s.stackAddr State.nextCycle
  | 4 => .push id (fun t => hi t.cpu.pc) State.nextCycle
  | 5 => .push id (fun t => lo t.cpu.pc) State.nextCycle
  | _ => .fetch .second (fun v t => (t.setPC (joinBytes v t.sq.lo)).finish)

/-- BRK (R352): the padding byte is skipped, then the tail of the IRQ entry runs with b = 1 (R484). VEC is set here, before
the selection of R485 can replace it (log 14). -/
def brkCycle (s : State) (c : Nat) : MicroOp :=
  match c with
  | 2 => .discard s.cpu.pc (fun t =>
      State.nextCycle { t.incPC with sq := { t.sq with brkb := true, vec := 0xFFFE } })
  | c => takeInterrupt true s c

/-- RTS (R353). -/
def rtsCycle (s : State) (c : Nat) : MicroOp :=
  match c with
  | 2 => .discard s.cpu.pc State.nextCycle
  | 3 => .discard s.stackAddr (fun t => t.incS.nextCycle)
  | 4 => .read s.stackAddr (fun d t => (t.setLo d).incS.nextCycle)
  | 5 => .read s.stackAddr (fun d t => (t.setPC (joinBytes d t.sq.lo)).nextCycle)
  | _ => .discard s.cpu.pc (fun t => t.incPC.finish)

/-- The micro-op that a sequence names at cycle `s.sq.cyc` (R151). -/
def Sequence.micro (q : Sequence) (s : State) : MicroOp :=
  match q with
  | .implied op => .discard s.cpu.pc (fun t => (op t).finish)
  | .read m rd => readCycle m rd s s.sq.cyc
  | .write m uses value => writeCycle m uses value s s.sq.cyc
  | .rmw m f => rmwCycle m f s s.sq.cyc
  | .sh m prep src => shCycle m prep src s s.sq.cyc
  | .branch cond => branchCycle cond s s.sq.cyc
  | .push pre value => pushCycle pre value s s.sq.cyc
  | .pull act => pullCycle act s s.sq.cyc
  | .jmpAbs => jmpAbsCycle s s.sq.cyc
  | .jmpInd => jmpIndCycle s s.sq.cyc
  | .jsr => jsrCycle s s.sq.cyc
  | .brk => brkCycle s s.sq.cyc
  | .rts => rtsCycle s s.sq.cyc
  | .rti => returnFromInterrupt s s.sq.cyc
  | .jam => .discard s.cpu.pc (fun t => (t.setPC (t.cpu.pc - 1)).finish)
  | .entry k => entryCycle k s s.sq.cyc

/-! ### The engine -/

/-- A micro-op stalls under bus hold unless it is steal-immune (R153). -/
def State.stalls (s : State) (u : MicroOp) : Bool := s.busHold && !u.stealImmune

/-- What a stall leaves behind (R434): SHSTALL, when SH_RDY_QUIRK holds and the dummy read of an SH instruction stalls.
DEDUCED, unsafe (log 15). -/
def Sequence.markStall (q : Sequence) (s : State) : State :=
  match q with
  | .sh m _ _ =>
    if s.params.shRdyQuirk && s.sq.cyc + 1 == accessCycle m true then { s with sq := { s.sq with shstall := true } } else s
  | _ => s

/-- PHI2 of a tick that executes a micro-op, the host calls after it, and the end of the tick (R95, R150, R474). -/
def State.executeTick (s : State) (feed : Feed) (u : MicroOp) : State :=
  ((u.perform feed s).hostCalls .afterCpu).endTick Lat.executed

/-- PHI2 of a tick in which the CPU stalls, the host calls after it, and the end of the tick (R95, R153, R475). -/
def State.stallTick (s : State) : State := (s.hostCalls .afterCpu).endTick Lat.stalled

/-- The machine has left the sequence it was running: a fault, or the sequence's end, or a forced jump (R151, R158, R503). -/
def State.settled (s : State) : Bool := s.stopped.isSome || s.sq.seq == .boundary

/-- One tick of a sequence, both halves (R150): the state after it, and whether the run of ticks goes on. A forced jump or a
fault at PHI1 leaves PHI2 to the next step. -/
def Sequence.tick (q : Sequence) (feed : Feed) (s : State) : State × Bool :=
  let s1 := s.phi1
  if s1.settled then (s1, false)
  else if s1.stalls (q.micro s1) then ((q.markStall s1).stallTick, false)
  else
    let s2 := s1.executeTick feed (q.micro s1)
    (s2, !s2.settled)

/-- Ticks of a sequence up to its end, a stall, a forced jump or a fault; `n` bounds their number (no sequence has more than
seven cycles after its first, R690). -/
def runSeq (feed : Feed) (q : Sequence) : Nat → State → State
  | 0, s => s
  | n + 1, s => if (q.tick feed s).2 then runSeq feed q n (q.tick feed s).1 else (q.tick feed s).1

/-- The outcome that a state stands for: a fault stops the machine (R503). -/
def State.outcome (s : State) : Host.Outcome State Fault Refusal :=
  match s.stopped with
  | some f => .fault f
  | none => .next s

/-- Execute an instruction: PHI1 of the tick of its terminal fetch, the fetch, and the rest of its sequence (R151, R155). Under
bus hold the fetch stalls and the step is that stalled tick (R153). -/
def runInstr (i : Instr) (q : Sequence) (s : State) : Host.Outcome State Fault Refusal :=
  let s1 := s.clearLogs.phi1
  if s1.stopped.isSome then s1.outcome
  else if s1.stalls terminalFetch then s1.stallTick.outcome
  else (runSeq (Feed.ofInstr i) q 7 (s1.executeTick (Feed.ofInstr i) terminalFetch)).outcome

end Sys2Proof.Machine
end

