-- ==== Sys2Proof/Machine/Alu.lean ====
section
/-! DEFINITION. Arithmetic, logic, compares and the bit test (R264 to R273). -/

namespace Sys2Proof.Machine

/-- ADC (R264). -/
def readAdc (v : Byte) (s : State) : State :=
  s.using [.a, .c, .d] fun s => s.setAlu (adcBy s.cpu.p.d s.cpu.a v s.cpu.p.c)

/-- SBC (R265). -/
def readSbc (v : Byte) (s : State) : State :=
  s.using [.a, .c, .d] fun s => s.setAlu (sbcBy s.cpu.p.d s.cpu.a v s.cpu.p.c)

/-- AND (R266). -/
def readAnd (v : Byte) (s : State) : State :=
  s.using [.a] fun s => (s.setA (s.cpu.a &&& v)).setNZ (s.cpu.a &&& v)

/-- ORA (R267). -/
def readOra (v : Byte) (s : State) : State :=
  s.using [.a] fun s => (s.setA (s.cpu.a ||| v)).setNZ (s.cpu.a ||| v)

/-- EOR (R268). -/
def readEor (v : Byte) (s : State) : State :=
  s.using [.a] fun s => (s.setA (s.cpu.a ^^^ v)).setNZ (s.cpu.a ^^^ v)

/-- CMP (R270). -/
def readCmp (v : Byte) (s : State) : State :=
  s.using [.a] fun s => s.compare s.cpu.a v

/-- CPX (R271). -/
def readCpx (v : Byte) (s : State) : State :=
  s.using [.x] fun s => s.compare s.cpu.x v

/-- CPY (R272). -/
def readCpy (v : Byte) (s : State) : State :=
  s.using [.y] fun s => s.compare s.cpu.y v

/-- BIT (R273): N and V come from memory. -/
def readBit (v : Byte) (s : State) : State :=
  s.using [.a] fun s => ((s.setN (v.getLsbD 7)).writeV (v.getLsbD 6)).setZ ((s.cpu.a &&& v) == 0)

/-- $01 ORA (z,X) (R267, R173). -/
def execOraIndX (z : Byte) (s : State) : Host.Outcome State Fault Refusal :=
  runInstr (.oraIndX z) (.read .izx readOra) s

/-- $05 ORA z (R267, R161). -/
def execOraZp (z : Byte) (s : State) : Host.Outcome State Fault Refusal := runInstr (.oraZp z) (.read .zp readOra) s

/-- $09 ORA #v (R267, R160). -/
def execOraImm (v : Byte) (s : State) : Host.Outcome State Fault Refusal := runInstr (.oraImm v) (.read .imm readOra) s

/-- $0D ORA w (R267, R167). -/
def execOraAbs (w : Word) (s : State) : Host.Outcome State Fault Refusal := runInstr (.oraAbs w) (.read .abs readOra) s

/-- $11 ORA (z),Y (R267, R176). -/
def execOraIndY (z : Byte) (s : State) : Host.Outcome State Fault Refusal :=
  runInstr (.oraIndY z) (.read .izy readOra) s

/-- $15 ORA z,X (R267, R164). -/
def execOraZpX (z : Byte) (s : State) : Host.Outcome State Fault Refusal := runInstr (.oraZpX z) (.read .zpx readOra) s

/-- $19 ORA w,Y (R267, R170). -/
def execOraAbsY (w : Word) (s : State) : Host.Outcome State Fault Refusal :=
  runInstr (.oraAbsY w) (.read .aby readOra) s

/-- $1D ORA w,X (R267, R170). -/
def execOraAbsX (w : Word) (s : State) : Host.Outcome State Fault Refusal :=
  runInstr (.oraAbsX w) (.read .abx readOra) s

/-- $21 AND (z,X) (R266, R173). -/
def execAndIndX (z : Byte) (s : State) : Host.Outcome State Fault Refusal :=
  runInstr (.andIndX z) (.read .izx readAnd) s

/-- $25 AND z (R266, R161). -/
def execAndZp (z : Byte) (s : State) : Host.Outcome State Fault Refusal := runInstr (.andZp z) (.read .zp readAnd) s

/-- $29 AND #v (R266, R160). -/
def execAndImm (v : Byte) (s : State) : Host.Outcome State Fault Refusal := runInstr (.andImm v) (.read .imm readAnd) s

/-- $2D AND w (R266, R167). -/
def execAndAbs (w : Word) (s : State) : Host.Outcome State Fault Refusal := runInstr (.andAbs w) (.read .abs readAnd) s

/-- $31 AND (z),Y (R266, R176). -/
def execAndIndY (z : Byte) (s : State) : Host.Outcome State Fault Refusal :=
  runInstr (.andIndY z) (.read .izy readAnd) s

/-- $35 AND z,X (R266, R164). -/
def execAndZpX (z : Byte) (s : State) : Host.Outcome State Fault Refusal := runInstr (.andZpX z) (.read .zpx readAnd) s

/-- $39 AND w,Y (R266, R170). -/
def execAndAbsY (w : Word) (s : State) : Host.Outcome State Fault Refusal :=
  runInstr (.andAbsY w) (.read .aby readAnd) s

/-- $3D AND w,X (R266, R170). -/
def execAndAbsX (w : Word) (s : State) : Host.Outcome State Fault Refusal :=
  runInstr (.andAbsX w) (.read .abx readAnd) s

/-- $24 BIT z (R273, R161). -/
def execBitZp (z : Byte) (s : State) : Host.Outcome State Fault Refusal := runInstr (.bitZp z) (.read .zp readBit) s

/-- $2C BIT w (R273, R167). -/
def execBitAbs (w : Word) (s : State) : Host.Outcome State Fault Refusal := runInstr (.bitAbs w) (.read .abs readBit) s

/-- $41 EOR (z,X) (R268, R173). -/
def execEorIndX (z : Byte) (s : State) : Host.Outcome State Fault Refusal :=
  runInstr (.eorIndX z) (.read .izx readEor) s

/-- $45 EOR z (R268, R161). -/
def execEorZp (z : Byte) (s : State) : Host.Outcome State Fault Refusal := runInstr (.eorZp z) (.read .zp readEor) s

/-- $49 EOR #v (R268, R160). -/
def execEorImm (v : Byte) (s : State) : Host.Outcome State Fault Refusal := runInstr (.eorImm v) (.read .imm readEor) s

/-- $4D EOR w (R268, R167). -/
def execEorAbs (w : Word) (s : State) : Host.Outcome State Fault Refusal := runInstr (.eorAbs w) (.read .abs readEor) s

/-- $51 EOR (z),Y (R268, R176). -/
def execEorIndY (z : Byte) (s : State) : Host.Outcome State Fault Refusal :=
  runInstr (.eorIndY z) (.read .izy readEor) s

/-- $55 EOR z,X (R268, R164). -/
def execEorZpX (z : Byte) (s : State) : Host.Outcome State Fault Refusal := runInstr (.eorZpX z) (.read .zpx readEor) s

/-- $59 EOR w,Y (R268, R170). -/
def execEorAbsY (w : Word) (s : State) : Host.Outcome State Fault Refusal :=
  runInstr (.eorAbsY w) (.read .aby readEor) s

/-- $5D EOR w,X (R268, R170). -/
def execEorAbsX (w : Word) (s : State) : Host.Outcome State Fault Refusal :=
  runInstr (.eorAbsX w) (.read .abx readEor) s

/-- $61 ADC (z,X) (R264, R173). -/
def execAdcIndX (z : Byte) (s : State) : Host.Outcome State Fault Refusal :=
  runInstr (.adcIndX z) (.read .izx readAdc) s

/-- $65 ADC z (R264, R161). -/
def execAdcZp (z : Byte) (s : State) : Host.Outcome State Fault Refusal := runInstr (.adcZp z) (.read .zp readAdc) s

/-- $69 ADC #v (R264, R160). -/
def execAdcImm (v : Byte) (s : State) : Host.Outcome State Fault Refusal := runInstr (.adcImm v) (.read .imm readAdc) s

/-- $6D ADC w (R264, R167). -/
def execAdcAbs (w : Word) (s : State) : Host.Outcome State Fault Refusal := runInstr (.adcAbs w) (.read .abs readAdc) s

/-- $71 ADC (z),Y (R264, R176). -/
def execAdcIndY (z : Byte) (s : State) : Host.Outcome State Fault Refusal :=
  runInstr (.adcIndY z) (.read .izy readAdc) s

/-- $75 ADC z,X (R264, R164). -/
def execAdcZpX (z : Byte) (s : State) : Host.Outcome State Fault Refusal := runInstr (.adcZpX z) (.read .zpx readAdc) s

/-- $79 ADC w,Y (R264, R170). -/
def execAdcAbsY (w : Word) (s : State) : Host.Outcome State Fault Refusal :=
  runInstr (.adcAbsY w) (.read .aby readAdc) s

/-- $7D ADC w,X (R264, R170). -/
def execAdcAbsX (w : Word) (s : State) : Host.Outcome State Fault Refusal :=
  runInstr (.adcAbsX w) (.read .abx readAdc) s

/-- $C0 CPY #v (R272, R160). -/
def execCpyImm (v : Byte) (s : State) : Host.Outcome State Fault Refusal := runInstr (.cpyImm v) (.read .imm readCpy) s

/-- $C4 CPY z (R272, R161). -/
def execCpyZp (z : Byte) (s : State) : Host.Outcome State Fault Refusal := runInstr (.cpyZp z) (.read .zp readCpy) s

/-- $CC CPY w (R272, R167). -/
def execCpyAbs (w : Word) (s : State) : Host.Outcome State Fault Refusal := runInstr (.cpyAbs w) (.read .abs readCpy) s

/-- $C1 CMP (z,X) (R270, R173). -/
def execCmpIndX (z : Byte) (s : State) : Host.Outcome State Fault Refusal :=
  runInstr (.cmpIndX z) (.read .izx readCmp) s

/-- $C5 CMP z (R270, R161). -/
def execCmpZp (z : Byte) (s : State) : Host.Outcome State Fault Refusal := runInstr (.cmpZp z) (.read .zp readCmp) s

/-- $C9 CMP #v (R270, R160). -/
def execCmpImm (v : Byte) (s : State) : Host.Outcome State Fault Refusal := runInstr (.cmpImm v) (.read .imm readCmp) s

/-- $CD CMP w (R270, R167). -/
def execCmpAbs (w : Word) (s : State) : Host.Outcome State Fault Refusal := runInstr (.cmpAbs w) (.read .abs readCmp) s

/-- $D1 CMP (z),Y (R270, R176). -/
def execCmpIndY (z : Byte) (s : State) : Host.Outcome State Fault Refusal :=
  runInstr (.cmpIndY z) (.read .izy readCmp) s

/-- $D5 CMP z,X (R270, R164). -/
def execCmpZpX (z : Byte) (s : State) : Host.Outcome State Fault Refusal := runInstr (.cmpZpX z) (.read .zpx readCmp) s

/-- $D9 CMP w,Y (R270, R170). -/
def execCmpAbsY (w : Word) (s : State) : Host.Outcome State Fault Refusal :=
  runInstr (.cmpAbsY w) (.read .aby readCmp) s

/-- $DD CMP w,X (R270, R170). -/
def execCmpAbsX (w : Word) (s : State) : Host.Outcome State Fault Refusal :=
  runInstr (.cmpAbsX w) (.read .abx readCmp) s

/-- $E0 CPX #v (R271, R160). -/
def execCpxImm (v : Byte) (s : State) : Host.Outcome State Fault Refusal := runInstr (.cpxImm v) (.read .imm readCpx) s

/-- $E4 CPX z (R271, R161). -/
def execCpxZp (z : Byte) (s : State) : Host.Outcome State Fault Refusal := runInstr (.cpxZp z) (.read .zp readCpx) s

/-- $EC CPX w (R271, R167). -/
def execCpxAbs (w : Word) (s : State) : Host.Outcome State Fault Refusal := runInstr (.cpxAbs w) (.read .abs readCpx) s

/-- $E1 SBC (z,X) (R265, R173). -/
def execSbcIndX (z : Byte) (s : State) : Host.Outcome State Fault Refusal :=
  runInstr (.sbcIndX z) (.read .izx readSbc) s

/-- $E5 SBC z (R265, R161). -/
def execSbcZp (z : Byte) (s : State) : Host.Outcome State Fault Refusal := runInstr (.sbcZp z) (.read .zp readSbc) s

/-- $E9 SBC #v (R265, R160). -/
def execSbcImm (v : Byte) (s : State) : Host.Outcome State Fault Refusal := runInstr (.sbcImm v) (.read .imm readSbc) s

/-- $ED SBC w (R265, R167). -/
def execSbcAbs (w : Word) (s : State) : Host.Outcome State Fault Refusal := runInstr (.sbcAbs w) (.read .abs readSbc) s

/-- $F1 SBC (z),Y (R265, R176). -/
def execSbcIndY (z : Byte) (s : State) : Host.Outcome State Fault Refusal :=
  runInstr (.sbcIndY z) (.read .izy readSbc) s

/-- $F5 SBC z,X (R265, R164). -/
def execSbcZpX (z : Byte) (s : State) : Host.Outcome State Fault Refusal := runInstr (.sbcZpX z) (.read .zpx readSbc) s

/-- $F9 SBC w,Y (R265, R170). -/
def execSbcAbsY (w : Word) (s : State) : Host.Outcome State Fault Refusal :=
  runInstr (.sbcAbsY w) (.read .aby readSbc) s

/-- $FD SBC w,X (R265, R170). -/
def execSbcAbsX (w : Word) (s : State) : Host.Outcome State Fault Refusal :=
  runInstr (.sbcAbsX w) (.read .abx readSbc) s

end Sys2Proof.Machine
end

