-- ==== Sys2Proof/Machine/Control.lean ====
section
/-! DEFINITION. Branches, jumps, subroutines, BRK and the returns (R341 to R354). -/

namespace Sys2Proof.Machine

/-- BPL (R341). -/
def condBpl (s : State) : Bool × State := (!s.cpu.p.n, s.uses [.n])

/-- BMI (R342). -/
def condBmi (s : State) : Bool × State := (s.cpu.p.n, s.uses [.n])

/-- BVC (R343): V is read through the hook. -/
def condBvc (s : State) : Bool × State := (!s.readV.1, s.readV.2.uses [.v])

/-- BVS (R344): V is read through the hook. -/
def condBvs (s : State) : Bool × State := (s.readV.1, s.readV.2.uses [.v])

/-- BCC (R345). -/
def condBcc (s : State) : Bool × State := (!s.cpu.p.c, s.uses [.c])

/-- BCS (R346). -/
def condBcs (s : State) : Bool × State := (s.cpu.p.c, s.uses [.c])

/-- BNE (R347). -/
def condBne (s : State) : Bool × State := (!s.cpu.p.z, s.uses [.z])

/-- BEQ (R348). -/
def condBeq (s : State) : Bool × State := (s.cpu.p.z, s.uses [.z])

/-- $00 BRK (R352). -/
def execBrk (s : State) : Host.Outcome State Fault Refusal := runInstr .brk .brk s

/-- $10 BPL off (R341, R340). -/
def execBpl (off : Byte) (s : State) : Host.Outcome State Fault Refusal := runInstr (.bpl off) (.branch condBpl) s

/-- $20 JSR w (R351). -/
def execJsr (w : Word) (s : State) : Host.Outcome State Fault Refusal := runInstr (.jsr w) .jsr s

/-- $30 BMI off (R342, R340). -/
def execBmi (off : Byte) (s : State) : Host.Outcome State Fault Refusal := runInstr (.bmi off) (.branch condBmi) s

/-- $40 RTI (R354). -/
def execRti (s : State) : Host.Outcome State Fault Refusal := runInstr .rti .rti s

/-- $4C JMP w (R349). -/
def execJmpAbs (w : Word) (s : State) : Host.Outcome State Fault Refusal := runInstr (.jmpAbs w) .jmpAbs s

/-- $6C JMP (w) (R350). -/
def execJmpInd (w : Word) (s : State) : Host.Outcome State Fault Refusal := runInstr (.jmpInd w) .jmpInd s

/-- $50 BVC off (R343, R340). -/
def execBvc (off : Byte) (s : State) : Host.Outcome State Fault Refusal := runInstr (.bvc off) (.branch condBvc) s

/-- $60 RTS (R353). -/
def execRts (s : State) : Host.Outcome State Fault Refusal := runInstr .rts .rts s

/-- $70 BVS off (R344, R340). -/
def execBvs (off : Byte) (s : State) : Host.Outcome State Fault Refusal := runInstr (.bvs off) (.branch condBvs) s

/-- $90 BCC off (R345, R340). -/
def execBcc (off : Byte) (s : State) : Host.Outcome State Fault Refusal := runInstr (.bcc off) (.branch condBcc) s

/-- $B0 BCS off (R346, R340). -/
def execBcs (off : Byte) (s : State) : Host.Outcome State Fault Refusal := runInstr (.bcs off) (.branch condBcs) s

/-- $D0 BNE off (R347, R340). -/
def execBne (off : Byte) (s : State) : Host.Outcome State Fault Refusal := runInstr (.bne off) (.branch condBne) s

/-- $F0 BEQ off (R348, R340). -/
def execBeq (off : Byte) (s : State) : Host.Outcome State Fault Refusal := runInstr (.beq off) (.branch condBeq) s

end Sys2Proof.Machine
end

