-- ==== Sys2Proof/Machine/LoadStore.lean ====
section
/-! DEFINITION. Loads, stores and transfers (R221 to R232). -/

namespace Sys2Proof.Machine

/-- LDA (R221). -/
def readLda (v : Byte) (s : State) : State := (s.setA v).setNZ v

/-- LDX (R222). -/
def readLdx (v : Byte) (s : State) : State := (s.setX v).setNZ v

/-- LDY (R223). -/
def readLdy (v : Byte) (s : State) : State := (s.setY v).setNZ v

/-- STA (R224). -/
def valueSta (s : State) : Byte := s.cpu.a

/-- STX (R225). -/
def valueStx (s : State) : Byte := s.cpu.x

/-- STY (R226). -/
def valueSty (s : State) : Byte := s.cpu.y

/-- TAX (R227). -/
def opTax (s : State) : State := s.using [.a] fun s => (s.setX s.cpu.a).setNZ s.cpu.a

/-- TAY (R228). -/
def opTay (s : State) : State := s.using [.a] fun s => (s.setY s.cpu.a).setNZ s.cpu.a

/-- TXA (R229). -/
def opTxa (s : State) : State := s.using [.x] fun s => (s.setA s.cpu.x).setNZ s.cpu.x

/-- TYA (R230). -/
def opTya (s : State) : State := s.using [.y] fun s => (s.setA s.cpu.y).setNZ s.cpu.y

/-- TSX (R231). -/
def opTsx (s : State) : State := (s.setX s.cpu.s).setNZ s.cpu.s

/-- TXS (R232): no flag. -/
def opTxs (s : State) : State := s.using [.x] fun s => s.setS s.cpu.x

/-- $81 STA (z,X) (R224, R174). -/
def execStaIndX (z : Byte) (s : State) : Host.Outcome State Fault Refusal :=
  runInstr (.staIndX z) (.write .izx [.a] valueSta) s

/-- $85 STA z (R224, R162). -/
def execStaZp (z : Byte) (s : State) : Host.Outcome State Fault Refusal := runInstr (.staZp z) (.write .zp [.a] valueSta) s

/-- $8D STA w (R224, R168). -/
def execStaAbs (w : Word) (s : State) : Host.Outcome State Fault Refusal :=
  runInstr (.staAbs w) (.write .abs [.a] valueSta) s

/-- $91 STA (z),Y (R224, R177). -/
def execStaIndY (z : Byte) (s : State) : Host.Outcome State Fault Refusal :=
  runInstr (.staIndY z) (.write .izy [.a] valueSta) s

/-- $95 STA z,X (R224, R165). -/
def execStaZpX (z : Byte) (s : State) : Host.Outcome State Fault Refusal :=
  runInstr (.staZpX z) (.write .zpx [.a] valueSta) s

/-- $99 STA w,Y (R224, R171). -/
def execStaAbsY (w : Word) (s : State) : Host.Outcome State Fault Refusal :=
  runInstr (.staAbsY w) (.write .aby [.a] valueSta) s

/-- $9D STA w,X (R224, R171). -/
def execStaAbsX (w : Word) (s : State) : Host.Outcome State Fault Refusal :=
  runInstr (.staAbsX w) (.write .abx [.a] valueSta) s

/-- $84 STY z (R226, R162). -/
def execStyZp (z : Byte) (s : State) : Host.Outcome State Fault Refusal := runInstr (.styZp z) (.write .zp [.y] valueSty) s

/-- $8C STY w (R226, R168). -/
def execStyAbs (w : Word) (s : State) : Host.Outcome State Fault Refusal :=
  runInstr (.styAbs w) (.write .abs [.y] valueSty) s

/-- $94 STY z,X (R226, R165). -/
def execStyZpX (z : Byte) (s : State) : Host.Outcome State Fault Refusal :=
  runInstr (.styZpX z) (.write .zpx [.y] valueSty) s

/-- $86 STX z (R225, R162). -/
def execStxZp (z : Byte) (s : State) : Host.Outcome State Fault Refusal := runInstr (.stxZp z) (.write .zp [.x] valueStx) s

/-- $8E STX w (R225, R168). -/
def execStxAbs (w : Word) (s : State) : Host.Outcome State Fault Refusal :=
  runInstr (.stxAbs w) (.write .abs [.x] valueStx) s

/-- $96 STX z,Y (R225, R165). -/
def execStxZpY (z : Byte) (s : State) : Host.Outcome State Fault Refusal :=
  runInstr (.stxZpY z) (.write .zpy [.x] valueStx) s

/-- $8A TXA (R229, R159). -/
def execTxa (s : State) : Host.Outcome State Fault Refusal := runInstr .txa (.implied opTxa) s

/-- $98 TYA (R230, R159). -/
def execTya (s : State) : Host.Outcome State Fault Refusal := runInstr .tya (.implied opTya) s

/-- $9A TXS (R232, R159). -/
def execTxs (s : State) : Host.Outcome State Fault Refusal := runInstr .txs (.implied opTxs) s

/-- $A0 LDY #v (R223, R160). -/
def execLdyImm (v : Byte) (s : State) : Host.Outcome State Fault Refusal := runInstr (.ldyImm v) (.read .imm readLdy) s

/-- $A4 LDY z (R223, R161). -/
def execLdyZp (z : Byte) (s : State) : Host.Outcome State Fault Refusal := runInstr (.ldyZp z) (.read .zp readLdy) s

/-- $AC LDY w (R223, R167). -/
def execLdyAbs (w : Word) (s : State) : Host.Outcome State Fault Refusal := runInstr (.ldyAbs w) (.read .abs readLdy) s

/-- $B4 LDY z,X (R223, R164). -/
def execLdyZpX (z : Byte) (s : State) : Host.Outcome State Fault Refusal := runInstr (.ldyZpX z) (.read .zpx readLdy) s

/-- $BC LDY w,X (R223, R170). -/
def execLdyAbsX (w : Word) (s : State) : Host.Outcome State Fault Refusal :=
  runInstr (.ldyAbsX w) (.read .abx readLdy) s

/-- $A1 LDA (z,X) (R221, R173). -/
def execLdaIndX (z : Byte) (s : State) : Host.Outcome State Fault Refusal :=
  runInstr (.ldaIndX z) (.read .izx readLda) s

/-- $A5 LDA z (R221, R161). -/
def execLdaZp (z : Byte) (s : State) : Host.Outcome State Fault Refusal := runInstr (.ldaZp z) (.read .zp readLda) s

/-- $A9 LDA #v (R221, R160). -/
def execLdaImm (v : Byte) (s : State) : Host.Outcome State Fault Refusal := runInstr (.ldaImm v) (.read .imm readLda) s

/-- $AD LDA w (R221, R167). -/
def execLdaAbs (w : Word) (s : State) : Host.Outcome State Fault Refusal := runInstr (.ldaAbs w) (.read .abs readLda) s

/-- $B1 LDA (z),Y (R221, R176). -/
def execLdaIndY (z : Byte) (s : State) : Host.Outcome State Fault Refusal :=
  runInstr (.ldaIndY z) (.read .izy readLda) s

/-- $B5 LDA z,X (R221, R164). -/
def execLdaZpX (z : Byte) (s : State) : Host.Outcome State Fault Refusal := runInstr (.ldaZpX z) (.read .zpx readLda) s

/-- $B9 LDA w,Y (R221, R170). -/
def execLdaAbsY (w : Word) (s : State) : Host.Outcome State Fault Refusal :=
  runInstr (.ldaAbsY w) (.read .aby readLda) s

/-- $BD LDA w,X (R221, R170). -/
def execLdaAbsX (w : Word) (s : State) : Host.Outcome State Fault Refusal :=
  runInstr (.ldaAbsX w) (.read .abx readLda) s

/-- $A2 LDX #v (R222, R160). -/
def execLdxImm (v : Byte) (s : State) : Host.Outcome State Fault Refusal := runInstr (.ldxImm v) (.read .imm readLdx) s

/-- $A6 LDX z (R222, R161). -/
def execLdxZp (z : Byte) (s : State) : Host.Outcome State Fault Refusal := runInstr (.ldxZp z) (.read .zp readLdx) s

/-- $AE LDX w (R222, R167). -/
def execLdxAbs (w : Word) (s : State) : Host.Outcome State Fault Refusal := runInstr (.ldxAbs w) (.read .abs readLdx) s

/-- $B6 LDX z,Y (R222, R164). -/
def execLdxZpY (z : Byte) (s : State) : Host.Outcome State Fault Refusal := runInstr (.ldxZpY z) (.read .zpy readLdx) s

/-- $BE LDX w,Y (R222, R170). -/
def execLdxAbsY (w : Word) (s : State) : Host.Outcome State Fault Refusal :=
  runInstr (.ldxAbsY w) (.read .aby readLdx) s

/-- $A8 TAY (R228, R159). -/
def execTay (s : State) : Host.Outcome State Fault Refusal := runInstr .tay (.implied opTay) s

/-- $AA TAX (R227, R159). -/
def execTax (s : State) : Host.Outcome State Fault Refusal := runInstr .tax (.implied opTax) s

/-- $BA TSX (R231, R159). -/
def execTsx (s : State) : Host.Outcome State Fault Refusal := runInstr .tsx (.implied opTsx) s

end Sys2Proof.Machine
end

