-- ==== Sys2Proof/Machine/Shift.lean ====
section
/-! DEFINITION. Shifts, rotates, increments and decrements (R301 to R310). -/

namespace Sys2Proof.Machine

/-- What every shift and rotate does with its carry and its result (R300). -/
def shiftWith (r : Byte × Bool) (s : State) : Byte × State := (r.1, (s.setC r.2).setNZ r.1)

/-- A rotate reads its carry in (R46). -/
def rotateWith (r : Byte × Bool) (s : State) : Byte × State := (r.1, s.using [.c] fun s => (shiftWith r s).2)

/-- ASL on memory (R301). -/
def modifyAsl (v : Byte) (s : State) : Byte × State := shiftWith (aslByte v) s

/-- LSR on memory (R302). -/
def modifyLsr (v : Byte) (s : State) : Byte × State := shiftWith (lsrByte v) s

/-- ROL on memory (R303): the carry in is the C before the instruction. -/
def modifyRol (v : Byte) (s : State) : Byte × State := rotateWith (rolByte v s.cpu.p.c) s

/-- ROR on memory (R304). -/
def modifyRor (v : Byte) (s : State) : Byte × State := rotateWith (rorByte v s.cpu.p.c) s

/-- The accumulator form of a shift or rotate. -/
def onAccumulator (f : Byte → State → Byte × State) (s : State) : State :=
  s.using [.a] fun s => (f s.cpu.a s).2.setA (f s.cpu.a s).1

/-- ASL A (R301). -/
def accumulatorAsl (s : State) : State := onAccumulator modifyAsl s

/-- LSR A (R302). -/
def accumulatorLsr (s : State) : State := onAccumulator modifyLsr s

/-- ROL A (R303). -/
def accumulatorRol (s : State) : State := onAccumulator modifyRol s

/-- ROR A (R304). -/
def accumulatorRor (s : State) : State := onAccumulator modifyRor s

/-- INC (R305). -/
def modifyInc (v : Byte) (s : State) : Byte × State := (v + 1, s.setNZ (v + 1))

/-- DEC (R306). -/
def modifyDec (v : Byte) (s : State) : Byte × State := (v - 1, s.setNZ (v - 1))

/-- INX (R307). -/
def opInx (s : State) : State := s.using [.x] fun s => (s.setX (s.cpu.x + 1)).setNZ (s.cpu.x + 1)

/-- INY (R308). -/
def opIny (s : State) : State := s.using [.y] fun s => (s.setY (s.cpu.y + 1)).setNZ (s.cpu.y + 1)

/-- DEX (R309). -/
def opDex (s : State) : State := s.using [.x] fun s => (s.setX (s.cpu.x - 1)).setNZ (s.cpu.x - 1)

/-- DEY (R310). -/
def opDey (s : State) : State := s.using [.y] fun s => (s.setY (s.cpu.y - 1)).setNZ (s.cpu.y - 1)

/-- $06 ASL z (R301, R163). -/
def execAslZp (z : Byte) (s : State) : Host.Outcome State Fault Refusal := runInstr (.aslZp z) (.rmw .zp modifyAsl) s

/-- $0A ASL A (R301, R159). -/
def execAslA (s : State) : Host.Outcome State Fault Refusal := runInstr .aslA (.implied accumulatorAsl) s

/-- $0E ASL w (R301, R169). -/
def execAslAbs (w : Word) (s : State) : Host.Outcome State Fault Refusal := runInstr (.aslAbs w) (.rmw .abs modifyAsl) s

/-- $16 ASL z,X (R301, R166). -/
def execAslZpX (z : Byte) (s : State) : Host.Outcome State Fault Refusal := runInstr (.aslZpX z) (.rmw .zpx modifyAsl) s

/-- $1E ASL w,X (R301, R172). -/
def execAslAbsX (w : Word) (s : State) : Host.Outcome State Fault Refusal :=
  runInstr (.aslAbsX w) (.rmw .abx modifyAsl) s

/-- $26 ROL z (R303, R163). -/
def execRolZp (z : Byte) (s : State) : Host.Outcome State Fault Refusal := runInstr (.rolZp z) (.rmw .zp modifyRol) s

/-- $2A ROL A (R303, R159). -/
def execRolA (s : State) : Host.Outcome State Fault Refusal := runInstr .rolA (.implied accumulatorRol) s

/-- $2E ROL w (R303, R169). -/
def execRolAbs (w : Word) (s : State) : Host.Outcome State Fault Refusal := runInstr (.rolAbs w) (.rmw .abs modifyRol) s

/-- $36 ROL z,X (R303, R166). -/
def execRolZpX (z : Byte) (s : State) : Host.Outcome State Fault Refusal := runInstr (.rolZpX z) (.rmw .zpx modifyRol) s

/-- $3E ROL w,X (R303, R172). -/
def execRolAbsX (w : Word) (s : State) : Host.Outcome State Fault Refusal :=
  runInstr (.rolAbsX w) (.rmw .abx modifyRol) s

/-- $46 LSR z (R302, R163). -/
def execLsrZp (z : Byte) (s : State) : Host.Outcome State Fault Refusal := runInstr (.lsrZp z) (.rmw .zp modifyLsr) s

/-- $4A LSR A (R302, R159). -/
def execLsrA (s : State) : Host.Outcome State Fault Refusal := runInstr .lsrA (.implied accumulatorLsr) s

/-- $4E LSR w (R302, R169). -/
def execLsrAbs (w : Word) (s : State) : Host.Outcome State Fault Refusal := runInstr (.lsrAbs w) (.rmw .abs modifyLsr) s

/-- $56 LSR z,X (R302, R166). -/
def execLsrZpX (z : Byte) (s : State) : Host.Outcome State Fault Refusal := runInstr (.lsrZpX z) (.rmw .zpx modifyLsr) s

/-- $5E LSR w,X (R302, R172). -/
def execLsrAbsX (w : Word) (s : State) : Host.Outcome State Fault Refusal :=
  runInstr (.lsrAbsX w) (.rmw .abx modifyLsr) s

/-- $66 ROR z (R304, R163). -/
def execRorZp (z : Byte) (s : State) : Host.Outcome State Fault Refusal := runInstr (.rorZp z) (.rmw .zp modifyRor) s

/-- $6A ROR A (R304, R159). -/
def execRorA (s : State) : Host.Outcome State Fault Refusal := runInstr .rorA (.implied accumulatorRor) s

/-- $6E ROR w (R304, R169). -/
def execRorAbs (w : Word) (s : State) : Host.Outcome State Fault Refusal := runInstr (.rorAbs w) (.rmw .abs modifyRor) s

/-- $76 ROR z,X (R304, R166). -/
def execRorZpX (z : Byte) (s : State) : Host.Outcome State Fault Refusal := runInstr (.rorZpX z) (.rmw .zpx modifyRor) s

/-- $7E ROR w,X (R304, R172). -/
def execRorAbsX (w : Word) (s : State) : Host.Outcome State Fault Refusal :=
  runInstr (.rorAbsX w) (.rmw .abx modifyRor) s

/-- $88 DEY (R310, R159). -/
def execDey (s : State) : Host.Outcome State Fault Refusal := runInstr .dey (.implied opDey) s

/-- $C6 DEC z (R306, R163). -/
def execDecZp (z : Byte) (s : State) : Host.Outcome State Fault Refusal := runInstr (.decZp z) (.rmw .zp modifyDec) s

/-- $CE DEC w (R306, R169). -/
def execDecAbs (w : Word) (s : State) : Host.Outcome State Fault Refusal := runInstr (.decAbs w) (.rmw .abs modifyDec) s

/-- $D6 DEC z,X (R306, R166). -/
def execDecZpX (z : Byte) (s : State) : Host.Outcome State Fault Refusal := runInstr (.decZpX z) (.rmw .zpx modifyDec) s

/-- $DE DEC w,X (R306, R172). -/
def execDecAbsX (w : Word) (s : State) : Host.Outcome State Fault Refusal :=
  runInstr (.decAbsX w) (.rmw .abx modifyDec) s

/-- $C8 INY (R308, R159). -/
def execIny (s : State) : Host.Outcome State Fault Refusal := runInstr .iny (.implied opIny) s

/-- $CA DEX (R309, R159). -/
def execDex (s : State) : Host.Outcome State Fault Refusal := runInstr .dex (.implied opDex) s

/-- $E6 INC z (R305, R163). -/
def execIncZp (z : Byte) (s : State) : Host.Outcome State Fault Refusal := runInstr (.incZp z) (.rmw .zp modifyInc) s

/-- $EE INC w (R305, R169). -/
def execIncAbs (w : Word) (s : State) : Host.Outcome State Fault Refusal := runInstr (.incAbs w) (.rmw .abs modifyInc) s

/-- $F6 INC z,X (R305, R166). -/
def execIncZpX (z : Byte) (s : State) : Host.Outcome State Fault Refusal := runInstr (.incZpX z) (.rmw .zpx modifyInc) s

/-- $FE INC w,X (R305, R172). -/
def execIncAbsX (w : Word) (s : State) : Host.Outcome State Fault Refusal :=
  runInstr (.incAbsX w) (.rmw .abx modifyInc) s

/-- $E8 INX (R307, R159). -/
def execInx (s : State) : Host.Outcome State Fault Refusal := runInstr .inx (.implied opInx) s

end Sys2Proof.Machine
end

