-- ==== Sys2Proof/Machine/Stack.lean ====
section
/-! DEFINITION. Pushes and pulls, flag instructions and the official NOP (R380 to R391). -/

namespace Sys2Proof.Machine

/-- PHA (R380). -/
def valuePha (s : State) : Byte := s.cpu.a

/-- PHP (R381): the pushed status has bits 5 and 4 set. -/
def valuePhp (s : State) : Byte := packFlags s.cpu.p true

/-- PHA reads A (R46, R380). -/
def preparePha (s : State) : State := s.uses [.a]

/-- PLA (R382). -/
def pullPla (v : Byte) (s : State) : State := (s.setA v).setNZ v

/-- `IPREV <- P.I; ICHG <- 1`, then the change of I (R383, R386, R387). An unwritten I is copied as one, with its `written` bit;
the decision that reads it can fault, the copy does not (R476). DEDUCED, safe (log 37). -/
def changingI (s : State) (change : State → State) : State :=
  change { s with sq := { s.sq with iprev := s.cpu.p.i, iprevKnown := s.cpu.written.i, ichg := true } }

/-- PLP (R383). -/
def pullPlp (v : Byte) (s : State) : State := changingI s (fun s => s.unpack v)

/-- CLC (R384). -/
def opClc (s : State) : State := s.setC false

/-- SEC (R385). -/
def opSec (s : State) : State := s.setC true

/-- CLI (R386). -/
def opCli (s : State) : State := changingI s (fun s => s.setI false)

/-- SEI (R387). -/
def opSei (s : State) : State := changingI s (fun s => s.setI true)

/-- CLD (R388). -/
def opCld (s : State) : State := s.setD false

/-- SED (R389). -/
def opSed (s : State) : State := s.setD true

/-- CLV (R390): the hook runs before the write. -/
def opClv (s : State) : State := s.writeV false

/-- NOP (R391), and the implied form of the unofficial NOPs (R436): nothing beyond the dummy read. -/
def opNop (s : State) : State := s

/-- $EA NOP (R391, R159). -/
def execNop (s : State) : Host.Outcome State Fault Refusal := runInstr .nop (.implied opNop) s

/-- $08 PHP (R381). -/
def execPhp (s : State) : Host.Outcome State Fault Refusal := runInstr .php (.push State.packAccess valuePhp) s

/-- $18 CLC (R384, R159). -/
def execClc (s : State) : Host.Outcome State Fault Refusal := runInstr .clc (.implied opClc) s

/-- $28 PLP (R383). -/
def execPlp (s : State) : Host.Outcome State Fault Refusal := runInstr .plp (.pull pullPlp) s

/-- $38 SEC (R385, R159). -/
def execSec (s : State) : Host.Outcome State Fault Refusal := runInstr .sec (.implied opSec) s

/-- $48 PHA (R380). -/
def execPha (s : State) : Host.Outcome State Fault Refusal := runInstr .pha (.push preparePha valuePha) s

/-- $58 CLI (R386, R159). -/
def execCli (s : State) : Host.Outcome State Fault Refusal := runInstr .cli (.implied opCli) s

/-- $68 PLA (R382). -/
def execPla (s : State) : Host.Outcome State Fault Refusal := runInstr .pla (.pull pullPla) s

/-- $78 SEI (R387, R159). -/
def execSei (s : State) : Host.Outcome State Fault Refusal := runInstr .sei (.implied opSei) s

/-- $B8 CLV (R390, R159). -/
def execClv (s : State) : Host.Outcome State Fault Refusal := runInstr .clv (.implied opClv) s

/-- $D8 CLD (R388, R159). -/
def execCld (s : State) : Host.Outcome State Fault Refusal := runInstr .cld (.implied opCld) s

/-- $F8 SED (R389, R159). -/
def execSed (s : State) : Host.Outcome State Fault Refusal := runInstr .sed (.implied opSed) s

end Sys2Proof.Machine
end

