-- ==== Sys2Proof/Machine/Unofficial.lean ====
section
/-! DEFINITION. The unofficial opcodes (R411 to R440): combined operations, the SH stores, NOPs, USBC and JAM. -/

namespace Sys2Proof.Machine

/-- SLO (R411). -/
def modifySlo (v : Byte) (s : State) : Byte × State :=
  let r := aslByte v
  (r.1, readOra r.1 (s.setC r.2))

/-- RLA (R412). -/
def modifyRla (v : Byte) (s : State) : Byte × State :=
  let r := rolByte v s.cpu.p.c
  (r.1, s.using [.c] fun s => readAnd r.1 (s.setC r.2))

/-- SRE (R413). -/
def modifySre (v : Byte) (s : State) : Byte × State :=
  let r := lsrByte v
  (r.1, readEor r.1 (s.setC r.2))

/-- RRA (R414): the add uses the carry of the rotate. -/
def modifyRra (v : Byte) (s : State) : Byte × State :=
  let r := rorByte v s.cpu.p.c
  (r.1, s.using [.c] fun s => readAdc r.1 (s.setC r.2))

/-- DCP (R415). -/
def modifyDcp (v : Byte) (s : State) : Byte × State := (v - 1, readCmp (v - 1) s)

/-- ISB (R416). -/
def modifyIsb (v : Byte) (s : State) : Byte × State := (v + 1, readSbc (v + 1) s)

/-- SAX (R417). -/
def valueSax (s : State) : Byte := s.cpu.a &&& s.cpu.x

/-- LAX (R418). -/
def readLax (v : Byte) (s : State) : State := ((s.setA v).setX v).setNZ v

/-- LAS (R419). -/
def readLas (v : Byte) (s : State) : State :=
  let t := v &&& s.cpu.s
  (((s.setA t).setX t).setS t).setNZ t

/-- ANC (R420): C copies bit 7 of the result. -/
def readAnc (v : Byte) (s : State) : State :=
  s.using [.a] fun s => (readAnd v s).setC (s.cpu.a &&& v).msb

/-- ALR (R421). -/
def readAlr (v : Byte) (s : State) : State :=
  let r := lsrByte (s.cpu.a &&& v)
  s.using [.a] fun s => ((s.setA r.1).setC r.2).setNZ r.1

/-- ARR (R422). -/
def readArr (v : Byte) (s : State) : State :=
  s.using [.a, .c, .d] fun s => s.setAlu (arrResult s.cpu.a v s.cpu.p.c s.cpu.p.d)

/-- SBX (R423): no borrow in, no decimal mode. -/
def readSbx (v : Byte) (s : State) : State :=
  let t := s.cpu.a &&& s.cpu.x
  s.using [.a, .x] fun s => (s.compare t v).setX (t - v)

/-- LXA (R424, R430). -/
def readLxa (v : Byte) (s : State) : State :=
  let t := (s.cpu.a ||| s.params.magic) &&& v
  s.using [.a] fun s => ((s.setA t).setX t).setNZ t

/-- ANE (R425, R430). -/
def readAne (v : Byte) (s : State) : State :=
  let t := (s.cpu.a ||| s.params.magic) &&& s.cpu.x &&& v
  s.using [.a, .x] fun s => (s.setA t).setNZ t

/-- SHA reads A and X (R46, R426). -/
def prepareSha (s : State) : State := s.uses [.a, .x]

/-- SHX reads X (R46, R428). -/
def prepareShx (s : State) : State := s.uses [.x]

/-- SHY reads Y (R46, R429). -/
def prepareShy (s : State) : State := s.uses [.y]

/-- SHA (R426): src = A AND X. -/
def sourceSha (s : State) : Byte := s.cpu.a &&& s.cpu.x

/-- SHS (R427): first S <- A AND X. -/
def prepareShs (s : State) : State := s.using [.a, .x] fun s => s.setS (s.cpu.a &&& s.cpu.x)

/-- SHS (R427): src = S. -/
def sourceShs (s : State) : Byte := s.cpu.s

/-- SHX (R428): src = X. -/
def sourceShx (s : State) : Byte := s.cpu.x

/-- SHY (R429): src = Y. -/
def sourceShy (s : State) : Byte := s.cpu.y

/-- The unofficial NOPs with an operand (R436): `rd(v)` does nothing. -/
def readNop (_v : Byte) (s : State) : State := s

/-- USBC (R437): SBC immediate. -/
def readUsbc (v : Byte) (s : State) : State := readSbc v s

/-- $02 JAM (R440). -/
def execJam02 (s : State) : Host.Outcome State Fault Refusal := runInstr .jam02 .jam s

/-- $12 JAM (R440). -/
def execJam12 (s : State) : Host.Outcome State Fault Refusal := runInstr .jam12 .jam s

/-- $22 JAM (R440). -/
def execJam22 (s : State) : Host.Outcome State Fault Refusal := runInstr .jam22 .jam s

/-- $32 JAM (R440). -/
def execJam32 (s : State) : Host.Outcome State Fault Refusal := runInstr .jam32 .jam s

/-- $42 JAM (R440). -/
def execJam42 (s : State) : Host.Outcome State Fault Refusal := runInstr .jam42 .jam s

/-- $52 JAM (R440). -/
def execJam52 (s : State) : Host.Outcome State Fault Refusal := runInstr .jam52 .jam s

/-- $62 JAM (R440). -/
def execJam62 (s : State) : Host.Outcome State Fault Refusal := runInstr .jam62 .jam s

/-- $72 JAM (R440). -/
def execJam72 (s : State) : Host.Outcome State Fault Refusal := runInstr .jam72 .jam s

/-- $92 JAM (R440). -/
def execJam92 (s : State) : Host.Outcome State Fault Refusal := runInstr .jam92 .jam s

/-- $B2 JAM (R440). -/
def execJamB2 (s : State) : Host.Outcome State Fault Refusal := runInstr .jamB2 .jam s

/-- $D2 JAM (R440). -/
def execJamD2 (s : State) : Host.Outcome State Fault Refusal := runInstr .jamD2 .jam s

/-- $F2 JAM (R440). -/
def execJamF2 (s : State) : Host.Outcome State Fault Refusal := runInstr .jamF2 .jam s

/-- $03 SLO (z,X) (R411, R175). -/
def execSloIndX (z : Byte) (s : State) : Host.Outcome State Fault Refusal :=
  runInstr (.sloIndX z) (.rmw .izx modifySlo) s

/-- $07 SLO z (R411, R163). -/
def execSloZp (z : Byte) (s : State) : Host.Outcome State Fault Refusal := runInstr (.sloZp z) (.rmw .zp modifySlo) s

/-- $0F SLO w (R411, R169). -/
def execSloAbs (w : Word) (s : State) : Host.Outcome State Fault Refusal := runInstr (.sloAbs w) (.rmw .abs modifySlo) s

/-- $13 SLO (z),Y (R411, R178). -/
def execSloIndY (z : Byte) (s : State) : Host.Outcome State Fault Refusal :=
  runInstr (.sloIndY z) (.rmw .izy modifySlo) s

/-- $17 SLO z,X (R411, R166). -/
def execSloZpX (z : Byte) (s : State) : Host.Outcome State Fault Refusal := runInstr (.sloZpX z) (.rmw .zpx modifySlo) s

/-- $1B SLO w,Y (R411, R172). -/
def execSloAbsY (w : Word) (s : State) : Host.Outcome State Fault Refusal :=
  runInstr (.sloAbsY w) (.rmw .aby modifySlo) s

/-- $1F SLO w,X (R411, R172). -/
def execSloAbsX (w : Word) (s : State) : Host.Outcome State Fault Refusal :=
  runInstr (.sloAbsX w) (.rmw .abx modifySlo) s

/-- $04 NOP z (R436, R161). -/
def execNopZp04 (z : Byte) (s : State) : Host.Outcome State Fault Refusal := runInstr (.nopZp04 z) (.read .zp readNop) s

/-- $0C NOP w (R436, R167). -/
def execNopAbs (w : Word) (s : State) : Host.Outcome State Fault Refusal := runInstr (.nopAbs w) (.read .abs readNop) s

/-- $14 NOP z,X (R436, R164). -/
def execNopZpX14 (z : Byte) (s : State) : Host.Outcome State Fault Refusal :=
  runInstr (.nopZpX14 z) (.read .zpx readNop) s

/-- $1A NOP (R436, R159). -/
def execNop1A (s : State) : Host.Outcome State Fault Refusal := runInstr .nop1A (.implied opNop) s

/-- $1C NOP w,X (R436, R170). -/
def execNopAbsX1C (w : Word) (s : State) : Host.Outcome State Fault Refusal :=
  runInstr (.nopAbsX1C w) (.read .abx readNop) s

/-- $34 NOP z,X (R436, R164). -/
def execNopZpX34 (z : Byte) (s : State) : Host.Outcome State Fault Refusal :=
  runInstr (.nopZpX34 z) (.read .zpx readNop) s

/-- $3A NOP (R436, R159). -/
def execNop3A (s : State) : Host.Outcome State Fault Refusal := runInstr .nop3A (.implied opNop) s

/-- $3C NOP w,X (R436, R170). -/
def execNopAbsX3C (w : Word) (s : State) : Host.Outcome State Fault Refusal :=
  runInstr (.nopAbsX3C w) (.read .abx readNop) s

/-- $44 NOP z (R436, R161). -/
def execNopZp44 (z : Byte) (s : State) : Host.Outcome State Fault Refusal := runInstr (.nopZp44 z) (.read .zp readNop) s

/-- $54 NOP z,X (R436, R164). -/
def execNopZpX54 (z : Byte) (s : State) : Host.Outcome State Fault Refusal :=
  runInstr (.nopZpX54 z) (.read .zpx readNop) s

/-- $5A NOP (R436, R159). -/
def execNop5A (s : State) : Host.Outcome State Fault Refusal := runInstr .nop5A (.implied opNop) s

/-- $5C NOP w,X (R436, R170). -/
def execNopAbsX5C (w : Word) (s : State) : Host.Outcome State Fault Refusal :=
  runInstr (.nopAbsX5C w) (.read .abx readNop) s

/-- $64 NOP z (R436, R161). -/
def execNopZp64 (z : Byte) (s : State) : Host.Outcome State Fault Refusal := runInstr (.nopZp64 z) (.read .zp readNop) s

/-- $74 NOP z,X (R436, R164). -/
def execNopZpX74 (z : Byte) (s : State) : Host.Outcome State Fault Refusal :=
  runInstr (.nopZpX74 z) (.read .zpx readNop) s

/-- $7A NOP (R436, R159). -/
def execNop7A (s : State) : Host.Outcome State Fault Refusal := runInstr .nop7A (.implied opNop) s

/-- $7C NOP w,X (R436, R170). -/
def execNopAbsX7C (w : Word) (s : State) : Host.Outcome State Fault Refusal :=
  runInstr (.nopAbsX7C w) (.read .abx readNop) s

/-- $80 NOP #v (R436, R160). -/
def execNopImm80 (v : Byte) (s : State) : Host.Outcome State Fault Refusal :=
  runInstr (.nopImm80 v) (.read .imm readNop) s

/-- $82 NOP #v (R436, R160). -/
def execNopImm82 (v : Byte) (s : State) : Host.Outcome State Fault Refusal :=
  runInstr (.nopImm82 v) (.read .imm readNop) s

/-- $89 NOP #v (R436, R160). -/
def execNopImm89 (v : Byte) (s : State) : Host.Outcome State Fault Refusal :=
  runInstr (.nopImm89 v) (.read .imm readNop) s

/-- $C2 NOP #v (R436, R160). -/
def execNopImmC2 (v : Byte) (s : State) : Host.Outcome State Fault Refusal :=
  runInstr (.nopImmC2 v) (.read .imm readNop) s

/-- $D4 NOP z,X (R436, R164). -/
def execNopZpXD4 (z : Byte) (s : State) : Host.Outcome State Fault Refusal :=
  runInstr (.nopZpXD4 z) (.read .zpx readNop) s

/-- $DA NOP (R436, R159). -/
def execNopDA (s : State) : Host.Outcome State Fault Refusal := runInstr .nopDA (.implied opNop) s

/-- $DC NOP w,X (R436, R170). -/
def execNopAbsXDC (w : Word) (s : State) : Host.Outcome State Fault Refusal :=
  runInstr (.nopAbsXDC w) (.read .abx readNop) s

/-- $E2 NOP #v (R436, R160). -/
def execNopImmE2 (v : Byte) (s : State) : Host.Outcome State Fault Refusal :=
  runInstr (.nopImmE2 v) (.read .imm readNop) s

/-- $F4 NOP z,X (R436, R164). -/
def execNopZpXF4 (z : Byte) (s : State) : Host.Outcome State Fault Refusal :=
  runInstr (.nopZpXF4 z) (.read .zpx readNop) s

/-- $FA NOP (R436, R159). -/
def execNopFA (s : State) : Host.Outcome State Fault Refusal := runInstr .nopFA (.implied opNop) s

/-- $FC NOP w,X (R436, R170). -/
def execNopAbsXFC (w : Word) (s : State) : Host.Outcome State Fault Refusal :=
  runInstr (.nopAbsXFC w) (.read .abx readNop) s

/-- $0B ANC #v (R420, R160). -/
def execAncImm0B (v : Byte) (s : State) : Host.Outcome State Fault Refusal :=
  runInstr (.ancImm0B v) (.read .imm readAnc) s

/-- $2B ANC #v (R420, R160). -/
def execAncImm2B (v : Byte) (s : State) : Host.Outcome State Fault Refusal :=
  runInstr (.ancImm2B v) (.read .imm readAnc) s

/-- $23 RLA (z,X) (R412, R175). -/
def execRlaIndX (z : Byte) (s : State) : Host.Outcome State Fault Refusal :=
  runInstr (.rlaIndX z) (.rmw .izx modifyRla) s

/-- $27 RLA z (R412, R163). -/
def execRlaZp (z : Byte) (s : State) : Host.Outcome State Fault Refusal := runInstr (.rlaZp z) (.rmw .zp modifyRla) s

/-- $2F RLA w (R412, R169). -/
def execRlaAbs (w : Word) (s : State) : Host.Outcome State Fault Refusal := runInstr (.rlaAbs w) (.rmw .abs modifyRla) s

/-- $33 RLA (z),Y (R412, R178). -/
def execRlaIndY (z : Byte) (s : State) : Host.Outcome State Fault Refusal :=
  runInstr (.rlaIndY z) (.rmw .izy modifyRla) s

/-- $37 RLA z,X (R412, R166). -/
def execRlaZpX (z : Byte) (s : State) : Host.Outcome State Fault Refusal := runInstr (.rlaZpX z) (.rmw .zpx modifyRla) s

/-- $3B RLA w,Y (R412, R172). -/
def execRlaAbsY (w : Word) (s : State) : Host.Outcome State Fault Refusal :=
  runInstr (.rlaAbsY w) (.rmw .aby modifyRla) s

/-- $3F RLA w,X (R412, R172). -/
def execRlaAbsX (w : Word) (s : State) : Host.Outcome State Fault Refusal :=
  runInstr (.rlaAbsX w) (.rmw .abx modifyRla) s

/-- $43 SRE (z,X) (R413, R175). -/
def execSreIndX (z : Byte) (s : State) : Host.Outcome State Fault Refusal :=
  runInstr (.sreIndX z) (.rmw .izx modifySre) s

/-- $47 SRE z (R413, R163). -/
def execSreZp (z : Byte) (s : State) : Host.Outcome State Fault Refusal := runInstr (.sreZp z) (.rmw .zp modifySre) s

/-- $4F SRE w (R413, R169). -/
def execSreAbs (w : Word) (s : State) : Host.Outcome State Fault Refusal := runInstr (.sreAbs w) (.rmw .abs modifySre) s

/-- $53 SRE (z),Y (R413, R178). -/
def execSreIndY (z : Byte) (s : State) : Host.Outcome State Fault Refusal :=
  runInstr (.sreIndY z) (.rmw .izy modifySre) s

/-- $57 SRE z,X (R413, R166). -/
def execSreZpX (z : Byte) (s : State) : Host.Outcome State Fault Refusal := runInstr (.sreZpX z) (.rmw .zpx modifySre) s

/-- $5B SRE w,Y (R413, R172). -/
def execSreAbsY (w : Word) (s : State) : Host.Outcome State Fault Refusal :=
  runInstr (.sreAbsY w) (.rmw .aby modifySre) s

/-- $5F SRE w,X (R413, R172). -/
def execSreAbsX (w : Word) (s : State) : Host.Outcome State Fault Refusal :=
  runInstr (.sreAbsX w) (.rmw .abx modifySre) s

/-- $4B ALR #v (R421, R160). -/
def execAlrImm (v : Byte) (s : State) : Host.Outcome State Fault Refusal := runInstr (.alrImm v) (.read .imm readAlr) s

/-- $63 RRA (z,X) (R414, R175). -/
def execRraIndX (z : Byte) (s : State) : Host.Outcome State Fault Refusal :=
  runInstr (.rraIndX z) (.rmw .izx modifyRra) s

/-- $67 RRA z (R414, R163). -/
def execRraZp (z : Byte) (s : State) : Host.Outcome State Fault Refusal := runInstr (.rraZp z) (.rmw .zp modifyRra) s

/-- $6F RRA w (R414, R169). -/
def execRraAbs (w : Word) (s : State) : Host.Outcome State Fault Refusal := runInstr (.rraAbs w) (.rmw .abs modifyRra) s

/-- $73 RRA (z),Y (R414, R178). -/
def execRraIndY (z : Byte) (s : State) : Host.Outcome State Fault Refusal :=
  runInstr (.rraIndY z) (.rmw .izy modifyRra) s

/-- $77 RRA z,X (R414, R166). -/
def execRraZpX (z : Byte) (s : State) : Host.Outcome State Fault Refusal := runInstr (.rraZpX z) (.rmw .zpx modifyRra) s

/-- $7B RRA w,Y (R414, R172). -/
def execRraAbsY (w : Word) (s : State) : Host.Outcome State Fault Refusal :=
  runInstr (.rraAbsY w) (.rmw .aby modifyRra) s

/-- $7F RRA w,X (R414, R172). -/
def execRraAbsX (w : Word) (s : State) : Host.Outcome State Fault Refusal :=
  runInstr (.rraAbsX w) (.rmw .abx modifyRra) s

/-- $6B ARR #v (R422, R160). -/
def execArrImm (v : Byte) (s : State) : Host.Outcome State Fault Refusal := runInstr (.arrImm v) (.read .imm readArr) s

/-- $83 SAX (z,X) (R417, R174). -/
def execSaxIndX (z : Byte) (s : State) : Host.Outcome State Fault Refusal :=
  runInstr (.saxIndX z) (.write .izx [.a, .x] valueSax) s

/-- $87 SAX z (R417, R162). -/
def execSaxZp (z : Byte) (s : State) : Host.Outcome State Fault Refusal := runInstr (.saxZp z) (.write .zp [.a, .x] valueSax) s

/-- $8F SAX w (R417, R168). -/
def execSaxAbs (w : Word) (s : State) : Host.Outcome State Fault Refusal :=
  runInstr (.saxAbs w) (.write .abs [.a, .x] valueSax) s

/-- $97 SAX z,Y (R417, R165). -/
def execSaxZpY (z : Byte) (s : State) : Host.Outcome State Fault Refusal :=
  runInstr (.saxZpY z) (.write .zpy [.a, .x] valueSax) s

/-- $8B ANE #v (R425, R160). -/
def execAneImm (v : Byte) (s : State) : Host.Outcome State Fault Refusal := runInstr (.aneImm v) (.read .imm readAne) s

/-- $93 SHA (z),Y (R426, R177, R431). -/
def execShaIndY (z : Byte) (s : State) : Host.Outcome State Fault Refusal :=
  runInstr (.shaIndY z) (.sh .izy prepareSha sourceSha) s

/-- $9F SHA w,Y (R426, R171, R431). -/
def execShaAbsY (w : Word) (s : State) : Host.Outcome State Fault Refusal :=
  runInstr (.shaAbsY w) (.sh .aby prepareSha sourceSha) s

/-- $9B SHS w,Y (R427, R171, R431). -/
def execShsAbsY (w : Word) (s : State) : Host.Outcome State Fault Refusal :=
  runInstr (.shsAbsY w) (.sh .aby prepareShs sourceShs) s

/-- $9C SHY w,X (R429, R171, R431). -/
def execShyAbsX (w : Word) (s : State) : Host.Outcome State Fault Refusal :=
  runInstr (.shyAbsX w) (.sh .abx prepareShy sourceShy) s

/-- $9E SHX w,Y (R428, R171, R431). -/
def execShxAbsY (w : Word) (s : State) : Host.Outcome State Fault Refusal :=
  runInstr (.shxAbsY w) (.sh .aby prepareShx sourceShx) s

/-- $A3 LAX (z,X) (R418, R173). -/
def execLaxIndX (z : Byte) (s : State) : Host.Outcome State Fault Refusal :=
  runInstr (.laxIndX z) (.read .izx readLax) s

/-- $A7 LAX z (R418, R161). -/
def execLaxZp (z : Byte) (s : State) : Host.Outcome State Fault Refusal := runInstr (.laxZp z) (.read .zp readLax) s

/-- $AF LAX w (R418, R167). -/
def execLaxAbs (w : Word) (s : State) : Host.Outcome State Fault Refusal := runInstr (.laxAbs w) (.read .abs readLax) s

/-- $B3 LAX (z),Y (R418, R176). -/
def execLaxIndY (z : Byte) (s : State) : Host.Outcome State Fault Refusal :=
  runInstr (.laxIndY z) (.read .izy readLax) s

/-- $B7 LAX z,Y (R418, R164). -/
def execLaxZpY (z : Byte) (s : State) : Host.Outcome State Fault Refusal := runInstr (.laxZpY z) (.read .zpy readLax) s

/-- $BF LAX w,Y (R418, R170). -/
def execLaxAbsY (w : Word) (s : State) : Host.Outcome State Fault Refusal :=
  runInstr (.laxAbsY w) (.read .aby readLax) s

/-- $AB LXA #v (R424, R160). -/
def execLxaImm (v : Byte) (s : State) : Host.Outcome State Fault Refusal := runInstr (.lxaImm v) (.read .imm readLxa) s

/-- $BB LAS w,Y (R419, R170). -/
def execLasAbsY (w : Word) (s : State) : Host.Outcome State Fault Refusal :=
  runInstr (.lasAbsY w) (.read .aby readLas) s

/-- $C3 DCP (z,X) (R415, R175). -/
def execDcpIndX (z : Byte) (s : State) : Host.Outcome State Fault Refusal :=
  runInstr (.dcpIndX z) (.rmw .izx modifyDcp) s

/-- $C7 DCP z (R415, R163). -/
def execDcpZp (z : Byte) (s : State) : Host.Outcome State Fault Refusal := runInstr (.dcpZp z) (.rmw .zp modifyDcp) s

/-- $CF DCP w (R415, R169). -/
def execDcpAbs (w : Word) (s : State) : Host.Outcome State Fault Refusal := runInstr (.dcpAbs w) (.rmw .abs modifyDcp) s

/-- $D3 DCP (z),Y (R415, R178). -/
def execDcpIndY (z : Byte) (s : State) : Host.Outcome State Fault Refusal :=
  runInstr (.dcpIndY z) (.rmw .izy modifyDcp) s

/-- $D7 DCP z,X (R415, R166). -/
def execDcpZpX (z : Byte) (s : State) : Host.Outcome State Fault Refusal := runInstr (.dcpZpX z) (.rmw .zpx modifyDcp) s

/-- $DB DCP w,Y (R415, R172). -/
def execDcpAbsY (w : Word) (s : State) : Host.Outcome State Fault Refusal :=
  runInstr (.dcpAbsY w) (.rmw .aby modifyDcp) s

/-- $DF DCP w,X (R415, R172). -/
def execDcpAbsX (w : Word) (s : State) : Host.Outcome State Fault Refusal :=
  runInstr (.dcpAbsX w) (.rmw .abx modifyDcp) s

/-- $CB SBX #v (R423, R160). -/
def execSbxImm (v : Byte) (s : State) : Host.Outcome State Fault Refusal := runInstr (.sbxImm v) (.read .imm readSbx) s

/-- $E3 ISB (z,X) (R416, R175). -/
def execIsbIndX (z : Byte) (s : State) : Host.Outcome State Fault Refusal :=
  runInstr (.isbIndX z) (.rmw .izx modifyIsb) s

/-- $E7 ISB z (R416, R163). -/
def execIsbZp (z : Byte) (s : State) : Host.Outcome State Fault Refusal := runInstr (.isbZp z) (.rmw .zp modifyIsb) s

/-- $EF ISB w (R416, R169). -/
def execIsbAbs (w : Word) (s : State) : Host.Outcome State Fault Refusal := runInstr (.isbAbs w) (.rmw .abs modifyIsb) s

/-- $F3 ISB (z),Y (R416, R178). -/
def execIsbIndY (z : Byte) (s : State) : Host.Outcome State Fault Refusal :=
  runInstr (.isbIndY z) (.rmw .izy modifyIsb) s

/-- $F7 ISB z,X (R416, R166). -/
def execIsbZpX (z : Byte) (s : State) : Host.Outcome State Fault Refusal := runInstr (.isbZpX z) (.rmw .zpx modifyIsb) s

/-- $FB ISB w,Y (R416, R172). -/
def execIsbAbsY (w : Word) (s : State) : Host.Outcome State Fault Refusal :=
  runInstr (.isbAbsY w) (.rmw .aby modifyIsb) s

/-- $FF ISB w,X (R416, R172). -/
def execIsbAbsX (w : Word) (s : State) : Host.Outcome State Fault Refusal :=
  runInstr (.isbAbsX w) (.rmw .abx modifyIsb) s

/-- $EB USBC #v (R437, R160). -/
def execUsbcImm (v : Byte) (s : State) : Host.Outcome State Fault Refusal :=
  runInstr (.usbcImm v) (.read .imm readUsbc) s

end Sys2Proof.Machine
end

