-- ==== Sys2Proof/Machine/Sequences.lean ====
section
/-! DEFINITION. The sequence that each opcode selects (R114, R151, R157), for a machine that resumes in the middle of one. -/

namespace Sys2Proof.Machine

/-- The sequence of a mnemonic in a mode. A mode that a mnemonic does not have selects the harmless sequence of its class. -/
def mnemSequence (n : Mnem) (m : Mode) : Sequence :=
  match n with
  | .brk => .brk
  | .ora => .read m readOra
  | .jam => .jam
  | .slo => .rmw m modifySlo
  | .nop => if m = .imp then .implied opNop else .read m readNop
  | .asl => if m = .acc then .implied accumulatorAsl else .rmw m modifyAsl
  | .php => .push State.packAccess valuePhp
  | .anc => .read m readAnc
  | .bpl => .branch condBpl
  | .clc => .implied opClc
  | .jsr => .jsr
  | .and => .read m readAnd
  | .rla => .rmw m modifyRla
  | .bit => .read m readBit
  | .rol => if m = .acc then .implied accumulatorRol else .rmw m modifyRol
  | .plp => .pull pullPlp
  | .bmi => .branch condBmi
  | .sec => .implied opSec
  | .rti => .rti
  | .eor => .read m readEor
  | .sre => .rmw m modifySre
  | .lsr => if m = .acc then .implied accumulatorLsr else .rmw m modifyLsr
  | .pha => .push preparePha valuePha
  | .alr => .read m readAlr
  | .jmp => if m = .ind then .jmpInd else .jmpAbs
  | .bvc => .branch condBvc
  | .cli => .implied opCli
  | .rts => .rts
  | .adc => .read m readAdc
  | .rra => .rmw m modifyRra
  | .ror => if m = .acc then .implied accumulatorRor else .rmw m modifyRor
  | .pla => .pull pullPla
  | .arr => .read m readArr
  | .bvs => .branch condBvs
  | .sei => .implied opSei
  | .sta => .write m [.a] valueSta
  | .sax => .write m [.a, .x] valueSax
  | .sty => .write m [.y] valueSty
  | .stx => .write m [.x] valueStx
  | .dey => .implied opDey
  | .txa => .implied opTxa
  | .ane => .read m readAne
  | .bcc => .branch condBcc
  | .sha => .sh m prepareSha sourceSha
  | .tya => .implied opTya
  | .txs => .implied opTxs
  | .shs => .sh m prepareShs sourceShs
  | .shy => .sh m prepareShy sourceShy
  | .shx => .sh m prepareShx sourceShx
  | .ldy => .read m readLdy
  | .lda => .read m readLda
  | .ldx => .read m readLdx
  | .lax => .read m readLax
  | .tay => .implied opTay
  | .tax => .implied opTax
  | .lxa => .read m readLxa
  | .bcs => .branch condBcs
  | .clv => .implied opClv
  | .tsx => .implied opTsx
  | .las => .read m readLas
  | .cpy => .read m readCpy
  | .cmp => .read m readCmp
  | .dcp => .rmw m modifyDcp
  | .dec => .rmw m modifyDec
  | .iny => .implied opIny
  | .dex => .implied opDex
  | .sbx => .read m readSbx
  | .bne => .branch condBne
  | .cld => .implied opCld
  | .cpx => .read m readCpx
  | .sbc => .read m readSbc
  | .isb => .rmw m modifyIsb
  | .inc => .rmw m modifyInc
  | .inx => .implied opInx
  | .usbc => .read m readUsbc
  | .beq => .branch condBeq
  | .sed => .implied opSed

/-- The sequence of an instruction. -/
def sequenceOf (i : Instr) : Sequence := mnemSequence i.mnem i.mode

end Sys2Proof.Machine
end

