-- ==== Sys2Proof/Machine/Fetch.lean ====
section
/-! DEFINITION. The machine between instructions: the live scheduler, one half-tick at a time (R15, R150, R152); fetching an
instruction's bytes; what a step does (log 9); and placing an instruction where the next step fetches it (log 22). -/

namespace Sys2Proof.Machine

/-! ### The live machine, half-tick by half-tick -/

/-- The sequence that an opcode byte selects (R151). -/
def opcodeSequence (b : Byte) : Sequence := sequenceOf (decodeBytes b 0 0)

/-- The sequence that SEQ names (R151); at a boundary there is none, and the value here is not used. -/
def State.currentSequence (s : State) : Sequence :=
  match s.sq.seq with
  | .boundary => .implied opNop
  | .op => opcodeSequence s.sq.ir
  | .entry k => .entry k

/-- PHI2 of a tick at a terminal that takes the decision `d` (R152, R477). -/
def State.terminalTick (s : State) (d : Option Entry) : State :=
  match d with
  | some k => (s.accept k).executeTick .live (terminalEntry k s)
  | none => s.executeTick .live terminalFetch

/-- PHI2 of a tick (R150): the CPU executes one micro-op, stalls, or stops at the read of an unwritten I (R46, R476). -/
def State.phi2 (s : State) : State :=
  match s.sq.seq with
  | .boundary =>
    if s.stalls terminalFetch then s.stallTick
    else if s.pollFaults then s.uninitFault
    else s.terminalTick s.decision
  | _ =>
    let q := s.currentSequence
    if s.stalls (q.micro s) then (q.markStall s).stallTick else s.executeTick .live (q.micro s)

/-- One half of a tick (R15, R150). After a fault no agent steps (R503). -/
def State.halfTick (s : State) : State :=
  s.unlessStopped fun t =>
    match t.half with
    | .phi1 => t.phi1
    | .phi2 => t.phi2

/-- `n` half-ticks. -/
def State.halfTicks : Nat → State → State
  | 0, s => s
  | n + 1, s => State.halfTicks n s.halfTick

/-! ### Fetching -/

/-- The instruction whose bytes the machine fetches when it starts one at the terminal of `s`, PHI1 being done (log 10). -/
def State.fetchedInstr (s : State) : Instr :=
  let t := s.executeTick .live terminalFetch
  let u := runSeq .live (opcodeSequence t.sq.ir) 7 t
  decodeBytes t.sq.ir u.sq.op1 u.sq.op2

/-- Enter RST, NMI or IRQ at the terminal of `s`, PHI1 being done (R152, R477, R484, R486). -/
def State.enter (k : Entry) (s : State) : State := runSeq .live (.entry k) 6 (s.terminalTick (some k))

/-- Take up a sequence that an earlier step left at a stall, PHI1 being done (R153). -/
def State.resume (s : State) : State := runSeq .live s.currentSequence 8 s

/-- One step: from a terminal, a whole instruction or a whole entry; in the middle of a sequence, the rest of it. A stall, a
forced jump or a fault ends the step where it happens (log 9). -/
def State.stepOnce (s : State) : Host.Outcome State Fault Refusal :=
  let s1 := s.clearLogs.phi1
  if s1.stopped.isSome then s1.outcome
  else if s1.sq.seq == .boundary then
    if s1.stalls terminalFetch then s1.stallTick.outcome
    else if s1.pollFaults then s1.uninitFault.outcome
    else
      match s1.decision with
      | some k => (s1.enter k).outcome
      | none => exec s1.fetchedInstr s
  else s1.resume.outcome

/-! ### Placing an instruction -/

/-- The bytes of a three-byte instruction at `a` are plain storage. -/
def State.plainCode (s : State) (a : Word) : Bool := s.isStored a && s.isStored (a + 1) && s.isStored (a + 2)

/-- The state with the bytes of an instruction at PC, at a boundary where no entry is decided and no stall happens. -/
def State.placeBytes (s : State) (b0 b1 b2 : Byte) : State :=
  let pc := if s.plainCode s.cpu.pc then s.cpu.pc else 0
  let t := (((s.setPC pc).poke pc b0).poke (pc + 1) b1).poke (pc + 2) b2
  { t with
    sq := { t.sq with seq := .boundary }
    irq := { t.irq with irqLat := .zero, nmiLat := .zero, rstLat := .zero }
    busHold := false
    agenda := t.agenda.filter (fun d => decide (t.tick + 8 < d.at_))
    stopped := none }

/-- The state with an instruction, numbered as the opcode table numbers its bits, where the next step fetches. -/
def State.placeInstr (s : State) (nbits w : Nat) : State :=
  let v := w % 2 ^ nbits
  s.placeBytes (BitVec.ofNat 8 v) (BitVec.ofNat 8 (v / 256)) (BitVec.ofNat 8 (v / 65536))

end Sys2Proof.Machine
end

