-- ==== Sys2Proof/Laws/PerInstr.lean ====
section
/-! SUPPORT. What holds of every instruction as syntax, one lemma for each constructor: its bytes are as many as its mode
says (R111, R119), the first is its opcode (R112), and its row is well formed (R118). -/

namespace Sys2Proof.Laws.Encoding

/-- The bytes of an instruction agree with its row of the opcode table. -/
def Statement (i : Instr) : Prop :=
  (encode i).length = i.length ∧ (encode i).head? = some i.opcode ∧ i.wellFormed = true

theorem oraIndX (z : Byte) : Statement (.oraIndX z) := ⟨rfl, rfl, rfl⟩
theorem sloIndX (z : Byte) : Statement (.sloIndX z) := ⟨rfl, rfl, rfl⟩
theorem nopZp04 (z : Byte) : Statement (.nopZp04 z) := ⟨rfl, rfl, rfl⟩
theorem oraZp (z : Byte) : Statement (.oraZp z) := ⟨rfl, rfl, rfl⟩
theorem aslZp (z : Byte) : Statement (.aslZp z) := ⟨rfl, rfl, rfl⟩
theorem sloZp (z : Byte) : Statement (.sloZp z) := ⟨rfl, rfl, rfl⟩
theorem oraImm (v : Byte) : Statement (.oraImm v) := ⟨rfl, rfl, rfl⟩
theorem ancImm0B (v : Byte) : Statement (.ancImm0B v) := ⟨rfl, rfl, rfl⟩
theorem nopAbs (w : Word) : Statement (.nopAbs w) := ⟨rfl, rfl, rfl⟩
theorem oraAbs (w : Word) : Statement (.oraAbs w) := ⟨rfl, rfl, rfl⟩
theorem aslAbs (w : Word) : Statement (.aslAbs w) := ⟨rfl, rfl, rfl⟩
theorem sloAbs (w : Word) : Statement (.sloAbs w) := ⟨rfl, rfl, rfl⟩
theorem bpl (off : Byte) : Statement (.bpl off) := ⟨rfl, rfl, rfl⟩
theorem oraIndY (z : Byte) : Statement (.oraIndY z) := ⟨rfl, rfl, rfl⟩
theorem sloIndY (z : Byte) : Statement (.sloIndY z) := ⟨rfl, rfl, rfl⟩
theorem nopZpX14 (z : Byte) : Statement (.nopZpX14 z) := ⟨rfl, rfl, rfl⟩
theorem oraZpX (z : Byte) : Statement (.oraZpX z) := ⟨rfl, rfl, rfl⟩
theorem aslZpX (z : Byte) : Statement (.aslZpX z) := ⟨rfl, rfl, rfl⟩
theorem sloZpX (z : Byte) : Statement (.sloZpX z) := ⟨rfl, rfl, rfl⟩
theorem oraAbsY (w : Word) : Statement (.oraAbsY w) := ⟨rfl, rfl, rfl⟩
theorem sloAbsY (w : Word) : Statement (.sloAbsY w) := ⟨rfl, rfl, rfl⟩
theorem nopAbsX1C (w : Word) : Statement (.nopAbsX1C w) := ⟨rfl, rfl, rfl⟩
theorem oraAbsX (w : Word) : Statement (.oraAbsX w) := ⟨rfl, rfl, rfl⟩
theorem aslAbsX (w : Word) : Statement (.aslAbsX w) := ⟨rfl, rfl, rfl⟩
theorem sloAbsX (w : Word) : Statement (.sloAbsX w) := ⟨rfl, rfl, rfl⟩
theorem jsr (w : Word) : Statement (.jsr w) := ⟨rfl, rfl, rfl⟩
theorem andIndX (z : Byte) : Statement (.andIndX z) := ⟨rfl, rfl, rfl⟩
theorem rlaIndX (z : Byte) : Statement (.rlaIndX z) := ⟨rfl, rfl, rfl⟩
theorem bitZp (z : Byte) : Statement (.bitZp z) := ⟨rfl, rfl, rfl⟩
theorem andZp (z : Byte) : Statement (.andZp z) := ⟨rfl, rfl, rfl⟩
theorem rolZp (z : Byte) : Statement (.rolZp z) := ⟨rfl, rfl, rfl⟩
theorem rlaZp (z : Byte) : Statement (.rlaZp z) := ⟨rfl, rfl, rfl⟩
theorem andImm (v : Byte) : Statement (.andImm v) := ⟨rfl, rfl, rfl⟩
theorem ancImm2B (v : Byte) : Statement (.ancImm2B v) := ⟨rfl, rfl, rfl⟩
theorem bitAbs (w : Word) : Statement (.bitAbs w) := ⟨rfl, rfl, rfl⟩
theorem andAbs (w : Word) : Statement (.andAbs w) := ⟨rfl, rfl, rfl⟩
theorem rolAbs (w : Word) : Statement (.rolAbs w) := ⟨rfl, rfl, rfl⟩
theorem rlaAbs (w : Word) : Statement (.rlaAbs w) := ⟨rfl, rfl, rfl⟩
theorem bmi (off : Byte) : Statement (.bmi off) := ⟨rfl, rfl, rfl⟩
theorem andIndY (z : Byte) : Statement (.andIndY z) := ⟨rfl, rfl, rfl⟩
theorem rlaIndY (z : Byte) : Statement (.rlaIndY z) := ⟨rfl, rfl, rfl⟩
theorem nopZpX34 (z : Byte) : Statement (.nopZpX34 z) := ⟨rfl, rfl, rfl⟩
theorem andZpX (z : Byte) : Statement (.andZpX z) := ⟨rfl, rfl, rfl⟩
theorem rolZpX (z : Byte) : Statement (.rolZpX z) := ⟨rfl, rfl, rfl⟩
theorem rlaZpX (z : Byte) : Statement (.rlaZpX z) := ⟨rfl, rfl, rfl⟩
theorem andAbsY (w : Word) : Statement (.andAbsY w) := ⟨rfl, rfl, rfl⟩
theorem rlaAbsY (w : Word) : Statement (.rlaAbsY w) := ⟨rfl, rfl, rfl⟩
theorem nopAbsX3C (w : Word) : Statement (.nopAbsX3C w) := ⟨rfl, rfl, rfl⟩
theorem andAbsX (w : Word) : Statement (.andAbsX w) := ⟨rfl, rfl, rfl⟩
theorem rolAbsX (w : Word) : Statement (.rolAbsX w) := ⟨rfl, rfl, rfl⟩
theorem rlaAbsX (w : Word) : Statement (.rlaAbsX w) := ⟨rfl, rfl, rfl⟩
theorem eorIndX (z : Byte) : Statement (.eorIndX z) := ⟨rfl, rfl, rfl⟩
theorem sreIndX (z : Byte) : Statement (.sreIndX z) := ⟨rfl, rfl, rfl⟩
theorem nopZp44 (z : Byte) : Statement (.nopZp44 z) := ⟨rfl, rfl, rfl⟩
theorem eorZp (z : Byte) : Statement (.eorZp z) := ⟨rfl, rfl, rfl⟩
theorem lsrZp (z : Byte) : Statement (.lsrZp z) := ⟨rfl, rfl, rfl⟩
theorem sreZp (z : Byte) : Statement (.sreZp z) := ⟨rfl, rfl, rfl⟩
theorem eorImm (v : Byte) : Statement (.eorImm v) := ⟨rfl, rfl, rfl⟩
theorem alrImm (v : Byte) : Statement (.alrImm v) := ⟨rfl, rfl, rfl⟩
theorem jmpAbs (w : Word) : Statement (.jmpAbs w) := ⟨rfl, rfl, rfl⟩
theorem eorAbs (w : Word) : Statement (.eorAbs w) := ⟨rfl, rfl, rfl⟩
theorem lsrAbs (w : Word) : Statement (.lsrAbs w) := ⟨rfl, rfl, rfl⟩
theorem sreAbs (w : Word) : Statement (.sreAbs w) := ⟨rfl, rfl, rfl⟩
theorem bvc (off : Byte) : Statement (.bvc off) := ⟨rfl, rfl, rfl⟩
theorem eorIndY (z : Byte) : Statement (.eorIndY z) := ⟨rfl, rfl, rfl⟩
theorem sreIndY (z : Byte) : Statement (.sreIndY z) := ⟨rfl, rfl, rfl⟩
theorem nopZpX54 (z : Byte) : Statement (.nopZpX54 z) := ⟨rfl, rfl, rfl⟩
theorem eorZpX (z : Byte) : Statement (.eorZpX z) := ⟨rfl, rfl, rfl⟩
theorem lsrZpX (z : Byte) : Statement (.lsrZpX z) := ⟨rfl, rfl, rfl⟩
theorem sreZpX (z : Byte) : Statement (.sreZpX z) := ⟨rfl, rfl, rfl⟩
theorem eorAbsY (w : Word) : Statement (.eorAbsY w) := ⟨rfl, rfl, rfl⟩
theorem sreAbsY (w : Word) : Statement (.sreAbsY w) := ⟨rfl, rfl, rfl⟩
theorem nopAbsX5C (w : Word) : Statement (.nopAbsX5C w) := ⟨rfl, rfl, rfl⟩
theorem eorAbsX (w : Word) : Statement (.eorAbsX w) := ⟨rfl, rfl, rfl⟩
theorem lsrAbsX (w : Word) : Statement (.lsrAbsX w) := ⟨rfl, rfl, rfl⟩
theorem sreAbsX (w : Word) : Statement (.sreAbsX w) := ⟨rfl, rfl, rfl⟩
theorem adcIndX (z : Byte) : Statement (.adcIndX z) := ⟨rfl, rfl, rfl⟩
theorem rraIndX (z : Byte) : Statement (.rraIndX z) := ⟨rfl, rfl, rfl⟩
theorem nopZp64 (z : Byte) : Statement (.nopZp64 z) := ⟨rfl, rfl, rfl⟩
theorem adcZp (z : Byte) : Statement (.adcZp z) := ⟨rfl, rfl, rfl⟩
theorem rorZp (z : Byte) : Statement (.rorZp z) := ⟨rfl, rfl, rfl⟩
theorem rraZp (z : Byte) : Statement (.rraZp z) := ⟨rfl, rfl, rfl⟩
theorem adcImm (v : Byte) : Statement (.adcImm v) := ⟨rfl, rfl, rfl⟩
theorem arrImm (v : Byte) : Statement (.arrImm v) := ⟨rfl, rfl, rfl⟩
theorem jmpInd (w : Word) : Statement (.jmpInd w) := ⟨rfl, rfl, rfl⟩
theorem adcAbs (w : Word) : Statement (.adcAbs w) := ⟨rfl, rfl, rfl⟩
theorem rorAbs (w : Word) : Statement (.rorAbs w) := ⟨rfl, rfl, rfl⟩
theorem rraAbs (w : Word) : Statement (.rraAbs w) := ⟨rfl, rfl, rfl⟩
theorem bvs (off : Byte) : Statement (.bvs off) := ⟨rfl, rfl, rfl⟩
theorem adcIndY (z : Byte) : Statement (.adcIndY z) := ⟨rfl, rfl, rfl⟩
theorem rraIndY (z : Byte) : Statement (.rraIndY z) := ⟨rfl, rfl, rfl⟩
theorem nopZpX74 (z : Byte) : Statement (.nopZpX74 z) := ⟨rfl, rfl, rfl⟩
theorem adcZpX (z : Byte) : Statement (.adcZpX z) := ⟨rfl, rfl, rfl⟩
theorem rorZpX (z : Byte) : Statement (.rorZpX z) := ⟨rfl, rfl, rfl⟩
theorem rraZpX (z : Byte) : Statement (.rraZpX z) := ⟨rfl, rfl, rfl⟩
theorem adcAbsY (w : Word) : Statement (.adcAbsY w) := ⟨rfl, rfl, rfl⟩
theorem rraAbsY (w : Word) : Statement (.rraAbsY w) := ⟨rfl, rfl, rfl⟩
theorem nopAbsX7C (w : Word) : Statement (.nopAbsX7C w) := ⟨rfl, rfl, rfl⟩
theorem adcAbsX (w : Word) : Statement (.adcAbsX w) := ⟨rfl, rfl, rfl⟩
theorem rorAbsX (w : Word) : Statement (.rorAbsX w) := ⟨rfl, rfl, rfl⟩
theorem rraAbsX (w : Word) : Statement (.rraAbsX w) := ⟨rfl, rfl, rfl⟩
theorem nopImm80 (v : Byte) : Statement (.nopImm80 v) := ⟨rfl, rfl, rfl⟩
theorem staIndX (z : Byte) : Statement (.staIndX z) := ⟨rfl, rfl, rfl⟩
theorem nopImm82 (v : Byte) : Statement (.nopImm82 v) := ⟨rfl, rfl, rfl⟩
theorem saxIndX (z : Byte) : Statement (.saxIndX z) := ⟨rfl, rfl, rfl⟩
theorem styZp (z : Byte) : Statement (.styZp z) := ⟨rfl, rfl, rfl⟩
theorem staZp (z : Byte) : Statement (.staZp z) := ⟨rfl, rfl, rfl⟩
theorem stxZp (z : Byte) : Statement (.stxZp z) := ⟨rfl, rfl, rfl⟩
theorem saxZp (z : Byte) : Statement (.saxZp z) := ⟨rfl, rfl, rfl⟩
theorem nopImm89 (v : Byte) : Statement (.nopImm89 v) := ⟨rfl, rfl, rfl⟩
theorem aneImm (v : Byte) : Statement (.aneImm v) := ⟨rfl, rfl, rfl⟩
theorem styAbs (w : Word) : Statement (.styAbs w) := ⟨rfl, rfl, rfl⟩
theorem staAbs (w : Word) : Statement (.staAbs w) := ⟨rfl, rfl, rfl⟩
theorem stxAbs (w : Word) : Statement (.stxAbs w) := ⟨rfl, rfl, rfl⟩
theorem saxAbs (w : Word) : Statement (.saxAbs w) := ⟨rfl, rfl, rfl⟩
theorem bcc (off : Byte) : Statement (.bcc off) := ⟨rfl, rfl, rfl⟩
theorem staIndY (z : Byte) : Statement (.staIndY z) := ⟨rfl, rfl, rfl⟩
theorem shaIndY (z : Byte) : Statement (.shaIndY z) := ⟨rfl, rfl, rfl⟩
theorem styZpX (z : Byte) : Statement (.styZpX z) := ⟨rfl, rfl, rfl⟩
theorem staZpX (z : Byte) : Statement (.staZpX z) := ⟨rfl, rfl, rfl⟩
theorem stxZpY (z : Byte) : Statement (.stxZpY z) := ⟨rfl, rfl, rfl⟩
theorem saxZpY (z : Byte) : Statement (.saxZpY z) := ⟨rfl, rfl, rfl⟩
theorem staAbsY (w : Word) : Statement (.staAbsY w) := ⟨rfl, rfl, rfl⟩
theorem shsAbsY (w : Word) : Statement (.shsAbsY w) := ⟨rfl, rfl, rfl⟩
theorem shyAbsX (w : Word) : Statement (.shyAbsX w) := ⟨rfl, rfl, rfl⟩
theorem staAbsX (w : Word) : Statement (.staAbsX w) := ⟨rfl, rfl, rfl⟩
theorem shxAbsY (w : Word) : Statement (.shxAbsY w) := ⟨rfl, rfl, rfl⟩
theorem shaAbsY (w : Word) : Statement (.shaAbsY w) := ⟨rfl, rfl, rfl⟩
theorem ldyImm (v : Byte) : Statement (.ldyImm v) := ⟨rfl, rfl, rfl⟩
theorem ldaIndX (z : Byte) : Statement (.ldaIndX z) := ⟨rfl, rfl, rfl⟩
theorem ldxImm (v : Byte) : Statement (.ldxImm v) := ⟨rfl, rfl, rfl⟩
theorem laxIndX (z : Byte) : Statement (.laxIndX z) := ⟨rfl, rfl, rfl⟩
theorem ldyZp (z : Byte) : Statement (.ldyZp z) := ⟨rfl, rfl, rfl⟩
theorem ldaZp (z : Byte) : Statement (.ldaZp z) := ⟨rfl, rfl, rfl⟩
theorem ldxZp (z : Byte) : Statement (.ldxZp z) := ⟨rfl, rfl, rfl⟩
theorem laxZp (z : Byte) : Statement (.laxZp z) := ⟨rfl, rfl, rfl⟩
theorem ldaImm (v : Byte) : Statement (.ldaImm v) := ⟨rfl, rfl, rfl⟩
theorem lxaImm (v : Byte) : Statement (.lxaImm v) := ⟨rfl, rfl, rfl⟩
theorem ldyAbs (w : Word) : Statement (.ldyAbs w) := ⟨rfl, rfl, rfl⟩
theorem ldaAbs (w : Word) : Statement (.ldaAbs w) := ⟨rfl, rfl, rfl⟩
theorem ldxAbs (w : Word) : Statement (.ldxAbs w) := ⟨rfl, rfl, rfl⟩
theorem laxAbs (w : Word) : Statement (.laxAbs w) := ⟨rfl, rfl, rfl⟩
theorem bcs (off : Byte) : Statement (.bcs off) := ⟨rfl, rfl, rfl⟩
theorem ldaIndY (z : Byte) : Statement (.ldaIndY z) := ⟨rfl, rfl, rfl⟩
theorem laxIndY (z : Byte) : Statement (.laxIndY z) := ⟨rfl, rfl, rfl⟩
theorem ldyZpX (z : Byte) : Statement (.ldyZpX z) := ⟨rfl, rfl, rfl⟩
theorem ldaZpX (z : Byte) : Statement (.ldaZpX z) := ⟨rfl, rfl, rfl⟩
theorem ldxZpY (z : Byte) : Statement (.ldxZpY z) := ⟨rfl, rfl, rfl⟩
theorem laxZpY (z : Byte) : Statement (.laxZpY z) := ⟨rfl, rfl, rfl⟩
theorem ldaAbsY (w : Word) : Statement (.ldaAbsY w) := ⟨rfl, rfl, rfl⟩
theorem lasAbsY (w : Word) : Statement (.lasAbsY w) := ⟨rfl, rfl, rfl⟩
theorem ldyAbsX (w : Word) : Statement (.ldyAbsX w) := ⟨rfl, rfl, rfl⟩
theorem ldaAbsX (w : Word) : Statement (.ldaAbsX w) := ⟨rfl, rfl, rfl⟩
theorem ldxAbsY (w : Word) : Statement (.ldxAbsY w) := ⟨rfl, rfl, rfl⟩
theorem laxAbsY (w : Word) : Statement (.laxAbsY w) := ⟨rfl, rfl, rfl⟩
theorem cpyImm (v : Byte) : Statement (.cpyImm v) := ⟨rfl, rfl, rfl⟩
theorem cmpIndX (z : Byte) : Statement (.cmpIndX z) := ⟨rfl, rfl, rfl⟩
theorem nopImmC2 (v : Byte) : Statement (.nopImmC2 v) := ⟨rfl, rfl, rfl⟩
theorem dcpIndX (z : Byte) : Statement (.dcpIndX z) := ⟨rfl, rfl, rfl⟩
theorem cpyZp (z : Byte) : Statement (.cpyZp z) := ⟨rfl, rfl, rfl⟩
theorem cmpZp (z : Byte) : Statement (.cmpZp z) := ⟨rfl, rfl, rfl⟩
theorem decZp (z : Byte) : Statement (.decZp z) := ⟨rfl, rfl, rfl⟩
theorem dcpZp (z : Byte) : Statement (.dcpZp z) := ⟨rfl, rfl, rfl⟩
theorem cmpImm (v : Byte) : Statement (.cmpImm v) := ⟨rfl, rfl, rfl⟩
theorem sbxImm (v : Byte) : Statement (.sbxImm v) := ⟨rfl, rfl, rfl⟩
theorem cpyAbs (w : Word) : Statement (.cpyAbs w) := ⟨rfl, rfl, rfl⟩
theorem cmpAbs (w : Word) : Statement (.cmpAbs w) := ⟨rfl, rfl, rfl⟩
theorem decAbs (w : Word) : Statement (.decAbs w) := ⟨rfl, rfl, rfl⟩
theorem dcpAbs (w : Word) : Statement (.dcpAbs w) := ⟨rfl, rfl, rfl⟩
theorem bne (off : Byte) : Statement (.bne off) := ⟨rfl, rfl, rfl⟩
theorem cmpIndY (z : Byte) : Statement (.cmpIndY z) := ⟨rfl, rfl, rfl⟩
theorem dcpIndY (z : Byte) : Statement (.dcpIndY z) := ⟨rfl, rfl, rfl⟩
theorem nopZpXD4 (z : Byte) : Statement (.nopZpXD4 z) := ⟨rfl, rfl, rfl⟩
theorem cmpZpX (z : Byte) : Statement (.cmpZpX z) := ⟨rfl, rfl, rfl⟩
theorem decZpX (z : Byte) : Statement (.decZpX z) := ⟨rfl, rfl, rfl⟩
theorem dcpZpX (z : Byte) : Statement (.dcpZpX z) := ⟨rfl, rfl, rfl⟩
theorem cmpAbsY (w : Word) : Statement (.cmpAbsY w) := ⟨rfl, rfl, rfl⟩
theorem dcpAbsY (w : Word) : Statement (.dcpAbsY w) := ⟨rfl, rfl, rfl⟩
theorem nopAbsXDC (w : Word) : Statement (.nopAbsXDC w) := ⟨rfl, rfl, rfl⟩
theorem cmpAbsX (w : Word) : Statement (.cmpAbsX w) := ⟨rfl, rfl, rfl⟩
theorem decAbsX (w : Word) : Statement (.decAbsX w) := ⟨rfl, rfl, rfl⟩
theorem dcpAbsX (w : Word) : Statement (.dcpAbsX w) := ⟨rfl, rfl, rfl⟩
theorem cpxImm (v : Byte) : Statement (.cpxImm v) := ⟨rfl, rfl, rfl⟩
theorem sbcIndX (z : Byte) : Statement (.sbcIndX z) := ⟨rfl, rfl, rfl⟩
theorem nopImmE2 (v : Byte) : Statement (.nopImmE2 v) := ⟨rfl, rfl, rfl⟩
theorem isbIndX (z : Byte) : Statement (.isbIndX z) := ⟨rfl, rfl, rfl⟩
theorem cpxZp (z : Byte) : Statement (.cpxZp z) := ⟨rfl, rfl, rfl⟩
theorem sbcZp (z : Byte) : Statement (.sbcZp z) := ⟨rfl, rfl, rfl⟩
theorem incZp (z : Byte) : Statement (.incZp z) := ⟨rfl, rfl, rfl⟩
theorem isbZp (z : Byte) : Statement (.isbZp z) := ⟨rfl, rfl, rfl⟩
theorem sbcImm (v : Byte) : Statement (.sbcImm v) := ⟨rfl, rfl, rfl⟩
theorem usbcImm (v : Byte) : Statement (.usbcImm v) := ⟨rfl, rfl, rfl⟩
theorem cpxAbs (w : Word) : Statement (.cpxAbs w) := ⟨rfl, rfl, rfl⟩
theorem sbcAbs (w : Word) : Statement (.sbcAbs w) := ⟨rfl, rfl, rfl⟩
theorem incAbs (w : Word) : Statement (.incAbs w) := ⟨rfl, rfl, rfl⟩
theorem isbAbs (w : Word) : Statement (.isbAbs w) := ⟨rfl, rfl, rfl⟩
theorem beq (off : Byte) : Statement (.beq off) := ⟨rfl, rfl, rfl⟩
theorem sbcIndY (z : Byte) : Statement (.sbcIndY z) := ⟨rfl, rfl, rfl⟩
theorem isbIndY (z : Byte) : Statement (.isbIndY z) := ⟨rfl, rfl, rfl⟩
theorem nopZpXF4 (z : Byte) : Statement (.nopZpXF4 z) := ⟨rfl, rfl, rfl⟩
theorem sbcZpX (z : Byte) : Statement (.sbcZpX z) := ⟨rfl, rfl, rfl⟩
theorem incZpX (z : Byte) : Statement (.incZpX z) := ⟨rfl, rfl, rfl⟩
theorem isbZpX (z : Byte) : Statement (.isbZpX z) := ⟨rfl, rfl, rfl⟩
theorem sbcAbsY (w : Word) : Statement (.sbcAbsY w) := ⟨rfl, rfl, rfl⟩
theorem isbAbsY (w : Word) : Statement (.isbAbsY w) := ⟨rfl, rfl, rfl⟩
theorem nopAbsXFC (w : Word) : Statement (.nopAbsXFC w) := ⟨rfl, rfl, rfl⟩
theorem sbcAbsX (w : Word) : Statement (.sbcAbsX w) := ⟨rfl, rfl, rfl⟩
theorem incAbsX (w : Word) : Statement (.incAbsX w) := ⟨rfl, rfl, rfl⟩
theorem isbAbsX (w : Word) : Statement (.isbAbsX w) := ⟨rfl, rfl, rfl⟩
theorem brk : Statement .brk := ⟨rfl, rfl, rfl⟩
theorem jam02 : Statement .jam02 := ⟨rfl, rfl, rfl⟩
theorem php : Statement .php := ⟨rfl, rfl, rfl⟩
theorem aslA : Statement .aslA := ⟨rfl, rfl, rfl⟩
theorem jam12 : Statement .jam12 := ⟨rfl, rfl, rfl⟩
theorem clc : Statement .clc := ⟨rfl, rfl, rfl⟩
theorem nop1A : Statement .nop1A := ⟨rfl, rfl, rfl⟩
theorem jam22 : Statement .jam22 := ⟨rfl, rfl, rfl⟩
theorem plp : Statement .plp := ⟨rfl, rfl, rfl⟩
theorem rolA : Statement .rolA := ⟨rfl, rfl, rfl⟩
theorem jam32 : Statement .jam32 := ⟨rfl, rfl, rfl⟩
theorem sec : Statement .sec := ⟨rfl, rfl, rfl⟩
theorem nop3A : Statement .nop3A := ⟨rfl, rfl, rfl⟩
theorem rti : Statement .rti := ⟨rfl, rfl, rfl⟩
theorem jam42 : Statement .jam42 := ⟨rfl, rfl, rfl⟩
theorem pha : Statement .pha := ⟨rfl, rfl, rfl⟩
theorem lsrA : Statement .lsrA := ⟨rfl, rfl, rfl⟩
theorem jam52 : Statement .jam52 := ⟨rfl, rfl, rfl⟩
theorem cli : Statement .cli := ⟨rfl, rfl, rfl⟩
theorem nop5A : Statement .nop5A := ⟨rfl, rfl, rfl⟩
theorem rts : Statement .rts := ⟨rfl, rfl, rfl⟩
theorem jam62 : Statement .jam62 := ⟨rfl, rfl, rfl⟩
theorem pla : Statement .pla := ⟨rfl, rfl, rfl⟩
theorem rorA : Statement .rorA := ⟨rfl, rfl, rfl⟩
theorem jam72 : Statement .jam72 := ⟨rfl, rfl, rfl⟩
theorem sei : Statement .sei := ⟨rfl, rfl, rfl⟩
theorem nop7A : Statement .nop7A := ⟨rfl, rfl, rfl⟩
theorem dey : Statement .dey := ⟨rfl, rfl, rfl⟩
theorem txa : Statement .txa := ⟨rfl, rfl, rfl⟩
theorem jam92 : Statement .jam92 := ⟨rfl, rfl, rfl⟩
theorem tya : Statement .tya := ⟨rfl, rfl, rfl⟩
theorem txs : Statement .txs := ⟨rfl, rfl, rfl⟩
theorem tay : Statement .tay := ⟨rfl, rfl, rfl⟩
theorem tax : Statement .tax := ⟨rfl, rfl, rfl⟩
theorem jamB2 : Statement .jamB2 := ⟨rfl, rfl, rfl⟩
theorem clv : Statement .clv := ⟨rfl, rfl, rfl⟩
theorem tsx : Statement .tsx := ⟨rfl, rfl, rfl⟩
theorem iny : Statement .iny := ⟨rfl, rfl, rfl⟩
theorem dex : Statement .dex := ⟨rfl, rfl, rfl⟩
theorem jamD2 : Statement .jamD2 := ⟨rfl, rfl, rfl⟩
theorem cld : Statement .cld := ⟨rfl, rfl, rfl⟩
theorem nopDA : Statement .nopDA := ⟨rfl, rfl, rfl⟩
theorem inx : Statement .inx := ⟨rfl, rfl, rfl⟩
theorem nop : Statement .nop := ⟨rfl, rfl, rfl⟩
theorem jamF2 : Statement .jamF2 := ⟨rfl, rfl, rfl⟩
theorem sed : Statement .sed := ⟨rfl, rfl, rfl⟩
theorem nopFA : Statement .nopFA := ⟨rfl, rfl, rfl⟩

end Sys2Proof.Laws.Encoding
end

