-- ==== Sys2Proof/Safety.lean ====
section
/-! DEFINITION. What counts as a safe run, in the terms the statements use: no model-level fault (R503), an IRQ line that
counts every VIA that drives it (R471, R580), the registers an instruction reads (R46), and a machine whose environment leaves
it alone for the length of one instruction. -/

namespace Sys2Proof.Machine

/-- No fault of R503 has been raised. -/
def State.running (s : State) : Bool := s.stopped.isNone

/-- Every register and flag that R46 leaves unwritten has been written since power-on (R674). -/
def State.initialised (s : State) : Bool :=
  let w := s.cpu.written
  w.a && w.x && w.y && w.n && w.v && w.d && w.i && w.z && w.c

/-- No read of a register can fault (R46): UNINIT_AS_DRAW holds, or every register and flag has been written, an I that a decision
still polls in IPREV included (R476). -/
def State.readable (s : State) : Bool := s.params.uninitAsDraw || (s.initialised && (s.sq.iprevKnown || !s.sq.ichg))

/-- The registers and flags that an instruction's operation reads (R46). -/
def mnemSources (n : Mnem) : List Source :=
  match n with
  | .sta | .pha | .tax | .tay | .and | .ora | .eor | .bit | .cmp | .slo | .sre | .dcp | .anc | .alr | .lxa => [.a]
  | .stx | .txa | .txs | .cpx | .inx | .dex | .shx => [.x]
  | .sty | .tya | .cpy | .iny | .dey | .shy => [.y]
  | .adc | .sbc | .usbc | .rra | .isb | .arr => [.a, .c, .d]
  | .rol | .ror | .bcc | .bcs => [.c]
  | .rla => [.a, .c]
  | .sax | .sha | .shs | .sbx | .ane => [.a, .x]
  | .bpl | .bmi => [.n]
  | .bvc | .bvs => [.v]
  | .bne | .beq => [.z]
  | .php | .brk => statusSources
  | .lda | .ldx | .ldy | .lax | .las | .tsx | .pla | .rti | .rts | .jsr | .jmp | .jam | .nop | .asl | .lsr | .inc | .dec
  | .clc | .sec | .cli | .sei | .cld | .sed | .clv | .plp => []

/-- Every register and flag that an instruction reads (R46): the index of its mode, the accumulator of an accumulator form, and
what its operation reads. -/
def usesOf (i : Instr) : List Source :=
  indexSources i.mode ++ (if i.mode = .acc then [.a] else []) ++ mnemSources i.mnem

/-- The IRQ line counts at least the VIAs whose output is asserted (R471, R580), so that no VIA clears what was not raised. -/
def State.linesOk (s : State) : Bool := decide (bit s.via1.irqOut + bit s.via2.irqOut ≤ s.irq.irqCount)

/-- No host call is due in the current tick or the `n` after it. -/
def State.quietFor (s : State) (n : Nat) : Bool := s.agenda.all (fun d => decide (s.tick + n < d.at_))

/-- The zero page and the stack page are RAM and the vectors are stored (R33, R87): no region of the platform's memory map takes
them away. -/
def State.plainPages (s : State) : Bool :=
  s.params.regions.all (fun r =>
    (r.kind == .ram || decide (0x200 ≤ r.base)) && (r.kind != .unmapped || decide (r.base + r.size ≤ 0xFFFA)))

/-- Nothing from outside the machine interferes with the next instruction: no fault, no bus hold, no host call due in its
ticks (none is longer than eight, R690), the IRQ line in order, and memory where the instruction set fixes it (R87). -/
def State.ready (s : State) : Bool := s.running && !s.busHold && s.linesOk && s.quietFor 8 && s.plainPages

/-- The machine is ready for an instruction, and may use every register that the instruction reads (R46). -/
def State.readyFor (s : State) (i : Instr) : Bool := s.ready && s.mayUse (usesOf i)

/-- No host call on the agenda clears an interrupt line (R503: only those calls and a VIA's can fault). -/
def State.noClears (s : State) : Bool := s.agenda.all (fun d => d.call != .clearIRQ && d.call != .clearNMI)

/-- A value that V can have during an instruction that starts in `s`: V as it was, or 1 set by the drive. -/
def VSeen (s : State) (v : Bool) : Prop := v = s.cpu.p.v ∨ (v = true ∧ s.params.platform = .drive)

/-- A state from which a program can rely on every register it reads (R674). -/
def State.safe (s : State) : Bool := s.running && s.linesOk && s.initialised

/-! ### The programmer's view -/

/-- The registers and flags of R30 to R35, without PC's neighbours the latches and without V, which the drive can set at any
tick (R45, R651). -/
structure Regs where
  a : Byte
  x : Byte
  y : Byte
  s : Byte
  pc : Word
  n : Bool
  u : Bool
  b : Bool
  d : Bool
  i : Bool
  z : Bool
  c : Bool
  deriving DecidableEq, Repr

/-- The programmer's view of a state. -/
def State.regs (s : State) : Regs :=
  ⟨s.cpu.a, s.cpu.x, s.cpu.y, s.cpu.s, s.cpu.pc, s.cpu.p.n, s.cpu.p.u, s.cpu.p.b, s.cpu.p.d, s.cpu.p.i, s.cpu.p.z,
    s.cpu.p.c⟩

/-- V is as it was, or the drive has set it (R45, R651). -/
def VKept (s t : State) : Prop :=
  t.cpu.p.v = s.cpu.p.v ∨ (t.cpu.p.v = true ∧ s.params.platform = .drive)

/-- The first operand byte of an instruction (R112). -/
def operand1 (i : Instr) : Byte := (encode i).getD 1 0

/-- The second operand byte of an instruction (R112). -/
def operand2 (i : Instr) : Byte := (encode i).getD 2 0

/-- The address of an instruction's operand in memory (R113), in the state before the instruction. -/
def State.operandAddr (s : State) (i : Instr) : Word := s.effectiveAddress i.mode (operand1 i) (operand2 i)

/-- The address of the instruction after `i` when it lies at PC (R111). -/
def State.nextPC (s : State) (i : Instr) : Word := s.cpu.pc + BitVec.ofNat 16 i.length

/-- The base that an indexed mode adds its index to (R170, R176). -/
def State.indexBase (s : State) (m : Mode) (b1 b2 : Byte) : Word :=
  match m with
  | .izy => s.zpPointer b1
  | _ => joinBytes b2 b1

/-- The unindexed base of an instruction's operand. -/
def State.operandBase (s : State) (i : Instr) : Word := s.indexBase i.mode (operand1 i) (operand2 i)

/-- The indexed base address of an instruction's operand and its index cross a page (R113, R170, R176). -/
def State.pageCross (s : State) (i : Instr) : Bool := canCross i.mode && crosses (s.operandBase i) (s.index i.mode)

/-- The byte that SHA, SHS, SHX and SHY store when their dummy read was not stalled (R431). -/
def State.shStored (s : State) (i : Instr) (src : Byte) : Byte := src &&& (hi (s.operandBase i) + 1)

/-- The address that SHA, SHS, SHX and SHY store the byte `v` to (R431). -/
def State.shTarget (s : State) (i : Instr) (v : Byte) : Word :=
  if s.pageCross i then joinBytes v (lo (s.operandAddr i)) else s.operandAddr i

/-- The cycle count of an instruction that is not a branch (R690): one more when a read class instruction crosses a page. -/
def State.ticksOf (s : State) (i : Instr) : Nat :=
  i.row.cycles + (if i.row.cls = .read ∧ s.pageCross i = true then 1 else 0)

/-- The stack byte at a value of S (R33). -/
def stackAt (v : Byte) : Word := 0x0100 ||| zext16 v

/-- Memory after a list of bus writes: only RAM stores a byte (R80). -/
def State.afterWrites (s : State) (l : List (Word × Byte)) : List Host.Cell :=
  l.foldl (fun m w => if s.isRam w.1 then Memory.write m w.1.toNat w.2 else m) s.mem

/-- `t` is the state at the terminal that ends a sequence which took `ticks` ticks without a stall, one bus access in each
(R81, R155), and left the model's arguments, the host's agenda and the bus hold alone. -/
structure Completed (s t : State) (ticks : Nat) : Prop where
  boundary : t.sq.seq = .boundary
  tick : t.tick = s.tick + ticks
  half : t.half = .phi1
  running : t.stopped = none
  lines : t.linesOk = true
  hold : t.busHold = false
  params : t.params = s.params
  agenda : t.agenda = s.agenda
  bus : t.bus.length = ticks

/-- The NMI and reset requests are as they were (R42). -/
structure RequestsKept (s t : State) : Prop where
  nmiCount : t.irq.nmiCount = s.irq.nmiCount
  nmiPending : t.irq.nmiPending = s.irq.nmiPending
  rstPending : t.irq.rstPending = s.irq.rstPending

/-- `exec i s` answers a next state, the one at the terminal that ends the instruction `ticks` ticks later, and `P` holds of
it. -/
def Runs (i : Instr) (s : State) (ticks : Nat) (P : State → Prop) : Prop :=
  ∃ t, exec i s = .next t ∧ Completed s t ticks ∧ RequestsKept s t ∧ P t

/-- The operand byte `v` that an instruction of read class works on (R156): the operand itself, or the byte of its last bus
access, which is the stored one in plain storage (R80). -/
def OperandRead (s : State) (i : Instr) (t : State) (v : Byte) : Prop :=
  if i.mode = .imm then v = operand1 i
  else [.read (s.operandAddr i) v] <:+ t.bus ∧ (s.isStored (s.operandAddr i) = true → v = s.peek (s.operandAddr i))

/-- The byte `v` that a read-modify-write instruction reads, the dummy write of it and the write of `r` (R163 to R178), and
what they leave in memory. -/
def OperandModified (s : State) (i : Instr) (t : State) (v r : Byte) : Prop :=
  [.read (s.operandAddr i) v, .write (s.operandAddr i) v, .write (s.operandAddr i) r] <:+ t.bus ∧
  (s.isStored (s.operandAddr i) = true → v = s.peek (s.operandAddr i)) ∧
  t.mem = s.afterWrites [(s.operandAddr i, v), (s.operandAddr i, r)]

/-! ### What the statements about instructions say -/

/-- N and Z from a byte (R220). -/
def Regs.withNZ (r : Regs) (v : Byte) : Regs := { r with n := v.msb, z := v == 0 }

/-- An instruction of read class worked on the operand byte `v` and left the registers `r` and memory as it was. -/
def ReadResult (s : State) (i : Instr) (t : State) (v : Byte) (r : Regs) : Prop :=
  OperandRead s i t v ∧ t.regs = { r with pc := s.nextPC i } ∧ t.mem = s.mem

/-- A read-modify-write instruction read `v`, wrote `v` and then `w`, and left the registers `r`. -/
def ModifyResult (s : State) (i : Instr) (t : State) (v w : Byte) (r : Regs) : Prop :=
  OperandModified s i t v w ∧ t.regs = { r with pc := s.nextPC i }

/-- V is the value `b`, or the drive has set it since (R45, R651). -/
def VIs (s t : State) (b : Bool) : Prop := t.cpu.p.v = b ∨ (t.cpu.p.v = true ∧ s.params.platform = .drive)

/-- The registers that LDA, LDX, LDY and LAX load (R221 to R223, R418). -/
def loaded (m : Mnem) (r : Regs) (v : Byte) : Regs :=
  match m with
  | .lda => { r with a := v }
  | .ldx => { r with x := v }
  | .ldy => { r with y := v }
  | _ => { r with a := v, x := v }

/-- The byte that STA, STX, STY and SAX store (R224 to R226, R417). -/
def storedByte (m : Mnem) (r : Regs) : Byte :=
  match m with
  | .sta => r.a
  | .stx => r.x
  | .sty => r.y
  | _ => r.a &&& r.x

/-- The registers after a transfer (R227 to R232): TXS alone leaves N and Z. -/
def transferred (m : Mnem) (r : Regs) : Regs :=
  match m with
  | .tax => { r with x := r.a }.withNZ r.a
  | .tay => { r with y := r.a }.withNZ r.a
  | .txa => { r with a := r.x }.withNZ r.x
  | .tya => { r with a := r.y }.withNZ r.y
  | .tsx => { r with x := r.s }.withNZ r.s
  | _ => { r with s := r.x }

/-- The accumulator after AND, ORA and EOR (R266 to R268). -/
def logicResult (m : Mnem) (a v : Byte) : Byte :=
  match m with
  | .and => a &&& v
  | .ora => a ||| v
  | _ => a ^^^ v

/-- The register that CMP, CPX and CPY compare (R270 to R272). -/
def comparedRegister (m : Mnem) (r : Regs) : Byte :=
  match m with
  | .cmp => r.a
  | .cpx => r.x
  | _ => r.y

/-- The result and the carry of a shift or a rotate by one bit, on numbers (R300). -/
def shifted (m : Mnem) (v : Byte) (c : Bool) : Byte × Bool :=
  match m with
  | .asl | .slo => (BitVec.ofNat 8 (2 * v.toNat), decide (128 ≤ v.toNat))
  | .rol | .rla => (BitVec.ofNat 8 (2 * v.toNat + bit c), decide (128 ≤ v.toNat))
  | .lsr | .sre => (BitVec.ofNat 8 (v.toNat / 2), decide (v.toNat % 2 = 1))
  | _ => (BitVec.ofNat 8 (v.toNat / 2 + 128 * bit c), decide (v.toNat % 2 = 1))

/-- Both nibbles of a byte are decimal digits (R274). -/
def validBcd (v : Byte) : Bool := decide (v.toNat / 16 ≤ 9) && decide (v.toNat % 16 ≤ 9)

/-- The number that two decimal digits stand for (R274). -/
def decimal (v : Byte) : Nat := 10 * (v.toNat / 16) + v.toNat % 16

/-- The registers after INX, INY, DEX and DEY (R307 to R310). -/
def stepped (m : Mnem) (r : Regs) : Regs :=
  match m with
  | .inx => { r with x := r.x + 1 }.withNZ (r.x + 1)
  | .iny => { r with y := r.y + 1 }.withNZ (r.y + 1)
  | .dex => { r with x := r.x - 1 }.withNZ (r.x - 1)
  | _ => { r with y := r.y - 1 }.withNZ (r.y - 1)

/-- The condition of a branch (R341 to R348), V being `v`. -/
def branchTaken (m : Mnem) (r : Regs) (v : Bool) : Bool :=
  match m with
  | .bpl => !r.n
  | .bmi => r.n
  | .bvc => !v
  | .bvs => v
  | .bcc => !r.c
  | .bcs => r.c
  | .bne => !r.z
  | _ => r.z

/-- The target of a taken branch (R340): the address after it plus the signed offset. -/
def State.branchTarget (s : State) (i : Instr) : Word := s.cpu.pc + 2 + sext16 (operand1 i)

/-- The ticks of a branch (R340): 2 not taken, 3 taken to the same page, 4 to another. -/
def State.branchTicks (s : State) (i : Instr) (taken : Bool) : Nat :=
  if taken then (if hi (s.branchTarget i) = hi (s.cpu.pc + 2) then 3 else 4) else 2

/-- The registers after a flag instruction (R384 to R389) or a NOP. -/
def flagResult (m : Mnem) (r : Regs) : Regs :=
  match m with
  | .clc => { r with c := false }
  | .sec => { r with c := true }
  | .cli => { r with i := false }
  | .sei => { r with i := true }
  | .cld => { r with d := false }
  | .sed => { r with d := true }
  | _ => r

/-- The registers after a status byte is unpacked (R38), V apart. -/
def Regs.unpacked (r : Regs) (v : Byte) : Regs :=
  { r with
    n := v.getLsbD 7, u := v.getLsbD 5, b := v.getLsbD 4, d := v.getLsbD 3, i := v.getLsbD 2, z := v.getLsbD 1
    c := v.getLsbD 0 }

/-- The status byte that is pushed (R37) when V is `v`. -/
def Regs.packed (r : Regs) (v b : Bool) : Byte :=
  BitVec.ofNat 8 (128 * bit r.n + 64 * bit v + 32 + 16 * bit b + 8 * bit r.d + 4 * bit r.i + 2 * bit r.z + bit r.c)

/-- The source of the byte that SHA, SHS, SHX and SHY store (R426 to R429). -/
def shSource (m : Mnem) (r : Regs) : Byte :=
  match m with
  | .shx => r.x
  | .shy => r.y
  | _ => r.a &&& r.x

/-- The 16-bit value at an address and the next. -/
def State.peekWord (s : State) (a : Word) : Word := joinBytes (s.peek (a + 1)) (s.peek a)

/-- The vector that an IRQ or BRK sequence takes (R485). -/
def State.takenVector (s : State) : Word := if s.params.vectorHijack && s.irq.nmiPending then 0xFFFA else 0xFFFE

/-- The three bytes that an IRQ, NMI or BRK sequence pushes: the address `pc` and the status byte `p` (R484). -/
def State.pushed (s : State) (pc : Word) (p : Byte) : List (Word × Byte) :=
  [(stackAt s.cpu.s, hi pc), (stackAt (s.cpu.s - 1), lo pc), (stackAt (s.cpu.s - 2), p)]

/-- What the terminal of the current tick decides (R152, R477), after PHI1 of the tick. -/
def State.decided (s : State) : Option Entry := s.clearLogs.phi1.decision

/-- The terminal of the current tick reads no unwritten I (R46, R476), after PHI1 of the tick. -/
def State.pollable (s : State) : Bool := !s.clearLogs.phi1.pollFaults

/-! ### What an instruction may change -/

/-- The instructions that write A. -/
def writesA (i : Instr) : Bool :=
  i.mode == .acc || [Mnem.lda, .lax, .txa, .tya, .pla, .adc, .sbc, .usbc, .and, .ora, .eor, .slo, .rla, .sre, .rra, .isb,
    .las, .anc, .alr, .arr, .lxa, .ane].contains i.mnem

/-- The instructions that write X. -/
def writesX (i : Instr) : Bool := [Mnem.ldx, .lax, .tax, .tsx, .inx, .dex, .las, .lxa, .sbx].contains i.mnem

/-- The instructions that write Y. -/
def writesY (i : Instr) : Bool := [Mnem.ldy, .tay, .iny, .dey].contains i.mnem

/-- The instructions that write S (R33). -/
def writesS (i : Instr) : Bool :=
  [Mnem.txs, .las, .shs, .pha, .php, .pla, .plp, .jsr, .rts, .rti, .brk].contains i.mnem

/-- The instructions that write N and Z. -/
def writesNZ (i : Instr) : Bool :=
  [Mnem.lda, .ldx, .ldy, .lax, .tax, .tay, .txa, .tya, .tsx, .pla, .plp, .rti, .adc, .sbc, .usbc, .and, .ora, .eor, .bit,
    .cmp, .cpx, .cpy, .asl, .lsr, .rol, .ror, .inc, .dec, .inx, .iny, .dex, .dey, .slo, .rla, .sre, .rra, .dcp, .isb, .las,
    .anc, .alr, .arr, .lxa, .ane, .sbx].contains i.mnem

/-- The instructions that write C. -/
def writesC (i : Instr) : Bool :=
  [Mnem.adc, .sbc, .usbc, .cmp, .cpx, .cpy, .asl, .lsr, .rol, .ror, .clc, .sec, .plp, .rti, .slo, .rla, .sre, .rra, .dcp,
    .isb, .anc, .alr, .arr, .sbx].contains i.mnem

/-- The instructions that write V (R45). -/
def writesV (i : Instr) : Bool :=
  [Mnem.adc, .sbc, .usbc, .bit, .clv, .plp, .rti, .rra, .isb, .arr].contains i.mnem

/-- The instructions that write D. -/
def writesD (i : Instr) : Bool := [Mnem.cld, .sed, .plp, .rti].contains i.mnem

/-- The instructions that write I. -/
def writesI (i : Instr) : Bool := [Mnem.cli, .sei, .plp, .rti, .brk].contains i.mnem

/-- The addresses that an instruction stores to, in the state before it. -/
def State.storeAddrs (s : State) (i : Instr) : List Word :=
  match i.mnem with
  | .sta | .stx | .sty | .sax => [s.operandAddr i]
  | .sha | .shs | .shx | .shy => [s.shTarget i (s.shStored i (shSource i.mnem s.regs))]
  | .pha | .php => [stackAt s.cpu.s]
  | .jsr => [stackAt s.cpu.s, stackAt (s.cpu.s - 1)]
  | .brk => [stackAt s.cpu.s, stackAt (s.cpu.s - 1), stackAt (s.cpu.s - 2)]
  | _ => if i.row.cls = .rmw then [s.operandAddr i] else []

/-! ### Invariants -/

/-- Each VIA's interrupt output follows its flags and enables (R580). -/
def State.irqOutputs (s : State) : Prop := s.via1.irqOut = s.via1.wantsIrq ∧ s.via2.irqOut = s.via2.wantsIrq

/-- The rotation engine's zone and motor and the stepper's phase are what VIA2's port B drives (R597, R641, R642). -/
def State.portBWired (s : State) : Prop :=
  s.rot.zone = s.via2.outB.extractLsb' 5 2 ∧ s.rot.motor = s.via2.outB.getLsbD 2 ∧
    s.mech.phase = s.via2.outB.extractLsb' 0 2

/-- The counters of the rotation engine stay in their ranges (R640). -/
def State.rotationBounds (s : State) : Prop :=
  s.rot.bitCounter < 8 ∧ s.rot.zc < 4 ∧ s.rot.zeroRun ≤ 8 ∧ s.rot.acc < 16

/-- The head is on a half-track of the buffer (R599, R620). -/
def State.headInBuffer (s : State) : Prop := s.mech.halfTrack < s.params.maxHalftracks

/-- Every track fits the buffer's dimensions (R620). -/
def State.tracksFit (s : State) : Prop := s.disk.tracks.all s.params.trackFits = true

/-- The bit offset lies on the track under the head (R621, R622). -/
def State.bitPosOnTrack (s : State) : Prop := s.disk.bitPos = 0 ∨ s.disk.bitPos < s.trackSizeBits

end Sys2Proof.Machine
end

