-- ==== Sys2Proof/Certificates/Slice0/Obligations.lean ====
section
/-! DEFINITION. The statements for the provers, from the numbered rules of the spec. OBLIGATIONS.json lists them. -/

open Sys2Proof Sys2Proof.Machine

/-! ### Encoding and fetching -/

/-- R112, R114: decoding the bytes of any instruction, whatever follows them, gives the instruction and what follows. -/
def Obligations.DecodeEncodeRoundTrip : Prop :=
  ∀ (i : Instr) (rest : List Byte), decode (encode i ++ rest) = .ok (i, rest)

/-- R110, R112, R114: bytes that decode are the bytes of the instruction they decode to; and every byte is an opcode: three
bytes always decode, to the well-formed instruction with that opcode. -/
def Obligations.DecodedBytesAreTheEncoding : Prop :=
  (∀ (bytes rest : List Byte) (i : Instr), decode bytes = .ok (i, rest) → bytes = encode i ++ rest) ∧
  ∀ (b0 b1 b2 : Byte), ∃ i rest, decode [b0, b1, b2] = .ok (i, rest) ∧ i.opcode = b0 ∧ i.wellFormed = true

/-- R112, R114: words of the opcode table, one or more for each family. -/
def Obligations.WordsOfTheTable : Prop :=
  decode [0xA9, 0x05] = .ok (.ldaImm 0x05, []) ∧ decode [0x91, 0x20] = .ok (.staIndY 0x20, []) ∧
  decode [0x9A] = .ok (.txs, []) ∧ decode [0x6D, 0x34, 0x12] = .ok (.adcAbs 0x1234, []) ∧
  decode [0xE1, 0x40] = .ok (.sbcIndX 0x40, []) ∧ decode [0x24, 0x80] = .ok (.bitZp 0x80, []) ∧
  decode [0x2A] = .ok (.rolA, []) ∧ decode [0xFE, 0x00, 0x20] = .ok (.incAbsX 0x2000, []) ∧
  decode [0xD0, 0xFE] = .ok (.bne 0xFE, []) ∧ decode [0x6C, 0xFF, 0x30] = .ok (.jmpInd 0x30FF, []) ∧
  decode [0x20, 0x00, 0x80] = .ok (.jsr 0x8000, []) ∧ decode [0x40] = .ok (.rti, []) ∧
  decode [0x28] = .ok (.plp, []) ∧ decode [0x78] = .ok (.sei, []) ∧
  decode [0x9F, 0x00, 0x40] = .ok (.shaAbsY 0x4000, []) ∧ decode [0xCB, 0x11] = .ok (.sbxImm 0x11, []) ∧
  decode [0x02] = .ok (.jam02, [])

/-- R151, R152: a step from a terminal that decides to fetch is `exec` of the instruction whose bytes lie at PC. The code
is plain storage; the terminal reads no unwritten I (R46, R476); JSR's third byte is fetched after its pushes (R351), so
it is not one of the pushed bytes. -/
def Obligations.StepRunsTheDecodedInstruction : Prop :=
  ∀ (s : State) (i : Instr) (rest : List Byte), s.ready = true → s.sq.seq = .boundary → s.decided = none →
    s.pollable = true → s.plainCode s.cpu.pc = true →
    decode [s.peek s.cpu.pc, s.peek (s.cpu.pc + 1), s.peek (s.cpu.pc + 2)] = .ok (i, rest) →
    (i.mnem = .jsr → s.cpu.pc + 2 ≠ stackAt s.cpu.s ∧ s.cpu.pc + 2 ≠ stackAt (s.cpu.s - 1)) →
    step s = exec i s

/-! ### Reset, and what every step keeps -/

/-- R46, R473, R585, R601, R640, R670: what the spec states of power-on; and R486: the first step from it, whatever memory
holds, is the reset sequence of ticks 0 to 6. -/
def Obligations.PowerOn : Prop :=
  (State.reset.sq.seq = .boundary ∧ State.reset.sq.ichg = false ∧ State.reset.busHold = false ∧
    State.reset.irq.irqCount = 0 ∧ State.reset.irq.nmiCount = 0 ∧ State.reset.irq.nmiPending = false ∧
    State.reset.irq.rstPending = true ∧ State.reset.irq.rstLat = .two ∧ State.reset.disk.attached = false ∧
    (∀ k, (State.reset.via k).resetFields = State.reset.via k ∧ (State.reset.via k).irqOut = false) ∧
    State.reset.rot.acc = 0 ∧ State.reset.rot.bitCounter = 0 ∧ State.reset.rot.history = 0 ∧
    State.reset.rot.writeShift = 0 ∧ State.reset.rot.zone = 3 ∧ State.reset.rot.motor = true ∧
    State.reset.rot.writing = false ∧ State.reset.rot.zeroRun = 0 ∧ State.reset.rot.zc = 0 ∧
    State.reset.rot.readLatch = 0 ∧ State.reset.rot.staleFirst = false ∧ State.reset.rot.ca1Low = false) ∧
  ∀ m : List Host.Cell, ∃ t, step { State.reset with mem := m } = .next t ∧ t.tick = 7 ∧ t.sq.seq = .boundary ∧
    t.cpu.pc = joinBytes (Memory.read m 0xFFFD) (Memory.read m 0xFFFC) ∧ t.cpu.p.i = true ∧
    t.cpu.s = State.reset.cpu.s - 3 ∧ t.mem = m ∧ t.irq.rstPending = false

/-- The invariants below hold at power-on. `readable` holds through UNINIT_AS_DRAW, which State.reset takes true: the model's
choice (log 23); the head, the buffer's size and its empty tracks are the model's choice too (logs 6, 7, 35). -/
def Obligations.InvariantsHoldAtReset : Prop :=
  Memory.wf State.reset.mem = true ∧ State.reset.running = true ∧ State.reset.linesOk = true ∧
  State.reset.noClears = true ∧ State.reset.readable = true ∧ State.reset.irqOutputs ∧ State.reset.portBWired ∧
  State.reset.rotationBounds ∧ State.reset.headInBuffer ∧ State.reset.tracksFit ∧ State.reset.bitPosOnTrack

/-- R80, R81: every step keeps memory in its canonical form. -/
def Obligations.StepKeepsMemoryForm : Prop :=
  ∀ s t : State, step s = .next t → Memory.wf s.mem = true → Memory.wf t.mem = true

/-- R46, R471, R503, R580: a machine whose IRQ line is in order, whose host clears no line and which may read every register
never stops, and stays so. The last premise excludes the fault UNINIT_REG: it holds when every register has been written, and
at State.reset only because State.reset takes UNINIT_AS_DRAW true, against R9's default: the model's choice (log 23). -/
def Obligations.StepNeverFaults : Prop :=
  ∀ s : State, s.running = true → s.linesOk = true → s.noClears = true → s.readable = true →
    ∃ t, step s = .next t ∧ t.running = true ∧ t.linesOk = true ∧ t.noClears = true ∧ t.readable = true

/-- R580: every step keeps each VIA's interrupt output equal to what its flags and enables ask for. -/
def Obligations.StepKeepsIrqOutputs : Prop :=
  ∀ s t : State, step s = .next t → s.irqOutputs → t.irqOutputs

/-- R597, R601, R641, R642: every step keeps zone, motor and stepper phase wired to VIA2's port B. -/
def Obligations.StepKeepsPortBWiring : Prop :=
  ∀ s t : State, step s = .next t → s.portBWired → t.portBWired

/-- R599, R620 to R622, R640: every step keeps the rotation engine's counters in range, every track within the buffer's
dimensions, the head on a half-track of the buffer and the bit offset on its track. -/
def Obligations.StepKeepsHeadAndCounters : Prop :=
  ∀ s t : State, step s = .next t → s.rotationBounds → s.headInBuffer → s.tracksFit → s.bitPosOnTrack →
    t.rotationBounds ∧ t.headInBuffer ∧ t.tracksFit ∧ t.bitPosOnTrack

/-- R9, R17, R46: no step changes the model's arguments, turns time back or forgets that a register or flag was written. -/
def Obligations.StepKeepsParamsAndTime : Prop :=
  ∀ s t : State, step s = .next t → t.params = s.params ∧ s.tick ≤ t.tick ∧
    ∀ r : Source, s.cpu.written.has r = true → t.cpu.written.has r = true

/-- R15, R150: a step is a run of half-ticks of the live scheduler, at most twenty. That a step is a whole instruction, and
that `exec` is fed the instruction's bytes, is the model's choice (logs 9 and 10). -/
def Obligations.StepIsARunOfHalfTicks : Prop :=
  ∀ s t : State, step s = .next t → ∃ n, 0 < n ∧ n ≤ 20 ∧ State.halfTicks n s.clearLogs = t

/-! ### Bus hold, interrupts and reset -/

/-- R153, R475: under bus hold a micro-op that is not a write stalls for one tick: no bus access; no register and no latch
changes but SHSTALL (R434, log 15), which the dummy read of SHA, SHS, SHX and SHY sets; each latency counter makes the one
permitted step, the IRQ's from 0 when a VIA asserts the line in that tick. A write goes through: it is the first bus access of
the step, at the address and with the value of the micro-op. -/
def Obligations.BusHold : Prop :=
  ∀ s : State, s.running = true → s.linesOk = true → s.quietFor 0 = true → s.busHold = true →
    ((s.currentSequence.micro s).stealImmune = false →
      ∃ t, step s = .next t ∧ t.regs = s.regs ∧ VKept s t ∧ t.mem = s.mem ∧ t.bus = [] ∧ t.tick = s.tick + 1 ∧
        t.half = .phi1 ∧ t.busHold = true ∧
        t.sq = (if s.sq.seq = .op ∧ s.sq.ir ∈ [(0x93 : Byte), 0x9B, 0x9C, 0x9E, 0x9F] ∧ s.params.shRdyQuirk = true ∧
            s.sq.cyc = (if s.sq.ir = 0x93 then 5 else 4)
          then { s.sq with shstall := true } else s.sq) ∧
        t.irq.nmiLat = s.irq.nmiLat.stalled ∧ t.irq.rstLat = s.irq.rstLat.stalled ∧
        t.irq.nmiPending = s.irq.nmiPending ∧ t.irq.rstPending = s.irq.rstPending ∧
        (s.irqOutputs → t.irq.irqLat =
          if s.irq.irqCount = 0 ∧ t.irq.irqCount ≠ 0 then .one else s.irq.irqLat.stalled)) ∧
    (s.noClears = true → s.readable = true →
      let u := s.clearLogs.phi1
      ∀ pre addr value post, u.currentSequence.micro u = .write pre addr value post →
        ∃ t rest, step s = .next t ∧ t.bus = .write (addr (pre u)) (value (pre u)) :: rest)

/-- R476, R477: the decision at a terminal, in its priority order, and when an IRQ is eligible; R471 to R475: what the five
calls do to the interrupt lines, and how a latency counter moves; R503: a fault once raised stays, and no agent steps after
it. -/
def Obligations.InterruptLines : Prop :=
  ∀ s : State,
    (s.irq.rstPending = true ∧ s.irq.rstLat = .two → s.decision = some .rst) ∧
    (¬(s.irq.rstPending = true ∧ s.irq.rstLat = .two) → s.irq.nmiPending = true ∧ s.irq.nmiLat = .two →
      s.decision = some .nmi) ∧
    (¬(s.irq.rstPending = true ∧ s.irq.rstLat = .two) → ¬(s.irq.nmiPending = true ∧ s.irq.nmiLat = .two) →
      s.decision =
        if 0 < s.irq.irqCount ∧
            (if s.params.iFlagDelay = true ∧ s.sq.ichg = true then s.sq.iprev else s.cpu.p.i) = false ∧
            s.irq.irqLat = .two
        then some .irq else none) ∧
    (s.accept .rst).irq.rstPending = false ∧ (s.accept .nmi).irq.nmiPending = false ∧
    (s.accept .nmi).sq.vec = 0xFFFA ∧ (s.accept .irq).sq.vec = 0xFFFE ∧
    (s.triggerIRQ.irq.irqCount = s.irq.irqCount + 1 ∧
      s.triggerIRQ.irq.irqLat = if s.irq.irqCount = 0 then .zero else s.irq.irqLat) ∧
    (s.irq.irqCount = 0 → s.clearIRQ = { s with stopped := s.stopped.or (some .clearNeverRaised) }) ∧
    (s.irq.irqCount ≠ 0 → s.clearIRQ = { s with irq := { s.irq with irqCount := s.irq.irqCount - 1 } }) ∧
    (s.irqLine = true ↔ 0 < s.irq.irqCount) ∧
    s.triggerNMI.irq.nmiCount = s.irq.nmiCount + 1 ∧
    (s.irq.nmiCount = 0 → s.triggerNMI.irq.nmiPending = true) ∧
    (s.irq.nmiCount = 0 → s.irq.nmiPending = false → s.triggerNMI.irq.nmiLat = .zero) ∧
    (s.irq.nmiCount ≠ 0 ∨ s.irq.nmiPending = true →
      s.triggerNMI.irq.nmiPending = s.irq.nmiPending ∧ s.triggerNMI.irq.nmiLat = s.irq.nmiLat) ∧
    (s.irq.nmiCount = 0 → s.clearNMI = { s with stopped := s.stopped.or (some .clearNeverRaised) }) ∧
    (s.irq.nmiCount ≠ 0 → s.clearNMI = { s with irq := { s.irq with nmiCount := s.irq.nmiCount - 1 } }) ∧
    s.triggerRST = { s with irq := { s.irq with rstPending := true, rstLat := .zero } } ∧
    (∀ f, s.stopped = some f → s.halfTick = s ∧ step s = .fault f) ∧
    (∀ n, Lat.executed^[1] .zero = .one ∧ Lat.executed^[n + 2] .zero = .two ∧ Lat.stalled^[n + 1] .zero = .one ∧
      Lat.stalled^[n] .two = .two)

/-- R484, R485: an IRQ entry takes 7 ticks, pushes PC and the status with b = 0, sets I and goes through the vector that R485
selects: a pending NMI takes it over. Its push of the status reads every flag, the decision the
polled I (R46, R476; logs 23, 37). -/
def Obligations.TakesIrq : Prop :=
  ∀ s : State, s.ready = true → s.sq.seq = .boundary → s.decided = some .irq →
    s.mayUse statusSources = true → s.pollable = true → ∃ t v d1 d2, VSeen s v ∧ step s = .next t ∧ Completed s t 7 ∧
      t.regs = { s.regs with i := true, s := s.cpu.s - 3, pc := s.peekWord s.takenVector } ∧ VKept s t ∧
      t.mem = s.afterWrites (s.pushed s.cpu.pc (s.regs.packed v false)) ∧
      t.bus = [.read s.cpu.pc d1, .read s.cpu.pc d2] ++
        (s.pushed s.cpu.pc (s.regs.packed v false)).map (fun w => BusAccess.write w.1 w.2) ++
        [.read s.takenVector (s.peek s.takenVector), .read (s.takenVector + 1) (s.peek (s.takenVector + 1))] ∧
      t.irq.nmiPending = (s.irq.nmiPending && !s.params.vectorHijack) ∧ t.irq.rstPending = s.irq.rstPending

/-- R484, R485: an NMI entry is the same through $FFFA, and consumes the request. It reads every flag too (R46, log 23). -/
def Obligations.TakesNmi : Prop :=
  ∀ s : State, s.ready = true → s.sq.seq = .boundary → s.decided = some .nmi →
    s.mayUse statusSources = true → ∃ t v d1 d2, VSeen s v ∧ step s = .next t ∧ Completed s t 7 ∧
      t.regs = { s.regs with i := true, s := s.cpu.s - 3, pc := s.peekWord 0xFFFA } ∧ VKept s t ∧
      t.mem = s.afterWrites (s.pushed s.cpu.pc (s.regs.packed v false)) ∧
      t.bus = [.read s.cpu.pc d1, .read s.cpu.pc d2] ++
        (s.pushed s.cpu.pc (s.regs.packed v false)).map (fun w => BusAccess.write w.1 w.2) ++
        [.read 0xFFFA (s.peek 0xFFFA), .read 0xFFFB (s.peek 0xFFFB)] ∧
      t.irq.nmiPending = false ∧ t.irq.rstPending = s.irq.rstPending

/-- R486, R672: a reset entry takes 7 ticks and writes nothing: S goes down by 3, I is set, PC comes from $FFFC. -/
def Obligations.TakesReset : Prop :=
  ∀ s : State, s.ready = true → s.sq.seq = .boundary → s.decided = some .rst →
    ∃ t d1 d2, step s = .next t ∧ Completed s t 7 ∧
      t.regs = { s.regs with i := true, s := s.cpu.s - 3, pc := s.peekWord 0xFFFC } ∧ VKept s t ∧ t.mem = s.mem ∧
      t.bus = [.read s.cpu.pc d1, .read s.cpu.pc d2] ++
        [stackAt s.cpu.s, stackAt (s.cpu.s - 1), stackAt (s.cpu.s - 2), 0xFFFC, 0xFFFD].map
          (fun a => BusAccess.read a (s.peek a)) ∧
      t.irq.rstPending = false ∧ t.irq.nmiPending = s.irq.nmiPending ∧ t.irq.nmiCount = s.irq.nmiCount ∧
      t.sq.brkb = false

/-- R484, R487: RTI as the first instruction of an IRQ handler restores every register, the stored U and B bits apart, which
take what the pushed byte has there. Memory is in its canonical form. -/
def Obligations.InterruptReturnRestores : Prop :=
  ∀ s t u : State, Memory.wf s.mem = true → s.ready = true → s.quietFor 15 = true → s.sq.seq = .boundary →
    s.decided = some .irq →
    step s = .next t → exec .rti t = .next u →
    u.regs = { s.regs with u := true, b := false } ∧ VKept s u

/-- R46, R476, R503: with UNINIT_AS_DRAW false, an instruction that reads a register or a flag which nothing has written
stops with UNINIT_REG, and so does a terminal that polls an unwritten I while an IRQ source is active, and an IRQ or NMI
entry, whose push of the status reads every flag. That CLI, SEI and PLP do not stop but copy an unwritten I into IPREV,
where the poll stops on it, is the model's choice (DEDUCED, log 37). On the drive V can be written meanwhile (R45, R651),
so V counts on the bare core only. -/
def Obligations.UnwrittenRegisters : Prop :=
  (∀ (i : Instr) (s : State), s.ready = true →
    (∃ r ∈ usesOf i, s.mayUse [r] = false ∧ (r = .v → s.params.platform = .core)) →
    exec i s = .fault .uninitReg) ∧
  ∀ s : State, s.ready = true → s.sq.seq = .boundary →
    (let u := s.clearLogs.phi1
     ¬(u.irq.rstPending = true ∧ u.irq.rstLat = .two) → ¬(u.irq.nmiPending = true ∧ u.irq.nmiLat = .two) →
      0 < u.irq.irqCount → u.params.uninitAsDraw = false →
      (if u.params.iFlagDelay = true ∧ u.sq.ichg = true then u.sq.iprevKnown else u.cpu.written.i) = false →
      step s = .fault .uninitReg) ∧
    (∀ k ∈ [Entry.nmi, .irq], s.decided = some k →
      (∃ r ∈ statusSources, s.mayUse [r] = false ∧ (r = .v → s.params.platform = .core)) →
      step s = .fault .uninitReg)

/-- R158: a forced jump abandons the sequence and sets PC. One that comes at PHI1 of the tick after an instruction's fetch
ends it there: what the fetch did stays, nothing else has changed, and a terminal micro-op at the new PC is due in that
tick. One that comes at PHI1 of a step's first tick, whatever sequence was under way: the step runs the instruction at the
new PC. -/
def Obligations.ForcedJump : Prop :=
  (∀ (s : State) (a : Word),
    s.apply (.forcedJump a) = { s with cpu := { s.cpu with pc := a }, sq := { s.sq with seq := .boundary } }) ∧
  (∀ (i : Instr) (s : State) (m : Moment) (a : Word), s.running = true → s.linesOk = true → s.busHold = false →
    m ≠ .afterCpu → s.agenda = [⟨s.tick + 1, m, .forcedJump a⟩] →
    ∃ t d, exec i s = .next t ∧ t.regs = { s.regs with pc := a } ∧ VKept s t ∧ RequestsKept s t ∧ t.mem = s.mem ∧
      t.sq.seq = .boundary ∧ t.busHold = false ∧ t.tick = s.tick + 1 ∧ t.half = .phi2 ∧ t.bus = [.read s.cpu.pc d] ∧
      t.agenda = []) ∧
  ∀ (i : Instr) (rest : List Byte) (s : State) (m : Moment) (a : Word), s.running = true → s.linesOk = true →
    s.busHold = false → s.plainPages = true → s.half = .phi1 → m ≠ .afterCpu →
    s.agenda = [⟨s.tick, m, .forcedJump a⟩] → s.decided = none → s.pollable = true → s.plainCode a = true →
    decode [s.peek a, s.peek (a + 1), s.peek (a + 2)] = .ok (i, rest) →
    (i.mnem = .jsr → a + 2 ≠ stackAt s.cpu.s ∧ a + 2 ≠ stackAt (s.cpu.s - 1)) → step s = exec i s

/-! ### What the instructions do -/

/-- R155, R690, R691: every instruction but the branches completes in the ticks of the table, one bus access in each; a read
class instruction takes one more when its index crosses a page. `readyFor`: the registers it reads are written (R46), or
UNINIT_AS_DRAW holds, as State.reset has it (log 23). -/
def Obligations.CycleCounts : Prop :=
  ∀ (i : Instr) (s : State), s.readyFor i = true → i.mode ≠ .rel →
    ∃ t, exec i s = .next t ∧ Completed s t (s.ticksOf i)

/-- R221 to R223, R418: LDA, LDX, LDY, LAX. `readyFor`: the registers it reads are written (R46), or UNINIT_AS_DRAW holds,
as State.reset has it (log 23). -/
def Obligations.Loads : Prop :=
  ∀ (i : Instr) (s : State), s.readyFor i = true → i.mnem ∈ [Mnem.lda, .ldx, .ldy, .lax] →
    Runs i s (s.ticksOf i) (fun t => VKept s t ∧
      ∃ v, ReadResult s i t v ((loaded i.mnem s.regs v).withNZ v))

/-- R224 to R226, R417: STA, STX, STY, SAX. `readyFor`: the registers it reads are written (R46), or UNINIT_AS_DRAW holds,
as State.reset has it (log 23). -/
def Obligations.Stores : Prop :=
  ∀ (i : Instr) (s : State), s.readyFor i = true → i.mnem ∈ [Mnem.sta, .stx, .sty, .sax] →
    Runs i s (s.ticksOf i) (fun t => VKept s t ∧ t.regs = { s.regs with pc := s.nextPC i } ∧
      t.mem = s.afterWrites [(s.operandAddr i, storedByte i.mnem s.regs)] ∧
      [.write (s.operandAddr i) (storedByte i.mnem s.regs)] <:+ t.bus)

/-- R227 to R231: TAX, TAY, TXA, TYA, TSX, and R232: TXS; with their opcodes. `readyFor`: the registers it reads are written
(R46), or UNINIT_AS_DRAW holds, as State.reset has it (log 23). -/
def Obligations.Transfers : Prop :=
  [encode .tax, encode .tay, encode .txa, encode .tya, encode .tsx, encode .txs] =
    [[0xAA], [0xA8], [0x8A], [0x98], [0xBA], [0x9A]] ∧
  ∀ (i : Instr) (s : State), s.readyFor i = true → i.mnem ∈ [Mnem.tax, .tay, .txa, .tya, .tsx, .txs] →
    Runs i s 2 (fun t => VKept s t ∧ t.mem = s.mem ∧
      t.regs = { transferred i.mnem s.regs with pc := s.cpu.pc + 1 })

/-- R264, R265, R437: ADC, SBC and USBC by the adders of R260 to R263, V included. `readyFor`: the registers it reads are
written (R46), or UNINIT_AS_DRAW holds, as State.reset has it (log 23). -/
def Obligations.AddSubtract : Prop :=
  ∀ (i : Instr) (s : State), s.readyFor i = true → i.mnem ∈ [Mnem.adc, .sbc, .usbc] →
    Runs i s (s.ticksOf i) (fun t => ∃ v,
      let r := (if i.mnem = .adc then adcBy else sbcBy) s.cpu.p.d s.cpu.a v s.cpu.p.c
      ReadResult s i t v { s.regs with a := r.value, c := r.c, n := r.n, z := r.z } ∧ t.cpu.p.v = r.v)

/-- R266 to R268: AND, ORA, EOR. `readyFor`: the registers it reads are written (R46), or UNINIT_AS_DRAW holds, as
State.reset has it (log 23). -/
def Obligations.Logic : Prop :=
  ∀ (i : Instr) (s : State), s.readyFor i = true → i.mnem ∈ [Mnem.and, .ora, .eor] →
    Runs i s (s.ticksOf i) (fun t => VKept s t ∧ ∃ v,
      ReadResult s i t v ({ s.regs with a := logicResult i.mnem s.cpu.a v }.withNZ (logicResult i.mnem s.cpu.a v)))

/-- R45, R269 to R272: CMP, CPX, CPY: C says that the register is not below the operand, N and Z come from the difference.
`readyFor`: the registers it reads are written (R46), or UNINIT_AS_DRAW holds, as State.reset has it (log 23). -/
def Obligations.Compares : Prop :=
  ∀ (i : Instr) (s : State), s.readyFor i = true → i.mnem ∈ [Mnem.cmp, .cpx, .cpy] →
    Runs i s (s.ticksOf i) (fun t => VKept s t ∧ ∃ v,
      ReadResult s i t v ({ s.regs with c := decide (v.toNat ≤ (comparedRegister i.mnem s.regs).toNat) }.withNZ
        (comparedRegister i.mnem s.regs - v)))

/-- R273: BIT takes N and V from memory, Z from A AND memory. `readyFor`: the registers it reads are written (R46), or
UNINIT_AS_DRAW holds, as State.reset has it (log 23). -/
def Obligations.BitTest : Prop :=
  ∀ (i : Instr) (s : State), s.readyFor i = true → i.mnem = .bit →
    Runs i s (s.ticksOf i) (fun t => ∃ v,
      ReadResult s i t v { s.regs with n := v.getLsbD 7, z := (s.cpu.a &&& v) == 0 } ∧ t.cpu.p.v = v.getLsbD 6)

/-- R301 to R306: ASL, LSR, ROL, ROR, INC and DEC on memory: the byte is read, written back, and the result written.
`readyFor`: the registers it reads are written (R46), or UNINIT_AS_DRAW holds, as State.reset has it (log 23). -/
def Obligations.MemoryModify : Prop :=
  ∀ (i : Instr) (s : State), s.readyFor i = true → i.row.cls = .rmw →
    (i.mnem ∈ [Mnem.asl, .lsr, .rol, .ror] →
      Runs i s (s.ticksOf i) (fun t => VKept s t ∧ ∃ v,
        ModifyResult s i t v (shifted i.mnem v s.cpu.p.c).1
          ({ s.regs with c := (shifted i.mnem v s.cpu.p.c).2 }.withNZ (shifted i.mnem v s.cpu.p.c).1))) ∧
    (i.mnem = .inc → Runs i s (s.ticksOf i) (fun t => VKept s t ∧ ∃ v,
        ModifyResult s i t v (v + 1) (s.regs.withNZ (v + 1)))) ∧
    (i.mnem = .dec → Runs i s (s.ticksOf i) (fun t => VKept s t ∧ ∃ v,
        ModifyResult s i t v (v - 1) (s.regs.withNZ (v - 1))))

/-- R301 to R304: ASL, LSR, ROL, ROR on the accumulator, and R307 to R310: INX, INY, DEX, DEY. `readyFor`: the registers it
reads are written (R46), or UNINIT_AS_DRAW holds, as State.reset has it (log 23). -/
def Obligations.RegisterModify : Prop :=
  ∀ (i : Instr) (s : State), s.readyFor i = true →
    (i.mode = .acc → Runs i s 2 (fun t => VKept s t ∧ t.mem = s.mem ∧ t.regs =
      { s.regs with
        a := (shifted i.mnem s.cpu.a s.cpu.p.c).1
        c := (shifted i.mnem s.cpu.a s.cpu.p.c).2
        pc := s.cpu.pc + 1 }.withNZ (shifted i.mnem s.cpu.a s.cpu.p.c).1)) ∧
    (i.mnem ∈ [Mnem.inx, .iny, .dex, .dey] → Runs i s 2 (fun t => VKept s t ∧ t.mem = s.mem ∧
      t.regs = { stepped i.mnem s.regs with pc := s.cpu.pc + 1 }))

/-- R340 to R348: the eight branches. `v` is V as BVC and BVS see it. `readyFor`: the registers it reads are written (R46),
or UNINIT_AS_DRAW holds, as State.reset has it (log 23). -/
def Obligations.Branches : Prop :=
  ∀ (i : Instr) (s : State), s.readyFor i = true → i.mode = .rel →
    ∃ v, VSeen s v ∧ Runs i s (s.branchTicks i (branchTaken i.mnem s.regs v)) (fun t => VKept s t ∧ t.mem = s.mem ∧
      t.regs = { s.regs with
        pc := if branchTaken i.mnem s.regs v then s.branchTarget i else s.cpu.pc + 2 })

/-- R349, R350: JMP. The pointer's second byte comes from the page of the first. -/
def Obligations.Jumps : Prop :=
  ∀ (w : Word) (s : State), s.ready = true →
    Runs (.jmpAbs w) s 3 (fun t => VKept s t ∧ t.mem = s.mem ∧ t.regs = { s.regs with pc := w }) ∧
    Runs (.jmpInd w) s 5 (fun t => VKept s t ∧ t.mem = s.mem ∧ ∃ l h,
      [.read w l, .read (joinBytes (hi w) (lo w + 1)) h] <:+ t.bus ∧ t.regs = { s.regs with pc := joinBytes h l } ∧
      (s.isStored w = true → l = s.peek w) ∧
      (s.isStored (joinBytes (hi w) (lo w + 1)) = true → h = s.peek (joinBytes (hi w) (lo w + 1))))

/-- R351, R353: JSR pushes the address of its last byte, high byte first; RTS pulls PC and adds 1. -/
def Obligations.Subroutines : Prop :=
  ∀ (w : Word) (s : State), s.ready = true →
    Runs (.jsr w) s 6 (fun t => VKept s t ∧ t.regs = { s.regs with pc := w, s := s.cpu.s - 2 } ∧
      t.mem = s.afterWrites [(stackAt s.cpu.s, hi (s.cpu.pc + 2)), (stackAt (s.cpu.s - 1), lo (s.cpu.pc + 2))]) ∧
    Runs .rts s 6 (fun t => VKept s t ∧ t.mem = s.mem ∧ t.regs = { s.regs with
      pc := joinBytes (s.peek (stackAt (s.cpu.s + 2))) (s.peek (stackAt (s.cpu.s + 1))) + 1
      s := s.cpu.s + 2 })

/-- R351, R353: RTS as the first instruction of a subroutine returns behind the JSR, with S as before. Memory is in its
canonical form. -/
def Obligations.CallThenReturn : Prop :=
  ∀ (w : Word) (s t : State), Memory.wf s.mem = true → s.ready = true → s.quietFor 14 = true → exec (.jsr w) s = .next t →
    Runs .rts t 6 (fun u => u.regs = { s.regs with pc := s.cpu.pc + 3 } ∧ VKept s u ∧ u.mem = t.mem)

/-- R352, R484, R485: BRK takes the entry of an IRQ with b = 1 and the address two bytes on. `readyFor`: the registers it
reads are written (R46), or UNINIT_AS_DRAW holds, as State.reset has it (log 23). -/
def Obligations.Break : Prop :=
  ∀ s : State, s.readyFor .brk = true →
    ∃ t v, VSeen s v ∧ exec .brk s = .next t ∧ Completed s t 7 ∧
      t.regs = { s.regs with i := true, s := s.cpu.s - 3, pc := s.peekWord s.takenVector } ∧ VKept s t ∧
      t.mem = s.afterWrites (s.pushed (s.cpu.pc + 2) (s.regs.packed v true)) ∧
      t.irq.nmiPending = (s.irq.nmiPending && !s.params.vectorHijack) ∧ t.irq.rstPending = s.irq.rstPending ∧
      t.irq.nmiCount = s.irq.nmiCount

/-- R38, R354: RTI pulls the status, then PC, with no + 1. -/
def Obligations.ReturnFromInterrupt : Prop :=
  ∀ s : State, s.ready = true →
    Runs .rti s 6 (fun t => t.mem = s.mem ∧ VIs s t ((s.peek (stackAt (s.cpu.s + 1))).getLsbD 6) ∧
      t.regs = { s.regs.unpacked (s.peek (stackAt (s.cpu.s + 1))) with
        pc := joinBytes (s.peek (stackAt (s.cpu.s + 3))) (s.peek (stackAt (s.cpu.s + 2)))
        s := s.cpu.s + 3 })

/-- R37, R38, R380 to R383: PHA, PHP, PLA and PLP. PHP pushes b = 1 and V as it is in the tick of the push. `readyFor`: the
registers it reads are written (R46), or UNINIT_AS_DRAW holds, as State.reset has it (log 23). -/
def Obligations.PushesAndPulls : Prop :=
  ∀ s : State,
    (s.readyFor .pha = true → Runs .pha s 3 (fun t => VKept s t ∧ t.regs = { s.regs with pc := s.cpu.pc + 1, s := s.cpu.s - 1 } ∧
      t.mem = s.afterWrites [(stackAt s.cpu.s, s.cpu.a)])) ∧
    (s.readyFor .php = true → Runs .php s 3 (fun t => VKept s t ∧ t.regs = { s.regs with pc := s.cpu.pc + 1, s := s.cpu.s - 1 } ∧
      t.mem = s.afterWrites [(stackAt s.cpu.s, s.regs.packed t.cpu.p.v true)])) ∧
    (s.readyFor .pla = true → Runs .pla s 4 (fun t => VKept s t ∧ t.mem = s.mem ∧
      t.regs = { s.regs with
        a := s.peek (stackAt (s.cpu.s + 1))
        pc := s.cpu.pc + 1
        s := s.cpu.s + 1 }.withNZ (s.peek (stackAt (s.cpu.s + 1))))) ∧
    (s.readyFor .plp = true → Runs .plp s 4 (fun t => t.mem = s.mem ∧ t.cpu.p.v = (s.peek (stackAt (s.cpu.s + 1))).getLsbD 6 ∧
      t.regs = { s.regs.unpacked (s.peek (stackAt (s.cpu.s + 1))) with
        pc := s.cpu.pc + 1
        s := s.cpu.s + 1 }))

/-- R384 to R389: CLC, SEC, CLI, SEI, CLD, SED, and R390: CLV; with their opcodes. `readyFor`: the registers it reads are
written (R46), or UNINIT_AS_DRAW holds, as State.reset has it (log 23). -/
def Obligations.FlagInstructions : Prop :=
  [encode .clc, encode .sec, encode .cli, encode .sei, encode .cld, encode .sed, encode .clv] =
    [[0x18], [0x38], [0x58], [0x78], [0xD8], [0xF8], [0xB8]] ∧
  ∀ (i : Instr) (s : State), s.readyFor i = true →
    (i.mnem ∈ [Mnem.clc, .sec, .cli, .sei, .cld, .sed] → Runs i s 2 (fun t => VKept s t ∧ t.mem = s.mem ∧
      t.regs = { flagResult i.mnem s.regs with pc := s.cpu.pc + 1 })) ∧
    (i.mnem = .clv → Runs i s 2 (fun t => t.cpu.p.v = false ∧ t.mem = s.mem ∧
      t.regs = { s.regs with pc := s.cpu.pc + 1 }))

/-- R476, R682: the decision that ends CLI, SEI or PLP still polls the I of before it; every other instruction's polls the I
it leaves. `readyFor`: the registers it reads are written (R46), or UNINIT_AS_DRAW holds, as State.reset has it (log 23). -/
def Obligations.InterruptPollDelay : Prop :=
  ∀ (i : Instr) (s : State), s.readyFor i = true → ∃ t, exec i s = .next t ∧
    t.polledI = if s.params.iFlagDelay = true ∧ i.mnem ∈ [Mnem.cli, .sei, .plp] then s.cpu.p.i else t.cpu.p.i

/-- R391, R436: NOP, implied or with an operand that is read and dropped; R440: JAM stays where it is: two ticks later PC
points at it again, and nothing else has changed. `readyFor`: the registers it reads are written (R46), or UNINIT_AS_DRAW
holds, as State.reset has it (log 23). -/
def Obligations.NoOperationsAndJam : Prop :=
  ∀ (i : Instr) (s : State), s.readyFor i = true →
    (i.mnem = .nop → Runs i s (s.ticksOf i) (fun t => VKept s t ∧ t.mem = s.mem ∧
      t.regs = { s.regs with pc := s.nextPC i } ∧ (i.mode ≠ .imp → ∃ v, OperandRead s i t v))) ∧
    (i.mnem = .jam → Runs i s 2 (fun t => VKept s t ∧ t.mem = s.mem ∧ t.regs = s.regs))

/-- R411 to R413: SLO, RLA, SRE: shift or rotate memory, then ORA, AND or EOR the result into A. `readyFor`: the registers
it reads are written (R46), or UNINIT_AS_DRAW holds, as State.reset has it (log 23). -/
def Obligations.ShiftThenLogic : Prop :=
  ∀ (i : Instr) (s : State), s.readyFor i = true → i.mnem ∈ [Mnem.slo, .rla, .sre] →
    Runs i s (s.ticksOf i) (fun t => VKept s t ∧ ∃ v,
      let r := shifted i.mnem v s.cpu.p.c
      let a := logicResult (if i.mnem = .slo then .ora else if i.mnem = .rla then .and else .eor) s.cpu.a r.1
      ModifyResult s i t v r.1 ({ s.regs with a := a, c := r.2 }.withNZ a))

/-- R414 to R416: RRA and ISB add and subtract the modified byte, RRA with the carry of its rotate; DCP compares A with it.
`readyFor`: the registers it reads are written (R46), or UNINIT_AS_DRAW holds, as State.reset has it (log 23). -/
def Obligations.ModifyThenArithmetic : Prop :=
  ∀ (i : Instr) (s : State), s.readyFor i = true →
    (i.mnem = .rra → Runs i s (s.ticksOf i) (fun t => ∃ v,
      let w := shifted .ror v s.cpu.p.c
      let r := adcBy s.cpu.p.d s.cpu.a w.1 w.2
      ModifyResult s i t v w.1 { s.regs with a := r.value, c := r.c, n := r.n, z := r.z } ∧ VIs s t r.v)) ∧
    (i.mnem = .isb → Runs i s (s.ticksOf i) (fun t => ∃ v,
      let r := sbcBy s.cpu.p.d s.cpu.a (v + 1) s.cpu.p.c
      ModifyResult s i t v (v + 1) { s.regs with a := r.value, c := r.c, n := r.n, z := r.z } ∧ VIs s t r.v)) ∧
    (i.mnem = .dcp → Runs i s (s.ticksOf i) (fun t => VKept s t ∧ ∃ v,
      ModifyResult s i t v (v - 1)
        ({ s.regs with c := decide ((v - 1).toNat ≤ s.cpu.a.toNat) }.withNZ (s.cpu.a - (v - 1)))))

/-- R419 to R425: LAS, ANC, ALR, ARR, SBX, LXA, ANE. `readyFor`: the registers it reads are written (R46), or UNINIT_AS_DRAW
holds, as State.reset has it (log 23). -/
def Obligations.UnofficialReads : Prop :=
  ∀ (i : Instr) (s : State), s.readyFor i = true →
    (i.mnem = .las → Runs i s (s.ticksOf i) (fun t => VKept s t ∧ ∃ v,
      ReadResult s i t v ({ s.regs with a := v &&& s.cpu.s, x := v &&& s.cpu.s, s := v &&& s.cpu.s }.withNZ
        (v &&& s.cpu.s)))) ∧
    (i.mnem = .anc → Runs i s 2 (fun t => VKept s t ∧ ReadResult s i t (operand1 i)
      ({ s.regs with a := s.cpu.a &&& operand1 i, c := (s.cpu.a &&& operand1 i).msb }.withNZ
        (s.cpu.a &&& operand1 i)))) ∧
    (i.mnem = .alr → Runs i s 2 (fun t => VKept s t ∧ ReadResult s i t (operand1 i)
      ({ s.regs with
        a := (shifted .lsr (s.cpu.a &&& operand1 i) false).1
        c := (shifted .lsr (s.cpu.a &&& operand1 i) false).2 }.withNZ
          (shifted .lsr (s.cpu.a &&& operand1 i) false).1))) ∧
    (i.mnem = .arr → Runs i s 2 (fun t =>
      let m := s.cpu.a &&& operand1 i
      let r : Byte := BitVec.ofNat 8 (m.toNat / 2 + 128 * bit s.cpu.p.c)
      let low := if 5 < (m &&& 0x0F).toNat + (m &&& 0x01).toNat then (r + 6) &&& 0x0F else r &&& 0x0F
      let carry := decide (0x50 < (m &&& 0xF0).toNat + (m &&& 0x10).toNat)
      let high := if carry then (r + 0x60) &&& 0xF0 else r &&& 0xF0
      (s.cpu.p.d = false → t.cpu.p.v = (r.getLsbD 6 ^^ r.getLsbD 5) ∧
        ReadResult s i t (operand1 i) { s.regs with a := r, c := r.getLsbD 6, n := r.msb, z := r == 0 }) ∧
      (s.cpu.p.d = true → t.cpu.p.v = (m ^^^ r).getLsbD 6 ∧
        ReadResult s i t (operand1 i) { s.regs with a := high ||| low, c := carry, n := s.cpu.p.c, z := r == 0 }))) ∧
    (i.mnem = .sbx → Runs i s 2 (fun t => VKept s t ∧ ReadResult s i t (operand1 i)
      ({ s.regs with
        x := (s.cpu.a &&& s.cpu.x) - operand1 i
        c := decide ((operand1 i).toNat ≤ (s.cpu.a &&& s.cpu.x).toNat) }.withNZ
          ((s.cpu.a &&& s.cpu.x) - operand1 i)))) ∧
    (i.mnem = .lxa → Runs i s 2 (fun t => VKept s t ∧ ReadResult s i t (operand1 i)
      ({ s.regs with
        a := (s.cpu.a ||| s.params.magic) &&& operand1 i
        x := (s.cpu.a ||| s.params.magic) &&& operand1 i }.withNZ ((s.cpu.a ||| s.params.magic) &&& operand1 i)))) ∧
    (i.mnem = .ane → Runs i s 2 (fun t => VKept s t ∧ ReadResult s i t (operand1 i)
      ({ s.regs with a := (s.cpu.a ||| s.params.magic) &&& s.cpu.x &&& operand1 i }.withNZ
        ((s.cpu.a ||| s.params.magic) &&& s.cpu.x &&& operand1 i))))

/-- R426 to R429, R431: SHA, SHS, SHX, SHY: the byte is masked with the base's high byte + 1, and on a page crossing it is
also the address's high byte. SHS loads S first. `readyFor`: the registers it reads are written (R46), or UNINIT_AS_DRAW
holds, as State.reset has it (log 23). -/
def Obligations.MaskedStores : Prop :=
  ∀ (i : Instr) (s : State), s.readyFor i = true → i.mnem ∈ [Mnem.sha, .shs, .shx, .shy] →
    Runs i s (s.ticksOf i) (fun t => VKept s t ∧
      t.regs = { s.regs with pc := s.nextPC i, s := if i.mnem = .shs then s.cpu.a &&& s.cpu.x else s.cpu.s } ∧
      t.mem = s.afterWrites [(s.shTarget i (s.shStored i (shSource i.mnem s.regs)),
        s.shStored i (shSource i.mnem s.regs))])

/-- R153, R431, R434: the store of SHA, SHS, SHX and SHY in the middle of their sequence, under bus hold or not, from the
latches of the dummy read: with SH_RDY_QUIRK and that read stalled, the byte is not masked. -/
def Obligations.StalledMaskedStores : Prop :=
  ∀ s : State, s.running = true → s.linesOk = true → s.quietFor 0 = true → s.sq.seq = .op →
    let i := decodeBytes s.sq.ir 0 0
    i.mnem ∈ [Mnem.sha, .shs, .shx, .shy] → s.sq.cyc = accessCycle i.mode true → s.mayUse (mnemSources i.mnem) = true →
    let src := shSource i.mnem s.regs
    let v := if s.params.shRdyQuirk = true ∧ s.sq.shstall = true then src else src &&& (s.sq.bah + 1)
    let a := if s.sq.cross then joinBytes v (lo s.sq.ea) else s.sq.ea
    ∃ t, step s = .next t ∧ t.bus = [.write a v] ∧ t.mem = s.afterWrites [(a, v)] ∧ VKept s t ∧ RequestsKept s t ∧
      t.regs = { s.regs with s := if i.mnem = .shs then s.cpu.a &&& s.cpu.x else s.cpu.s } ∧
      t.sq = { s.sq with seq := .boundary } ∧ t.tick = s.tick + 1 ∧ t.half = .phi1 ∧ t.busHold = s.busHold

/-! ### What the instructions leave alone -/

/-- The frame of the registers and flags, of every instruction, interrupted or not (R30 to R33, R35, R37, R45, R220): each
of A, X, Y, S and of the flags that it does not write. V can also be set from outside, by SO. -/
def Obligations.FrameOfRegistersAndFlags : Prop :=
  ∀ (i : Instr) (s t : State), exec i s = .next t →
    (writesA i = false → t.cpu.a = s.cpu.a) ∧ (writesX i = false → t.cpu.x = s.cpu.x) ∧
    (writesY i = false → t.cpu.y = s.cpu.y) ∧ (writesS i = false → t.cpu.s = s.cpu.s) ∧
    (writesNZ i = false → t.cpu.p.n = s.cpu.p.n ∧ t.cpu.p.z = s.cpu.p.z) ∧
    (writesC i = false → t.cpu.p.c = s.cpu.p.c) ∧ (writesD i = false → t.cpu.p.d = s.cpu.p.d) ∧
    (writesI i = false → t.cpu.p.i = s.cpu.p.i) ∧
    (i.mnem ∉ [Mnem.plp, .rti] → t.cpu.p.u = s.cpu.p.u ∧ t.cpu.p.b = s.cpu.p.b) ∧
    (writesV i = false → t.cpu.p.v = s.cpu.p.v ∨ t.cpu.p.v = true)

/-- The frame of memory: every byte but those that the instruction stores to. The zero page, which holds the pointers, is not
unmapped (R87). -/
def Obligations.FrameOfMemory : Prop :=
  ∀ (i : Instr) (s t : State) (a : Word), s.plainPages = true → exec i s = .next t → a ∉ s.storeAddrs i →
    t.peek a = s.peek a

/-- The frame of the special state (R41, R152, R476, R485): the vector and BRKB are BRK's; ICHG and IPREV are CLI's, SEI's
and PLP's, and every other instruction leaves them as its terminal has cleared them, or, stalled at it with no bus access
(R153), as they were. -/
def Obligations.FrameOfSpecialState : Prop :=
  ∀ (i : Instr) (s t : State), exec i s = .next t →
    t.params = s.params ∧ (i.mnem ≠ .brk → t.sq.vec = s.sq.vec ∧ t.sq.brkb = s.sq.brkb) ∧
    (i.mnem ∉ [Mnem.cli, .sei, .plp] →
      (t.bus ≠ [] → t.sq.ichg = false ∧ t.sq.iprev = false) ∧
      (t.bus = [] → t.sq.ichg = s.sq.ichg ∧ t.sq.iprev = s.sq.iprev))

/-- The frame of the VIAs' registers (R531 to R546): with no host call on the agenda, an instruction that writes to no VIA
leaves every port, direction, control, latch, shift and enable register as it was. -/
def Obligations.FrameOfDeviceRegisters : Prop :=
  ∀ (i : Instr) (s t : State) (k : ViaId), exec i s = .next t → s.agenda = [] →
    (∀ a v, .write a v ∈ t.bus → s.deviceAt a = none) →
    (t.via k).ora = (s.via k).ora ∧ (t.via k).orb = (s.via k).orb ∧ (t.via k).ddra = (s.via k).ddra ∧
    (t.via k).ddrb = (s.via k).ddrb ∧ (t.via k).acr = (s.via k).acr ∧ (t.via k).pcr = (s.via k).pcr ∧
    (t.via k).ier = (s.via k).ier ∧ (t.via k).sr = (s.via k).sr ∧ (t.via k).t1ll = (s.via k).t1ll ∧
    (t.via k).t1lh = (s.via k).t1lh ∧ (t.via k).t2ll = (s.via k).t2ll ∧ (t.via k).t2lh = (s.via k).t2lh

/-- R45 names the callback that a bare core lacks; that a model argument says whether the drive's devices are there is the
model's choice (log 1). On the bare core no step touches the VIAs or the rotation engine or calls anyone, and only a read
of an unmapped address draws a value (R80). -/
def Obligations.BareCoreHasNoDevices : Prop :=
  ∀ s t : State, s.params.platform = .core → s.agenda = [] → step s = .next t →
    t.via1 = s.via1 ∧ t.via2 = s.via2 ∧ t.rot = s.rot ∧ t.disk.tracks = s.disk.tracks ∧ t.calls = [] ∧
    (s.params.regions.all (fun r => r.kind != .unmapped) = true → t.draws = s.draws)

/-- R80, R530: what answers an address: a VIA in its window on the drive; else the first region of the memory map that
holds it, or RAM. RAM keeps what is written, memory being in its canonical form, and ROM what it has; where nothing is
mapped a read is a draw of the environment. The form of the map is the model's (log 2). -/
def Obligations.MemoryEnvironment : Prop :=
  ∀ (s : State) (a : Word) (v : Byte),
    (s.params.platform = .core → s.deviceAt a = none) ∧
    (s.params.platform = .drive → (s.deviceAt a = some .via1 ↔ 0x1800 ≤ a.toNat ∧ a.toNat ≤ 0x1BFF) ∧
      (s.deviceAt a = some .via2 ↔ 0x1C00 ≤ a.toNat ∧ a.toNat ≤ 0x1FFF)) ∧
    (s.params.regions = [] → s.regionAt a = .ram) ∧
    (∀ r rest, s.params.regions = r :: rest →
      s.regionAt a =
        if r.base ≤ a.toNat ∧ a.toNat < r.base + r.size then r.kind
        else State.regionAt { s with params := { s.params with regions := rest } } a) ∧
    (s.deviceAt a = none → s.regionAt a ≠ .unmapped →
      s.busRead a = (s.peek a, s.logBus (.read a (s.peek a)))) ∧
    (s.deviceAt a = none → s.regionAt a = .unmapped →
      s.busRead a = (Config.environmentByte s.draws, s.advanceDraws.logBus (.read a (Config.environmentByte s.draws)))) ∧
    (s.deviceAt a = none → s.regionAt a = .ram →
      (Memory.wf s.mem = true → (s.busWrite a v).peek a = v) ∧ ∀ b, b ≠ a → (s.busWrite a v).peek b = s.peek b) ∧
    (s.deviceAt a = none → s.regionAt a ≠ .ram → s.busWrite a v = s.logBus (.write a v))

/-! ### Arithmetic -/

/-- R260, R262: the binary adder and subtracter on integers; V says that the signed result does not fit. -/
def Obligations.BinaryArithmetic : Prop :=
  ∀ (a v : Byte) (c : Bool),
    ((adcBin a v c).value.toNat = (a.toNat + v.toNat + bit c) % 256 ∧
      (adcBin a v c).c = decide (255 < a.toNat + v.toNat + bit c) ∧
      (adcBin a v c).v = (((a ^^^ (adcBin a v c).value) &&& (v ^^^ (adcBin a v c).value) &&& 0x80) != 0) ∧
      ((adcBin a v c).v = true ↔ a.toInt + v.toInt + bit c < -128 ∨ 127 < a.toInt + v.toInt + bit c) ∧
      (adcBin a v c).n = (adcBin a v c).value.msb ∧ (adcBin a v c).z = ((adcBin a v c).value == 0)) ∧
    (((sbcBin a v c).value.toNat : Int) = ((a.toNat : Int) - v.toNat - (1 - bit c)) % 256 ∧
      (sbcBin a v c).c = decide (v.toNat + (1 - bit c) ≤ a.toNat) ∧
      (sbcBin a v c).v = (((a ^^^ v) &&& (a ^^^ (sbcBin a v c).value) &&& 0x80) != 0) ∧
      ((sbcBin a v c).v = true ↔
        a.toInt - v.toInt - (1 - bit c) < -128 ∨ 127 < a.toInt - v.toInt - (1 - bit c)) ∧
      (sbcBin a v c).n = (sbcBin a v c).value.msb ∧ (sbcBin a v c).z = ((sbcBin a v c).value == 0))

/-- R300: the shift and rotate helpers; after each, C is its carry and N and Z are its result's. The rotates read C, so it has
been written, or UNINIT_AS_DRAW holds (R46, log 23). -/
def Obligations.ShiftHelpers : Prop :=
  ∀ (v : Byte) (c : Bool),
    aslByte v = (BitVec.ofNat 8 (2 * v.toNat), v.getLsbD 7) ∧ lsrByte v = (BitVec.ofNat 8 (v.toNat / 2), v.getLsbD 0) ∧
    rolByte v c = (BitVec.ofNat 8 (2 * v.toNat + bit c), v.getLsbD 7) ∧
    rorByte v c = (BitVec.ofNat 8 (v.toNat / 2 + 128 * bit c), v.getLsbD 0) ∧
    ∀ s : State, modifyAsl v s = ((aslByte v).1, (s.setC (aslByte v).2).setNZ (aslByte v).1) ∧
      modifyLsr v s = ((lsrByte v).1, (s.setC (lsrByte v).2).setNZ (lsrByte v).1) ∧
      (s.mayUse [.c] = true →
        modifyRol v s = ((rolByte v s.cpu.p.c).1, (s.setC (rolByte v s.cpu.p.c).2).setNZ (rolByte v s.cpu.p.c).1) ∧
        modifyRor v s = ((rorByte v s.cpu.p.c).1, (s.setC (rorByte v s.cpu.p.c).2).setNZ (rorByte v s.cpu.p.c).1))

/-- R261, R263: the decimal adder and subtracter on integers, for every operand: the adder's Z is the binary sum's, its N
and V come from the high nibbles before their correction, its C from after it; the subtracter has the flags of the binary
one. Both are taken where D is 1. R274: on valid BCD both give the decimal result with its carry, and a subtract undoes an
add. -/
def Obligations.DecimalArithmetic : Prop :=
  ∀ (a v : Byte) (c : Bool),
    (adcBy true a v c = adcDec a v c ∧ adcBy false a v c = adcBin a v c ∧
      sbcBy true a v c = sbcDec a v c ∧ sbcBy false a v c = sbcBin a v c) ∧
    (let sum := a.toNat % 16 + v.toNat % 16 + bit c
     let low := if 9 < sum then sum + 6 else sum
     let mid := a.toNat / 16 * 16 + v.toNat / 16 * 16 + (if 0x0F < low then 0x10 else 0)
     let high := if 0x90 < mid then mid + 0x60 else mid
     (adcDec a v c).value.toNat = high % 256 + low % 16 ∧
      (adcDec a v c).c = decide (0xFF < high) ∧ (adcDec a v c).n = decide (128 ≤ mid % 256) ∧
      (adcDec a v c).v = (a.msb == v.msb && a.msb != decide (128 ≤ mid % 256)) ∧
      (adcDec a v c).z = decide ((a.toNat + v.toNat + bit c) % 256 = 0)) ∧
    (let low : Int := (a.toNat % 16 : Nat) - (v.toNat % 16 : Nat) - (1 - bit c)
     let mid : Int := (a.toNat / 16 * 16 : Nat) - (v.toNat / 16 * 16 : Nat) - (if low < 0 then 16 else 0)
     ((sbcDec a v c).value.toNat : Int) =
        (if mid < 0 then mid - 0x60 else mid) % 256 + (if low < 0 then low - 6 else low) % 16 ∧
      (low < 0 ↔ low % 0x10000 / 16 % 2 = 1) ∧ (mid < 0 ↔ mid % 0x10000 / 256 % 2 = 1) ∧
      (sbcDec a v c).c = (sbcBin a v c).c ∧ (sbcDec a v c).v = (sbcBin a v c).v ∧
      (sbcDec a v c).n = (sbcBin a v c).n ∧ (sbcDec a v c).z = (sbcBin a v c).z) ∧
    (validBcd a = true → validBcd v = true →
      decimal (adcDec a v c).value = (decimal a + decimal v + bit c) % 100 ∧
      (adcDec a v c).c = decide (100 ≤ decimal a + decimal v + bit c) ∧
      (decimal (sbcDec a v c).value : Int) = ((decimal a : Int) - decimal v - (1 - bit c)) % 100 ∧
      (sbcDec a v c).c = decide (decimal v + (1 - bit c) ≤ decimal a) ∧
      (sbcDec (adcDec a v c).value v (!c)).value = a)

/-! ### Devices -/

/-- R533, R534, R537, R538, R541 to R543, R545: what is written to a VIA's plain registers reads back; R580: `checkInterrupts`
makes the output follow the flags and tells the CPU of an edge only. -/
def Obligations.ViaRegistersAndInterrupt : Prop :=
  ∀ (s : State) (k : ViaId) (b : Byte),
    (∀ r ∈ [2, 3, 6, 7, 10, 11, 12], ((s.viaWrite k r b).viaRead k r).1 = b) ∧
    ((s.viaWrite k 14 b).viaRead k 14).1 =
      0x80 ||| (if b.msb then (s.via k).ier ||| b.setWidth 7 else (s.via k).ier &&& ~~~ b.setWidth 7).setWidth 8 ∧
    (s.linesOk = true →
      ((s.checkInterrupts k).via k).irqOut = (s.via k).wantsIrq ∧ (s.checkInterrupts k).stopped = s.stopped ∧
      ((s.checkInterrupts k).irq.irqCount : Int) =
        s.irq.irqCount + bit (s.via k).wantsIrq - bit (s.via k).irqOut)

/-- R571 to R573: Timer A after T1C-H is written, its latch being N: the counter runs down from N, and the flag comes with
$FFFF in the tick N + 2. In free-running mode it underflows every N + 2 ticks and PB7 toggles each time; in one-shot mode
PB7 goes high and the flag does not come again, and the counter starts from N again or runs on from $FFFF, as
T1_ONESHOT_RELOAD says. -/
def Obligations.TimerATiming : Prop :=
  ∀ (v : Via) (reload : Bool) (n : Nat),
    let after := fun k => (fun w => Via.ticked w reload)^[k] v
    (v.t1load = true → v.t1armed = true → v.ifr.getLsbD 6 = false → n = (joinBytes v.t1lh v.t1ll).toNat →
      (∀ k, k ≤ n → (after (k + 1)).t1c.toNat = n - k ∧ (after (k + 1)).ifr.getLsbD 6 = false) ∧
      (after (n + 2)).t1c = 0xFFFF ∧ (after (n + 2)).ifr.getLsbD 6 = true ∧
      (v.acr.getLsbD 6 = true → (after (n + 3)).t1c.toNat = n ∧
        ∀ j, (after ((j + 1) * (n + 2))).t1c = 0xFFFF ∧
          (after ((j + 1) * (n + 2))).pb7 = (v.pb7 ^^ decide (j % 2 = 0))) ∧
      (v.acr.getLsbD 6 = false → (after (n + 2)).pb7 = true ∧ (after (n + 2)).t1armed = false ∧
        (reload = true → (after (n + 3)).t1c.toNat = n) ∧ (reload = false → (after (n + 3)).t1c = 0xFFFE))) ∧
    (v.acr.getLsbD 6 = false → v.t1armed = false →
      (after n).ifr.getLsbD 6 = v.ifr.getLsbD 6 ∧ (after n).pb7 = v.pb7 ∧ (after n).t1armed = false)

/-- R574: one step of Timer B. After T2C-H is written, the latch being N: the count from N, and the flag at tick N + 2; then
it runs on from $FFFF and sets no further flag. R575: in pulse-counting mode the counter holds and sets no flag, and a pending
load is done. -/
def Obligations.TimerBTiming : Prop :=
  ∀ (v : Via) (reload : Bool) (n : Nat),
    let after := fun k => (fun w => Via.ticked w reload)^[k] v
    (v.t2load = true → (after 1).t2c = joinBytes v.t2lh v.t2ll ∧ (after 1).t2load = false ∧ (after 1).t2armed = v.t2armed ∧
      (after 1).ifr.getLsbD 5 = v.ifr.getLsbD 5) ∧
    (v.t2load = false → v.acr.getLsbD 5 = false → (after 1).t2c = v.t2c - 1 ∧ (after 1).t2load = false ∧
      (after 1).ifr.getLsbD 5 = (v.ifr.getLsbD 5 || (v.t2armed && v.t2c - 1 == 0xFFFF)) ∧
      (after 1).t2armed = (v.t2armed && v.t2c - 1 != 0xFFFF)) ∧
    (∀ b, (v.written 9 b).t2load = true ∧ (v.written 9 b).t2armed = true ∧ (v.written 9 b).ifr.getLsbD 5 = false ∧
      (v.written 9 b).t2lh = b ∧ (v.written 9 b).t2ll = v.t2ll ∧ (v.written 9 b).acr = v.acr) ∧
    (v.acr.getLsbD 5 = false → v.t2load = true → v.t2armed = true → v.ifr.getLsbD 5 = false →
      n = (joinBytes v.t2lh v.t2ll).toNat →
      (∀ k, k ≤ n → (after (k + 1)).t2c.toNat = n - k ∧ (after (k + 1)).ifr.getLsbD 5 = false) ∧
      (∀ k, (after (n + 2 + k)).t2c = 0xFFFF - BitVec.ofNat 16 k ∧ (after (n + 2 + k)).ifr.getLsbD 5 = true ∧
        (after (n + 2 + k)).t2armed = false)) ∧
    (v.acr.getLsbD 5 = false → v.t2load = false → v.t2armed = false →
      (after n).t2c = v.t2c - BitVec.ofNat 16 n ∧ (after n).ifr.getLsbD 5 = v.ifr.getLsbD 5) ∧
    (v.acr.getLsbD 5 = true →
      (after (n + 1)).t2c = (if v.t2load then joinBytes v.t2lh v.t2ll else v.t2c) ∧
      (after n).ifr.getLsbD 5 = v.ifr.getLsbD 5 ∧ (after n).t2armed = v.t2armed)

/-- R635: a sector survives encoding and decoding, error 27 included; R632, R633: whatever the error code, its encoding
has 354 bytes. For codes other than 0 and 27 that rests on the type of `Config.errorPattern`, the model's choice (log 28).
-/
def Obligations.SectorRoundTrip : Prop :=
  ∀ (data : List Byte) (track sector id1 id2 : Byte) (err : Nat), data.length = 256 →
    (encodeSector data track sector id1 id2 err).length = 354 ∧
    (err = 0 ∨ err = 27 → decodeSector (((encodeSector data track sector id1 id2 err).drop 29).take 325) = data)

/-- R647: clock recovery on a track of zeros: the engine delivers 0001 for ever, every byte it latches is $11, and no sync
is ever seen. -/
def Obligations.ClockRecovery : Prop :=
  ∀ (s : State) (n : Nat), s.params.noiseEnabled = false → s.rot.writing = false → s.rot.zc = 0 →
    s.rot.bitCounter = 0 → (∀ t ∈ s.disk.tracks, ∀ b ∈ t.bytes, b = 0) →
    (s.passBits (n + 1)).rot.history.getLsbD 0 = decide (n % 4 = 3) ∧ (s.passBits (n + 1)).rot.history ≠ 0x3FF ∧
    (s.passBits (8 * (n + 1))).rot.readLatch = 0x11
end

