-- ==== Sys2Proof/Laws/State.lean ====
section
/-! SUPPORT. One lemma for each field and each named update of State, true by rfl. -/

namespace Sys2Proof.Machine

/-! ### setA -/

@[simp] theorem State.setA_cpu_a (s : State) (v : Byte) : (s.setA v).cpu.a = v := rfl
@[simp] theorem State.setA_cpu_x (s : State) (v : Byte) : (s.setA v).cpu.x = s.cpu.x := rfl
@[simp] theorem State.setA_cpu_y (s : State) (v : Byte) : (s.setA v).cpu.y = s.cpu.y := rfl
@[simp] theorem State.setA_cpu_s (s : State) (v : Byte) : (s.setA v).cpu.s = s.cpu.s := rfl
@[simp] theorem State.setA_cpu_pc (s : State) (v : Byte) : (s.setA v).cpu.pc = s.cpu.pc := rfl
@[simp] theorem State.setA_cpu_p (s : State) (v : Byte) : (s.setA v).cpu.p = s.cpu.p := rfl
@[simp] theorem State.setA_sq (s : State) (v : Byte) : (s.setA v).sq = s.sq := rfl
@[simp] theorem State.setA_irq (s : State) (v : Byte) : (s.setA v).irq = s.irq := rfl
@[simp] theorem State.setA_busHold (s : State) (v : Byte) : (s.setA v).busHold = s.busHold := rfl
@[simp] theorem State.setA_mem (s : State) (v : Byte) : (s.setA v).mem = s.mem := rfl
@[simp] theorem State.setA_via1 (s : State) (v : Byte) : (s.setA v).via1 = s.via1 := rfl
@[simp] theorem State.setA_via2 (s : State) (v : Byte) : (s.setA v).via2 = s.via2 := rfl
@[simp] theorem State.setA_mech (s : State) (v : Byte) : (s.setA v).mech = s.mech := rfl
@[simp] theorem State.setA_disk (s : State) (v : Byte) : (s.setA v).disk = s.disk := rfl
@[simp] theorem State.setA_rot (s : State) (v : Byte) : (s.setA v).rot = s.rot := rfl
@[simp] theorem State.setA_params (s : State) (v : Byte) : (s.setA v).params = s.params := rfl
@[simp] theorem State.setA_tick (s : State) (v : Byte) : (s.setA v).tick = s.tick := rfl
@[simp] theorem State.setA_half (s : State) (v : Byte) : (s.setA v).half = s.half := rfl
@[simp] theorem State.setA_agenda (s : State) (v : Byte) : (s.setA v).agenda = s.agenda := rfl
@[simp] theorem State.setA_draws (s : State) (v : Byte) : (s.setA v).draws = s.draws := rfl
@[simp] theorem State.setA_bus (s : State) (v : Byte) : (s.setA v).bus = s.bus := rfl
@[simp] theorem State.setA_calls (s : State) (v : Byte) : (s.setA v).calls = s.calls := rfl
@[simp] theorem State.setA_stopped (s : State) (v : Byte) : (s.setA v).stopped = s.stopped := rfl

/-! ### setX -/

@[simp] theorem State.setX_cpu_a (s : State) (v : Byte) : (s.setX v).cpu.a = s.cpu.a := rfl
@[simp] theorem State.setX_cpu_x (s : State) (v : Byte) : (s.setX v).cpu.x = v := rfl
@[simp] theorem State.setX_cpu_y (s : State) (v : Byte) : (s.setX v).cpu.y = s.cpu.y := rfl
@[simp] theorem State.setX_cpu_s (s : State) (v : Byte) : (s.setX v).cpu.s = s.cpu.s := rfl
@[simp] theorem State.setX_cpu_pc (s : State) (v : Byte) : (s.setX v).cpu.pc = s.cpu.pc := rfl
@[simp] theorem State.setX_cpu_p (s : State) (v : Byte) : (s.setX v).cpu.p = s.cpu.p := rfl
@[simp] theorem State.setX_sq (s : State) (v : Byte) : (s.setX v).sq = s.sq := rfl
@[simp] theorem State.setX_irq (s : State) (v : Byte) : (s.setX v).irq = s.irq := rfl
@[simp] theorem State.setX_busHold (s : State) (v : Byte) : (s.setX v).busHold = s.busHold := rfl
@[simp] theorem State.setX_mem (s : State) (v : Byte) : (s.setX v).mem = s.mem := rfl
@[simp] theorem State.setX_via1 (s : State) (v : Byte) : (s.setX v).via1 = s.via1 := rfl
@[simp] theorem State.setX_via2 (s : State) (v : Byte) : (s.setX v).via2 = s.via2 := rfl
@[simp] theorem State.setX_mech (s : State) (v : Byte) : (s.setX v).mech = s.mech := rfl
@[simp] theorem State.setX_disk (s : State) (v : Byte) : (s.setX v).disk = s.disk := rfl
@[simp] theorem State.setX_rot (s : State) (v : Byte) : (s.setX v).rot = s.rot := rfl
@[simp] theorem State.setX_params (s : State) (v : Byte) : (s.setX v).params = s.params := rfl
@[simp] theorem State.setX_tick (s : State) (v : Byte) : (s.setX v).tick = s.tick := rfl
@[simp] theorem State.setX_half (s : State) (v : Byte) : (s.setX v).half = s.half := rfl
@[simp] theorem State.setX_agenda (s : State) (v : Byte) : (s.setX v).agenda = s.agenda := rfl
@[simp] theorem State.setX_draws (s : State) (v : Byte) : (s.setX v).draws = s.draws := rfl
@[simp] theorem State.setX_bus (s : State) (v : Byte) : (s.setX v).bus = s.bus := rfl
@[simp] theorem State.setX_calls (s : State) (v : Byte) : (s.setX v).calls = s.calls := rfl
@[simp] theorem State.setX_stopped (s : State) (v : Byte) : (s.setX v).stopped = s.stopped := rfl

/-! ### setY -/

@[simp] theorem State.setY_cpu_a (s : State) (v : Byte) : (s.setY v).cpu.a = s.cpu.a := rfl
@[simp] theorem State.setY_cpu_x (s : State) (v : Byte) : (s.setY v).cpu.x = s.cpu.x := rfl
@[simp] theorem State.setY_cpu_y (s : State) (v : Byte) : (s.setY v).cpu.y = v := rfl
@[simp] theorem State.setY_cpu_s (s : State) (v : Byte) : (s.setY v).cpu.s = s.cpu.s := rfl
@[simp] theorem State.setY_cpu_pc (s : State) (v : Byte) : (s.setY v).cpu.pc = s.cpu.pc := rfl
@[simp] theorem State.setY_cpu_p (s : State) (v : Byte) : (s.setY v).cpu.p = s.cpu.p := rfl
@[simp] theorem State.setY_sq (s : State) (v : Byte) : (s.setY v).sq = s.sq := rfl
@[simp] theorem State.setY_irq (s : State) (v : Byte) : (s.setY v).irq = s.irq := rfl
@[simp] theorem State.setY_busHold (s : State) (v : Byte) : (s.setY v).busHold = s.busHold := rfl
@[simp] theorem State.setY_mem (s : State) (v : Byte) : (s.setY v).mem = s.mem := rfl
@[simp] theorem State.setY_via1 (s : State) (v : Byte) : (s.setY v).via1 = s.via1 := rfl
@[simp] theorem State.setY_via2 (s : State) (v : Byte) : (s.setY v).via2 = s.via2 := rfl
@[simp] theorem State.setY_mech (s : State) (v : Byte) : (s.setY v).mech = s.mech := rfl
@[simp] theorem State.setY_disk (s : State) (v : Byte) : (s.setY v).disk = s.disk := rfl
@[simp] theorem State.setY_rot (s : State) (v : Byte) : (s.setY v).rot = s.rot := rfl
@[simp] theorem State.setY_params (s : State) (v : Byte) : (s.setY v).params = s.params := rfl
@[simp] theorem State.setY_tick (s : State) (v : Byte) : (s.setY v).tick = s.tick := rfl
@[simp] theorem State.setY_half (s : State) (v : Byte) : (s.setY v).half = s.half := rfl
@[simp] theorem State.setY_agenda (s : State) (v : Byte) : (s.setY v).agenda = s.agenda := rfl
@[simp] theorem State.setY_draws (s : State) (v : Byte) : (s.setY v).draws = s.draws := rfl
@[simp] theorem State.setY_bus (s : State) (v : Byte) : (s.setY v).bus = s.bus := rfl
@[simp] theorem State.setY_calls (s : State) (v : Byte) : (s.setY v).calls = s.calls := rfl
@[simp] theorem State.setY_stopped (s : State) (v : Byte) : (s.setY v).stopped = s.stopped := rfl

/-! ### setS -/

@[simp] theorem State.setS_cpu_a (s : State) (v : Byte) : (s.setS v).cpu.a = s.cpu.a := rfl
@[simp] theorem State.setS_cpu_x (s : State) (v : Byte) : (s.setS v).cpu.x = s.cpu.x := rfl
@[simp] theorem State.setS_cpu_y (s : State) (v : Byte) : (s.setS v).cpu.y = s.cpu.y := rfl
@[simp] theorem State.setS_cpu_s (s : State) (v : Byte) : (s.setS v).cpu.s = v := rfl
@[simp] theorem State.setS_cpu_pc (s : State) (v : Byte) : (s.setS v).cpu.pc = s.cpu.pc := rfl
@[simp] theorem State.setS_cpu_p (s : State) (v : Byte) : (s.setS v).cpu.p = s.cpu.p := rfl
@[simp] theorem State.setS_sq (s : State) (v : Byte) : (s.setS v).sq = s.sq := rfl
@[simp] theorem State.setS_irq (s : State) (v : Byte) : (s.setS v).irq = s.irq := rfl
@[simp] theorem State.setS_busHold (s : State) (v : Byte) : (s.setS v).busHold = s.busHold := rfl
@[simp] theorem State.setS_mem (s : State) (v : Byte) : (s.setS v).mem = s.mem := rfl
@[simp] theorem State.setS_via1 (s : State) (v : Byte) : (s.setS v).via1 = s.via1 := rfl
@[simp] theorem State.setS_via2 (s : State) (v : Byte) : (s.setS v).via2 = s.via2 := rfl
@[simp] theorem State.setS_mech (s : State) (v : Byte) : (s.setS v).mech = s.mech := rfl
@[simp] theorem State.setS_disk (s : State) (v : Byte) : (s.setS v).disk = s.disk := rfl
@[simp] theorem State.setS_rot (s : State) (v : Byte) : (s.setS v).rot = s.rot := rfl
@[simp] theorem State.setS_params (s : State) (v : Byte) : (s.setS v).params = s.params := rfl
@[simp] theorem State.setS_tick (s : State) (v : Byte) : (s.setS v).tick = s.tick := rfl
@[simp] theorem State.setS_half (s : State) (v : Byte) : (s.setS v).half = s.half := rfl
@[simp] theorem State.setS_agenda (s : State) (v : Byte) : (s.setS v).agenda = s.agenda := rfl
@[simp] theorem State.setS_draws (s : State) (v : Byte) : (s.setS v).draws = s.draws := rfl
@[simp] theorem State.setS_bus (s : State) (v : Byte) : (s.setS v).bus = s.bus := rfl
@[simp] theorem State.setS_calls (s : State) (v : Byte) : (s.setS v).calls = s.calls := rfl
@[simp] theorem State.setS_stopped (s : State) (v : Byte) : (s.setS v).stopped = s.stopped := rfl

/-! ### setPC -/

@[simp] theorem State.setPC_cpu_a (s : State) (v : Word) : (s.setPC v).cpu.a = s.cpu.a := rfl
@[simp] theorem State.setPC_cpu_x (s : State) (v : Word) : (s.setPC v).cpu.x = s.cpu.x := rfl
@[simp] theorem State.setPC_cpu_y (s : State) (v : Word) : (s.setPC v).cpu.y = s.cpu.y := rfl
@[simp] theorem State.setPC_cpu_s (s : State) (v : Word) : (s.setPC v).cpu.s = s.cpu.s := rfl
@[simp] theorem State.setPC_cpu_pc (s : State) (v : Word) : (s.setPC v).cpu.pc = v := rfl
@[simp] theorem State.setPC_cpu_p (s : State) (v : Word) : (s.setPC v).cpu.p = s.cpu.p := rfl
@[simp] theorem State.setPC_sq (s : State) (v : Word) : (s.setPC v).sq = s.sq := rfl
@[simp] theorem State.setPC_irq (s : State) (v : Word) : (s.setPC v).irq = s.irq := rfl
@[simp] theorem State.setPC_busHold (s : State) (v : Word) : (s.setPC v).busHold = s.busHold := rfl
@[simp] theorem State.setPC_mem (s : State) (v : Word) : (s.setPC v).mem = s.mem := rfl
@[simp] theorem State.setPC_via1 (s : State) (v : Word) : (s.setPC v).via1 = s.via1 := rfl
@[simp] theorem State.setPC_via2 (s : State) (v : Word) : (s.setPC v).via2 = s.via2 := rfl
@[simp] theorem State.setPC_mech (s : State) (v : Word) : (s.setPC v).mech = s.mech := rfl
@[simp] theorem State.setPC_disk (s : State) (v : Word) : (s.setPC v).disk = s.disk := rfl
@[simp] theorem State.setPC_rot (s : State) (v : Word) : (s.setPC v).rot = s.rot := rfl
@[simp] theorem State.setPC_params (s : State) (v : Word) : (s.setPC v).params = s.params := rfl
@[simp] theorem State.setPC_tick (s : State) (v : Word) : (s.setPC v).tick = s.tick := rfl
@[simp] theorem State.setPC_half (s : State) (v : Word) : (s.setPC v).half = s.half := rfl
@[simp] theorem State.setPC_agenda (s : State) (v : Word) : (s.setPC v).agenda = s.agenda := rfl
@[simp] theorem State.setPC_draws (s : State) (v : Word) : (s.setPC v).draws = s.draws := rfl
@[simp] theorem State.setPC_bus (s : State) (v : Word) : (s.setPC v).bus = s.bus := rfl
@[simp] theorem State.setPC_calls (s : State) (v : Word) : (s.setPC v).calls = s.calls := rfl
@[simp] theorem State.setPC_stopped (s : State) (v : Word) : (s.setPC v).stopped = s.stopped := rfl

/-! ### setN -/

@[simp] theorem State.setN_cpu_a (s : State) (v : Bool) : (s.setN v).cpu.a = s.cpu.a := rfl
@[simp] theorem State.setN_cpu_x (s : State) (v : Bool) : (s.setN v).cpu.x = s.cpu.x := rfl
@[simp] theorem State.setN_cpu_y (s : State) (v : Bool) : (s.setN v).cpu.y = s.cpu.y := rfl
@[simp] theorem State.setN_cpu_s (s : State) (v : Bool) : (s.setN v).cpu.s = s.cpu.s := rfl
@[simp] theorem State.setN_cpu_pc (s : State) (v : Bool) : (s.setN v).cpu.pc = s.cpu.pc := rfl
@[simp] theorem State.setN_cpu_p_n (s : State) (v : Bool) : (s.setN v).cpu.p.n = v := rfl
@[simp] theorem State.setN_cpu_p_v (s : State) (v : Bool) : (s.setN v).cpu.p.v = s.cpu.p.v := rfl
@[simp] theorem State.setN_cpu_p_u (s : State) (v : Bool) : (s.setN v).cpu.p.u = s.cpu.p.u := rfl
@[simp] theorem State.setN_cpu_p_b (s : State) (v : Bool) : (s.setN v).cpu.p.b = s.cpu.p.b := rfl
@[simp] theorem State.setN_cpu_p_d (s : State) (v : Bool) : (s.setN v).cpu.p.d = s.cpu.p.d := rfl
@[simp] theorem State.setN_cpu_p_i (s : State) (v : Bool) : (s.setN v).cpu.p.i = s.cpu.p.i := rfl
@[simp] theorem State.setN_cpu_p_z (s : State) (v : Bool) : (s.setN v).cpu.p.z = s.cpu.p.z := rfl
@[simp] theorem State.setN_cpu_p_c (s : State) (v : Bool) : (s.setN v).cpu.p.c = s.cpu.p.c := rfl
@[simp] theorem State.setN_sq (s : State) (v : Bool) : (s.setN v).sq = s.sq := rfl
@[simp] theorem State.setN_irq (s : State) (v : Bool) : (s.setN v).irq = s.irq := rfl
@[simp] theorem State.setN_busHold (s : State) (v : Bool) : (s.setN v).busHold = s.busHold := rfl
@[simp] theorem State.setN_mem (s : State) (v : Bool) : (s.setN v).mem = s.mem := rfl
@[simp] theorem State.setN_via1 (s : State) (v : Bool) : (s.setN v).via1 = s.via1 := rfl
@[simp] theorem State.setN_via2 (s : State) (v : Bool) : (s.setN v).via2 = s.via2 := rfl
@[simp] theorem State.setN_mech (s : State) (v : Bool) : (s.setN v).mech = s.mech := rfl
@[simp] theorem State.setN_disk (s : State) (v : Bool) : (s.setN v).disk = s.disk := rfl
@[simp] theorem State.setN_rot (s : State) (v : Bool) : (s.setN v).rot = s.rot := rfl
@[simp] theorem State.setN_params (s : State) (v : Bool) : (s.setN v).params = s.params := rfl
@[simp] theorem State.setN_tick (s : State) (v : Bool) : (s.setN v).tick = s.tick := rfl
@[simp] theorem State.setN_half (s : State) (v : Bool) : (s.setN v).half = s.half := rfl
@[simp] theorem State.setN_agenda (s : State) (v : Bool) : (s.setN v).agenda = s.agenda := rfl
@[simp] theorem State.setN_draws (s : State) (v : Bool) : (s.setN v).draws = s.draws := rfl
@[simp] theorem State.setN_bus (s : State) (v : Bool) : (s.setN v).bus = s.bus := rfl
@[simp] theorem State.setN_calls (s : State) (v : Bool) : (s.setN v).calls = s.calls := rfl
@[simp] theorem State.setN_stopped (s : State) (v : Bool) : (s.setN v).stopped = s.stopped := rfl

/-! ### setV -/

@[simp] theorem State.setV_cpu_a (s : State) (v : Bool) : (s.setV v).cpu.a = s.cpu.a := rfl
@[simp] theorem State.setV_cpu_x (s : State) (v : Bool) : (s.setV v).cpu.x = s.cpu.x := rfl
@[simp] theorem State.setV_cpu_y (s : State) (v : Bool) : (s.setV v).cpu.y = s.cpu.y := rfl
@[simp] theorem State.setV_cpu_s (s : State) (v : Bool) : (s.setV v).cpu.s = s.cpu.s := rfl
@[simp] theorem State.setV_cpu_pc (s : State) (v : Bool) : (s.setV v).cpu.pc = s.cpu.pc := rfl
@[simp] theorem State.setV_cpu_p_n (s : State) (v : Bool) : (s.setV v).cpu.p.n = s.cpu.p.n := rfl
@[simp] theorem State.setV_cpu_p_v (s : State) (v : Bool) : (s.setV v).cpu.p.v = v := rfl
@[simp] theorem State.setV_cpu_p_u (s : State) (v : Bool) : (s.setV v).cpu.p.u = s.cpu.p.u := rfl
@[simp] theorem State.setV_cpu_p_b (s : State) (v : Bool) : (s.setV v).cpu.p.b = s.cpu.p.b := rfl
@[simp] theorem State.setV_cpu_p_d (s : State) (v : Bool) : (s.setV v).cpu.p.d = s.cpu.p.d := rfl
@[simp] theorem State.setV_cpu_p_i (s : State) (v : Bool) : (s.setV v).cpu.p.i = s.cpu.p.i := rfl
@[simp] theorem State.setV_cpu_p_z (s : State) (v : Bool) : (s.setV v).cpu.p.z = s.cpu.p.z := rfl
@[simp] theorem State.setV_cpu_p_c (s : State) (v : Bool) : (s.setV v).cpu.p.c = s.cpu.p.c := rfl
@[simp] theorem State.setV_sq (s : State) (v : Bool) : (s.setV v).sq = s.sq := rfl
@[simp] theorem State.setV_irq (s : State) (v : Bool) : (s.setV v).irq = s.irq := rfl
@[simp] theorem State.setV_busHold (s : State) (v : Bool) : (s.setV v).busHold = s.busHold := rfl
@[simp] theorem State.setV_mem (s : State) (v : Bool) : (s.setV v).mem = s.mem := rfl
@[simp] theorem State.setV_via1 (s : State) (v : Bool) : (s.setV v).via1 = s.via1 := rfl
@[simp] theorem State.setV_via2 (s : State) (v : Bool) : (s.setV v).via2 = s.via2 := rfl
@[simp] theorem State.setV_mech (s : State) (v : Bool) : (s.setV v).mech = s.mech := rfl
@[simp] theorem State.setV_disk (s : State) (v : Bool) : (s.setV v).disk = s.disk := rfl
@[simp] theorem State.setV_rot (s : State) (v : Bool) : (s.setV v).rot = s.rot := rfl
@[simp] theorem State.setV_params (s : State) (v : Bool) : (s.setV v).params = s.params := rfl
@[simp] theorem State.setV_tick (s : State) (v : Bool) : (s.setV v).tick = s.tick := rfl
@[simp] theorem State.setV_half (s : State) (v : Bool) : (s.setV v).half = s.half := rfl
@[simp] theorem State.setV_agenda (s : State) (v : Bool) : (s.setV v).agenda = s.agenda := rfl
@[simp] theorem State.setV_draws (s : State) (v : Bool) : (s.setV v).draws = s.draws := rfl
@[simp] theorem State.setV_bus (s : State) (v : Bool) : (s.setV v).bus = s.bus := rfl
@[simp] theorem State.setV_calls (s : State) (v : Bool) : (s.setV v).calls = s.calls := rfl
@[simp] theorem State.setV_stopped (s : State) (v : Bool) : (s.setV v).stopped = s.stopped := rfl

/-! ### setD -/

@[simp] theorem State.setD_cpu_a (s : State) (v : Bool) : (s.setD v).cpu.a = s.cpu.a := rfl
@[simp] theorem State.setD_cpu_x (s : State) (v : Bool) : (s.setD v).cpu.x = s.cpu.x := rfl
@[simp] theorem State.setD_cpu_y (s : State) (v : Bool) : (s.setD v).cpu.y = s.cpu.y := rfl
@[simp] theorem State.setD_cpu_s (s : State) (v : Bool) : (s.setD v).cpu.s = s.cpu.s := rfl
@[simp] theorem State.setD_cpu_pc (s : State) (v : Bool) : (s.setD v).cpu.pc = s.cpu.pc := rfl
@[simp] theorem State.setD_cpu_p_n (s : State) (v : Bool) : (s.setD v).cpu.p.n = s.cpu.p.n := rfl
@[simp] theorem State.setD_cpu_p_v (s : State) (v : Bool) : (s.setD v).cpu.p.v = s.cpu.p.v := rfl
@[simp] theorem State.setD_cpu_p_u (s : State) (v : Bool) : (s.setD v).cpu.p.u = s.cpu.p.u := rfl
@[simp] theorem State.setD_cpu_p_b (s : State) (v : Bool) : (s.setD v).cpu.p.b = s.cpu.p.b := rfl
@[simp] theorem State.setD_cpu_p_d (s : State) (v : Bool) : (s.setD v).cpu.p.d = v := rfl
@[simp] theorem State.setD_cpu_p_i (s : State) (v : Bool) : (s.setD v).cpu.p.i = s.cpu.p.i := rfl
@[simp] theorem State.setD_cpu_p_z (s : State) (v : Bool) : (s.setD v).cpu.p.z = s.cpu.p.z := rfl
@[simp] theorem State.setD_cpu_p_c (s : State) (v : Bool) : (s.setD v).cpu.p.c = s.cpu.p.c := rfl
@[simp] theorem State.setD_sq (s : State) (v : Bool) : (s.setD v).sq = s.sq := rfl
@[simp] theorem State.setD_irq (s : State) (v : Bool) : (s.setD v).irq = s.irq := rfl
@[simp] theorem State.setD_busHold (s : State) (v : Bool) : (s.setD v).busHold = s.busHold := rfl
@[simp] theorem State.setD_mem (s : State) (v : Bool) : (s.setD v).mem = s.mem := rfl
@[simp] theorem State.setD_via1 (s : State) (v : Bool) : (s.setD v).via1 = s.via1 := rfl
@[simp] theorem State.setD_via2 (s : State) (v : Bool) : (s.setD v).via2 = s.via2 := rfl
@[simp] theorem State.setD_mech (s : State) (v : Bool) : (s.setD v).mech = s.mech := rfl
@[simp] theorem State.setD_disk (s : State) (v : Bool) : (s.setD v).disk = s.disk := rfl
@[simp] theorem State.setD_rot (s : State) (v : Bool) : (s.setD v).rot = s.rot := rfl
@[simp] theorem State.setD_params (s : State) (v : Bool) : (s.setD v).params = s.params := rfl
@[simp] theorem State.setD_tick (s : State) (v : Bool) : (s.setD v).tick = s.tick := rfl
@[simp] theorem State.setD_half (s : State) (v : Bool) : (s.setD v).half = s.half := rfl
@[simp] theorem State.setD_agenda (s : State) (v : Bool) : (s.setD v).agenda = s.agenda := rfl
@[simp] theorem State.setD_draws (s : State) (v : Bool) : (s.setD v).draws = s.draws := rfl
@[simp] theorem State.setD_bus (s : State) (v : Bool) : (s.setD v).bus = s.bus := rfl
@[simp] theorem State.setD_calls (s : State) (v : Bool) : (s.setD v).calls = s.calls := rfl
@[simp] theorem State.setD_stopped (s : State) (v : Bool) : (s.setD v).stopped = s.stopped := rfl

/-! ### setI -/

@[simp] theorem State.setI_cpu_a (s : State) (v : Bool) : (s.setI v).cpu.a = s.cpu.a := rfl
@[simp] theorem State.setI_cpu_x (s : State) (v : Bool) : (s.setI v).cpu.x = s.cpu.x := rfl
@[simp] theorem State.setI_cpu_y (s : State) (v : Bool) : (s.setI v).cpu.y = s.cpu.y := rfl
@[simp] theorem State.setI_cpu_s (s : State) (v : Bool) : (s.setI v).cpu.s = s.cpu.s := rfl
@[simp] theorem State.setI_cpu_pc (s : State) (v : Bool) : (s.setI v).cpu.pc = s.cpu.pc := rfl
@[simp] theorem State.setI_cpu_p_n (s : State) (v : Bool) : (s.setI v).cpu.p.n = s.cpu.p.n := rfl
@[simp] theorem State.setI_cpu_p_v (s : State) (v : Bool) : (s.setI v).cpu.p.v = s.cpu.p.v := rfl
@[simp] theorem State.setI_cpu_p_u (s : State) (v : Bool) : (s.setI v).cpu.p.u = s.cpu.p.u := rfl
@[simp] theorem State.setI_cpu_p_b (s : State) (v : Bool) : (s.setI v).cpu.p.b = s.cpu.p.b := rfl
@[simp] theorem State.setI_cpu_p_d (s : State) (v : Bool) : (s.setI v).cpu.p.d = s.cpu.p.d := rfl
@[simp] theorem State.setI_cpu_p_i (s : State) (v : Bool) : (s.setI v).cpu.p.i = v := rfl
@[simp] theorem State.setI_cpu_p_z (s : State) (v : Bool) : (s.setI v).cpu.p.z = s.cpu.p.z := rfl
@[simp] theorem State.setI_cpu_p_c (s : State) (v : Bool) : (s.setI v).cpu.p.c = s.cpu.p.c := rfl
@[simp] theorem State.setI_sq (s : State) (v : Bool) : (s.setI v).sq = s.sq := rfl
@[simp] theorem State.setI_irq (s : State) (v : Bool) : (s.setI v).irq = s.irq := rfl
@[simp] theorem State.setI_busHold (s : State) (v : Bool) : (s.setI v).busHold = s.busHold := rfl
@[simp] theorem State.setI_mem (s : State) (v : Bool) : (s.setI v).mem = s.mem := rfl
@[simp] theorem State.setI_via1 (s : State) (v : Bool) : (s.setI v).via1 = s.via1 := rfl
@[simp] theorem State.setI_via2 (s : State) (v : Bool) : (s.setI v).via2 = s.via2 := rfl
@[simp] theorem State.setI_mech (s : State) (v : Bool) : (s.setI v).mech = s.mech := rfl
@[simp] theorem State.setI_disk (s : State) (v : Bool) : (s.setI v).disk = s.disk := rfl
@[simp] theorem State.setI_rot (s : State) (v : Bool) : (s.setI v).rot = s.rot := rfl
@[simp] theorem State.setI_params (s : State) (v : Bool) : (s.setI v).params = s.params := rfl
@[simp] theorem State.setI_tick (s : State) (v : Bool) : (s.setI v).tick = s.tick := rfl
@[simp] theorem State.setI_half (s : State) (v : Bool) : (s.setI v).half = s.half := rfl
@[simp] theorem State.setI_agenda (s : State) (v : Bool) : (s.setI v).agenda = s.agenda := rfl
@[simp] theorem State.setI_draws (s : State) (v : Bool) : (s.setI v).draws = s.draws := rfl
@[simp] theorem State.setI_bus (s : State) (v : Bool) : (s.setI v).bus = s.bus := rfl
@[simp] theorem State.setI_calls (s : State) (v : Bool) : (s.setI v).calls = s.calls := rfl
@[simp] theorem State.setI_stopped (s : State) (v : Bool) : (s.setI v).stopped = s.stopped := rfl

/-! ### setZ -/

@[simp] theorem State.setZ_cpu_a (s : State) (v : Bool) : (s.setZ v).cpu.a = s.cpu.a := rfl
@[simp] theorem State.setZ_cpu_x (s : State) (v : Bool) : (s.setZ v).cpu.x = s.cpu.x := rfl
@[simp] theorem State.setZ_cpu_y (s : State) (v : Bool) : (s.setZ v).cpu.y = s.cpu.y := rfl
@[simp] theorem State.setZ_cpu_s (s : State) (v : Bool) : (s.setZ v).cpu.s = s.cpu.s := rfl
@[simp] theorem State.setZ_cpu_pc (s : State) (v : Bool) : (s.setZ v).cpu.pc = s.cpu.pc := rfl
@[simp] theorem State.setZ_cpu_p_n (s : State) (v : Bool) : (s.setZ v).cpu.p.n = s.cpu.p.n := rfl
@[simp] theorem State.setZ_cpu_p_v (s : State) (v : Bool) : (s.setZ v).cpu.p.v = s.cpu.p.v := rfl
@[simp] theorem State.setZ_cpu_p_u (s : State) (v : Bool) : (s.setZ v).cpu.p.u = s.cpu.p.u := rfl
@[simp] theorem State.setZ_cpu_p_b (s : State) (v : Bool) : (s.setZ v).cpu.p.b = s.cpu.p.b := rfl
@[simp] theorem State.setZ_cpu_p_d (s : State) (v : Bool) : (s.setZ v).cpu.p.d = s.cpu.p.d := rfl
@[simp] theorem State.setZ_cpu_p_i (s : State) (v : Bool) : (s.setZ v).cpu.p.i = s.cpu.p.i := rfl
@[simp] theorem State.setZ_cpu_p_z (s : State) (v : Bool) : (s.setZ v).cpu.p.z = v := rfl
@[simp] theorem State.setZ_cpu_p_c (s : State) (v : Bool) : (s.setZ v).cpu.p.c = s.cpu.p.c := rfl
@[simp] theorem State.setZ_sq (s : State) (v : Bool) : (s.setZ v).sq = s.sq := rfl
@[simp] theorem State.setZ_irq (s : State) (v : Bool) : (s.setZ v).irq = s.irq := rfl
@[simp] theorem State.setZ_busHold (s : State) (v : Bool) : (s.setZ v).busHold = s.busHold := rfl
@[simp] theorem State.setZ_mem (s : State) (v : Bool) : (s.setZ v).mem = s.mem := rfl
@[simp] theorem State.setZ_via1 (s : State) (v : Bool) : (s.setZ v).via1 = s.via1 := rfl
@[simp] theorem State.setZ_via2 (s : State) (v : Bool) : (s.setZ v).via2 = s.via2 := rfl
@[simp] theorem State.setZ_mech (s : State) (v : Bool) : (s.setZ v).mech = s.mech := rfl
@[simp] theorem State.setZ_disk (s : State) (v : Bool) : (s.setZ v).disk = s.disk := rfl
@[simp] theorem State.setZ_rot (s : State) (v : Bool) : (s.setZ v).rot = s.rot := rfl
@[simp] theorem State.setZ_params (s : State) (v : Bool) : (s.setZ v).params = s.params := rfl
@[simp] theorem State.setZ_tick (s : State) (v : Bool) : (s.setZ v).tick = s.tick := rfl
@[simp] theorem State.setZ_half (s : State) (v : Bool) : (s.setZ v).half = s.half := rfl
@[simp] theorem State.setZ_agenda (s : State) (v : Bool) : (s.setZ v).agenda = s.agenda := rfl
@[simp] theorem State.setZ_draws (s : State) (v : Bool) : (s.setZ v).draws = s.draws := rfl
@[simp] theorem State.setZ_bus (s : State) (v : Bool) : (s.setZ v).bus = s.bus := rfl
@[simp] theorem State.setZ_calls (s : State) (v : Bool) : (s.setZ v).calls = s.calls := rfl
@[simp] theorem State.setZ_stopped (s : State) (v : Bool) : (s.setZ v).stopped = s.stopped := rfl

/-! ### setC -/

@[simp] theorem State.setC_cpu_a (s : State) (v : Bool) : (s.setC v).cpu.a = s.cpu.a := rfl
@[simp] theorem State.setC_cpu_x (s : State) (v : Bool) : (s.setC v).cpu.x = s.cpu.x := rfl
@[simp] theorem State.setC_cpu_y (s : State) (v : Bool) : (s.setC v).cpu.y = s.cpu.y := rfl
@[simp] theorem State.setC_cpu_s (s : State) (v : Bool) : (s.setC v).cpu.s = s.cpu.s := rfl
@[simp] theorem State.setC_cpu_pc (s : State) (v : Bool) : (s.setC v).cpu.pc = s.cpu.pc := rfl
@[simp] theorem State.setC_cpu_p_n (s : State) (v : Bool) : (s.setC v).cpu.p.n = s.cpu.p.n := rfl
@[simp] theorem State.setC_cpu_p_v (s : State) (v : Bool) : (s.setC v).cpu.p.v = s.cpu.p.v := rfl
@[simp] theorem State.setC_cpu_p_u (s : State) (v : Bool) : (s.setC v).cpu.p.u = s.cpu.p.u := rfl
@[simp] theorem State.setC_cpu_p_b (s : State) (v : Bool) : (s.setC v).cpu.p.b = s.cpu.p.b := rfl
@[simp] theorem State.setC_cpu_p_d (s : State) (v : Bool) : (s.setC v).cpu.p.d = s.cpu.p.d := rfl
@[simp] theorem State.setC_cpu_p_i (s : State) (v : Bool) : (s.setC v).cpu.p.i = s.cpu.p.i := rfl
@[simp] theorem State.setC_cpu_p_z (s : State) (v : Bool) : (s.setC v).cpu.p.z = s.cpu.p.z := rfl
@[simp] theorem State.setC_cpu_p_c (s : State) (v : Bool) : (s.setC v).cpu.p.c = v := rfl
@[simp] theorem State.setC_sq (s : State) (v : Bool) : (s.setC v).sq = s.sq := rfl
@[simp] theorem State.setC_irq (s : State) (v : Bool) : (s.setC v).irq = s.irq := rfl
@[simp] theorem State.setC_busHold (s : State) (v : Bool) : (s.setC v).busHold = s.busHold := rfl
@[simp] theorem State.setC_mem (s : State) (v : Bool) : (s.setC v).mem = s.mem := rfl
@[simp] theorem State.setC_via1 (s : State) (v : Bool) : (s.setC v).via1 = s.via1 := rfl
@[simp] theorem State.setC_via2 (s : State) (v : Bool) : (s.setC v).via2 = s.via2 := rfl
@[simp] theorem State.setC_mech (s : State) (v : Bool) : (s.setC v).mech = s.mech := rfl
@[simp] theorem State.setC_disk (s : State) (v : Bool) : (s.setC v).disk = s.disk := rfl
@[simp] theorem State.setC_rot (s : State) (v : Bool) : (s.setC v).rot = s.rot := rfl
@[simp] theorem State.setC_params (s : State) (v : Bool) : (s.setC v).params = s.params := rfl
@[simp] theorem State.setC_tick (s : State) (v : Bool) : (s.setC v).tick = s.tick := rfl
@[simp] theorem State.setC_half (s : State) (v : Bool) : (s.setC v).half = s.half := rfl
@[simp] theorem State.setC_agenda (s : State) (v : Bool) : (s.setC v).agenda = s.agenda := rfl
@[simp] theorem State.setC_draws (s : State) (v : Bool) : (s.setC v).draws = s.draws := rfl
@[simp] theorem State.setC_bus (s : State) (v : Bool) : (s.setC v).bus = s.bus := rfl
@[simp] theorem State.setC_calls (s : State) (v : Bool) : (s.setC v).calls = s.calls := rfl
@[simp] theorem State.setC_stopped (s : State) (v : Bool) : (s.setC v).stopped = s.stopped := rfl

/-! ### setUB -/

@[simp] theorem State.setUB_cpu_a (s : State) (u : Bool) (b : Bool) : (s.setUB u b).cpu.a = s.cpu.a := rfl
@[simp] theorem State.setUB_cpu_x (s : State) (u : Bool) (b : Bool) : (s.setUB u b).cpu.x = s.cpu.x := rfl
@[simp] theorem State.setUB_cpu_y (s : State) (u : Bool) (b : Bool) : (s.setUB u b).cpu.y = s.cpu.y := rfl
@[simp] theorem State.setUB_cpu_s (s : State) (u : Bool) (b : Bool) : (s.setUB u b).cpu.s = s.cpu.s := rfl
@[simp] theorem State.setUB_cpu_pc (s : State) (u : Bool) (b : Bool) : (s.setUB u b).cpu.pc = s.cpu.pc := rfl
@[simp] theorem State.setUB_cpu_p_n (s : State) (u : Bool) (b : Bool) : (s.setUB u b).cpu.p.n = s.cpu.p.n := rfl
@[simp] theorem State.setUB_cpu_p_v (s : State) (u : Bool) (b : Bool) : (s.setUB u b).cpu.p.v = s.cpu.p.v := rfl
@[simp] theorem State.setUB_cpu_p_u (s : State) (u : Bool) (b : Bool) : (s.setUB u b).cpu.p.u = u := rfl
@[simp] theorem State.setUB_cpu_p_b (s : State) (u : Bool) (b : Bool) : (s.setUB u b).cpu.p.b = b := rfl
@[simp] theorem State.setUB_cpu_p_d (s : State) (u : Bool) (b : Bool) : (s.setUB u b).cpu.p.d = s.cpu.p.d := rfl
@[simp] theorem State.setUB_cpu_p_i (s : State) (u : Bool) (b : Bool) : (s.setUB u b).cpu.p.i = s.cpu.p.i := rfl
@[simp] theorem State.setUB_cpu_p_z (s : State) (u : Bool) (b : Bool) : (s.setUB u b).cpu.p.z = s.cpu.p.z := rfl
@[simp] theorem State.setUB_cpu_p_c (s : State) (u : Bool) (b : Bool) : (s.setUB u b).cpu.p.c = s.cpu.p.c := rfl
@[simp] theorem State.setUB_sq (s : State) (u : Bool) (b : Bool) : (s.setUB u b).sq = s.sq := rfl
@[simp] theorem State.setUB_irq (s : State) (u : Bool) (b : Bool) : (s.setUB u b).irq = s.irq := rfl
@[simp] theorem State.setUB_busHold (s : State) (u : Bool) (b : Bool) : (s.setUB u b).busHold = s.busHold := rfl
@[simp] theorem State.setUB_mem (s : State) (u : Bool) (b : Bool) : (s.setUB u b).mem = s.mem := rfl
@[simp] theorem State.setUB_via1 (s : State) (u : Bool) (b : Bool) : (s.setUB u b).via1 = s.via1 := rfl
@[simp] theorem State.setUB_via2 (s : State) (u : Bool) (b : Bool) : (s.setUB u b).via2 = s.via2 := rfl
@[simp] theorem State.setUB_mech (s : State) (u : Bool) (b : Bool) : (s.setUB u b).mech = s.mech := rfl
@[simp] theorem State.setUB_disk (s : State) (u : Bool) (b : Bool) : (s.setUB u b).disk = s.disk := rfl
@[simp] theorem State.setUB_rot (s : State) (u : Bool) (b : Bool) : (s.setUB u b).rot = s.rot := rfl
@[simp] theorem State.setUB_params (s : State) (u : Bool) (b : Bool) : (s.setUB u b).params = s.params := rfl
@[simp] theorem State.setUB_tick (s : State) (u : Bool) (b : Bool) : (s.setUB u b).tick = s.tick := rfl
@[simp] theorem State.setUB_half (s : State) (u : Bool) (b : Bool) : (s.setUB u b).half = s.half := rfl
@[simp] theorem State.setUB_agenda (s : State) (u : Bool) (b : Bool) : (s.setUB u b).agenda = s.agenda := rfl
@[simp] theorem State.setUB_draws (s : State) (u : Bool) (b : Bool) : (s.setUB u b).draws = s.draws := rfl
@[simp] theorem State.setUB_bus (s : State) (u : Bool) (b : Bool) : (s.setUB u b).bus = s.bus := rfl
@[simp] theorem State.setUB_calls (s : State) (u : Bool) (b : Bool) : (s.setUB u b).calls = s.calls := rfl
@[simp] theorem State.setUB_stopped (s : State) (u : Bool) (b : Bool) : (s.setUB u b).stopped = s.stopped := rfl

/-! ### setEA -/

@[simp] theorem State.setEA_cpu (s : State) (v : Word) : (s.setEA v).cpu = s.cpu := rfl
@[simp] theorem State.setEA_sq_seq (s : State) (v : Word) : (s.setEA v).sq.seq = s.sq.seq := rfl
@[simp] theorem State.setEA_sq_ir (s : State) (v : Word) : (s.setEA v).sq.ir = s.sq.ir := rfl
@[simp] theorem State.setEA_sq_cyc (s : State) (v : Word) : (s.setEA v).sq.cyc = s.sq.cyc := rfl
@[simp] theorem State.setEA_sq_ea (s : State) (v : Word) : (s.setEA v).sq.ea = v := rfl
@[simp] theorem State.setEA_sq_ptr (s : State) (v : Word) : (s.setEA v).sq.ptr = s.sq.ptr := rfl
@[simp] theorem State.setEA_sq_data (s : State) (v : Word) : (s.setEA v).sq.data = s.sq.data := rfl
@[simp] theorem State.setEA_sq_bah (s : State) (v : Word) : (s.setEA v).sq.bah = s.sq.bah := rfl
@[simp] theorem State.setEA_sq_cross (s : State) (v : Word) : (s.setEA v).sq.cross = s.sq.cross := rfl
@[simp] theorem State.setEA_sq_off (s : State) (v : Word) : (s.setEA v).sq.off = s.sq.off := rfl
@[simp] theorem State.setEA_sq_vec (s : State) (v : Word) : (s.setEA v).sq.vec = s.sq.vec := rfl
@[simp] theorem State.setEA_sq_brkb (s : State) (v : Word) : (s.setEA v).sq.brkb = s.sq.brkb := rfl
@[simp] theorem State.setEA_sq_ichg (s : State) (v : Word) : (s.setEA v).sq.ichg = s.sq.ichg := rfl
@[simp] theorem State.setEA_sq_iprev (s : State) (v : Word) : (s.setEA v).sq.iprev = s.sq.iprev := rfl
@[simp] theorem State.setEA_sq_iprevKnown (s : State) (v : Word) : (s.setEA v).sq.iprevKnown = s.sq.iprevKnown := rfl
@[simp] theorem State.setEA_sq_shstall (s : State) (v : Word) : (s.setEA v).sq.shstall = s.sq.shstall := rfl
@[simp] theorem State.setEA_sq_lo (s : State) (v : Word) : (s.setEA v).sq.lo = s.sq.lo := rfl
@[simp] theorem State.setEA_sq_op1 (s : State) (v : Word) : (s.setEA v).sq.op1 = s.sq.op1 := rfl
@[simp] theorem State.setEA_sq_op2 (s : State) (v : Word) : (s.setEA v).sq.op2 = s.sq.op2 := rfl
@[simp] theorem State.setEA_irq (s : State) (v : Word) : (s.setEA v).irq = s.irq := rfl
@[simp] theorem State.setEA_busHold (s : State) (v : Word) : (s.setEA v).busHold = s.busHold := rfl
@[simp] theorem State.setEA_mem (s : State) (v : Word) : (s.setEA v).mem = s.mem := rfl
@[simp] theorem State.setEA_via1 (s : State) (v : Word) : (s.setEA v).via1 = s.via1 := rfl
@[simp] theorem State.setEA_via2 (s : State) (v : Word) : (s.setEA v).via2 = s.via2 := rfl
@[simp] theorem State.setEA_mech (s : State) (v : Word) : (s.setEA v).mech = s.mech := rfl
@[simp] theorem State.setEA_disk (s : State) (v : Word) : (s.setEA v).disk = s.disk := rfl
@[simp] theorem State.setEA_rot (s : State) (v : Word) : (s.setEA v).rot = s.rot := rfl
@[simp] theorem State.setEA_params (s : State) (v : Word) : (s.setEA v).params = s.params := rfl
@[simp] theorem State.setEA_tick (s : State) (v : Word) : (s.setEA v).tick = s.tick := rfl
@[simp] theorem State.setEA_half (s : State) (v : Word) : (s.setEA v).half = s.half := rfl
@[simp] theorem State.setEA_agenda (s : State) (v : Word) : (s.setEA v).agenda = s.agenda := rfl
@[simp] theorem State.setEA_draws (s : State) (v : Word) : (s.setEA v).draws = s.draws := rfl
@[simp] theorem State.setEA_bus (s : State) (v : Word) : (s.setEA v).bus = s.bus := rfl
@[simp] theorem State.setEA_calls (s : State) (v : Word) : (s.setEA v).calls = s.calls := rfl
@[simp] theorem State.setEA_stopped (s : State) (v : Word) : (s.setEA v).stopped = s.stopped := rfl

/-! ### setPTR -/

@[simp] theorem State.setPTR_cpu (s : State) (v : Byte) : (s.setPTR v).cpu = s.cpu := rfl
@[simp] theorem State.setPTR_sq_seq (s : State) (v : Byte) : (s.setPTR v).sq.seq = s.sq.seq := rfl
@[simp] theorem State.setPTR_sq_ir (s : State) (v : Byte) : (s.setPTR v).sq.ir = s.sq.ir := rfl
@[simp] theorem State.setPTR_sq_cyc (s : State) (v : Byte) : (s.setPTR v).sq.cyc = s.sq.cyc := rfl
@[simp] theorem State.setPTR_sq_ea (s : State) (v : Byte) : (s.setPTR v).sq.ea = s.sq.ea := rfl
@[simp] theorem State.setPTR_sq_ptr (s : State) (v : Byte) : (s.setPTR v).sq.ptr = v := rfl
@[simp] theorem State.setPTR_sq_data (s : State) (v : Byte) : (s.setPTR v).sq.data = s.sq.data := rfl
@[simp] theorem State.setPTR_sq_bah (s : State) (v : Byte) : (s.setPTR v).sq.bah = s.sq.bah := rfl
@[simp] theorem State.setPTR_sq_cross (s : State) (v : Byte) : (s.setPTR v).sq.cross = s.sq.cross := rfl
@[simp] theorem State.setPTR_sq_off (s : State) (v : Byte) : (s.setPTR v).sq.off = s.sq.off := rfl
@[simp] theorem State.setPTR_sq_vec (s : State) (v : Byte) : (s.setPTR v).sq.vec = s.sq.vec := rfl
@[simp] theorem State.setPTR_sq_brkb (s : State) (v : Byte) : (s.setPTR v).sq.brkb = s.sq.brkb := rfl
@[simp] theorem State.setPTR_sq_ichg (s : State) (v : Byte) : (s.setPTR v).sq.ichg = s.sq.ichg := rfl
@[simp] theorem State.setPTR_sq_iprev (s : State) (v : Byte) : (s.setPTR v).sq.iprev = s.sq.iprev := rfl
@[simp] theorem State.setPTR_sq_iprevKnown (s : State) (v : Byte) : (s.setPTR v).sq.iprevKnown = s.sq.iprevKnown := rfl
@[simp] theorem State.setPTR_sq_shstall (s : State) (v : Byte) : (s.setPTR v).sq.shstall = s.sq.shstall := rfl
@[simp] theorem State.setPTR_sq_lo (s : State) (v : Byte) : (s.setPTR v).sq.lo = s.sq.lo := rfl
@[simp] theorem State.setPTR_sq_op1 (s : State) (v : Byte) : (s.setPTR v).sq.op1 = s.sq.op1 := rfl
@[simp] theorem State.setPTR_sq_op2 (s : State) (v : Byte) : (s.setPTR v).sq.op2 = s.sq.op2 := rfl
@[simp] theorem State.setPTR_irq (s : State) (v : Byte) : (s.setPTR v).irq = s.irq := rfl
@[simp] theorem State.setPTR_busHold (s : State) (v : Byte) : (s.setPTR v).busHold = s.busHold := rfl
@[simp] theorem State.setPTR_mem (s : State) (v : Byte) : (s.setPTR v).mem = s.mem := rfl
@[simp] theorem State.setPTR_via1 (s : State) (v : Byte) : (s.setPTR v).via1 = s.via1 := rfl
@[simp] theorem State.setPTR_via2 (s : State) (v : Byte) : (s.setPTR v).via2 = s.via2 := rfl
@[simp] theorem State.setPTR_mech (s : State) (v : Byte) : (s.setPTR v).mech = s.mech := rfl
@[simp] theorem State.setPTR_disk (s : State) (v : Byte) : (s.setPTR v).disk = s.disk := rfl
@[simp] theorem State.setPTR_rot (s : State) (v : Byte) : (s.setPTR v).rot = s.rot := rfl
@[simp] theorem State.setPTR_params (s : State) (v : Byte) : (s.setPTR v).params = s.params := rfl
@[simp] theorem State.setPTR_tick (s : State) (v : Byte) : (s.setPTR v).tick = s.tick := rfl
@[simp] theorem State.setPTR_half (s : State) (v : Byte) : (s.setPTR v).half = s.half := rfl
@[simp] theorem State.setPTR_agenda (s : State) (v : Byte) : (s.setPTR v).agenda = s.agenda := rfl
@[simp] theorem State.setPTR_draws (s : State) (v : Byte) : (s.setPTR v).draws = s.draws := rfl
@[simp] theorem State.setPTR_bus (s : State) (v : Byte) : (s.setPTR v).bus = s.bus := rfl
@[simp] theorem State.setPTR_calls (s : State) (v : Byte) : (s.setPTR v).calls = s.calls := rfl
@[simp] theorem State.setPTR_stopped (s : State) (v : Byte) : (s.setPTR v).stopped = s.stopped := rfl

/-! ### setDATA -/

@[simp] theorem State.setDATA_cpu (s : State) (v : Byte) : (s.setDATA v).cpu = s.cpu := rfl
@[simp] theorem State.setDATA_sq_seq (s : State) (v : Byte) : (s.setDATA v).sq.seq = s.sq.seq := rfl
@[simp] theorem State.setDATA_sq_ir (s : State) (v : Byte) : (s.setDATA v).sq.ir = s.sq.ir := rfl
@[simp] theorem State.setDATA_sq_cyc (s : State) (v : Byte) : (s.setDATA v).sq.cyc = s.sq.cyc := rfl
@[simp] theorem State.setDATA_sq_ea (s : State) (v : Byte) : (s.setDATA v).sq.ea = s.sq.ea := rfl
@[simp] theorem State.setDATA_sq_ptr (s : State) (v : Byte) : (s.setDATA v).sq.ptr = s.sq.ptr := rfl
@[simp] theorem State.setDATA_sq_data (s : State) (v : Byte) : (s.setDATA v).sq.data = v := rfl
@[simp] theorem State.setDATA_sq_bah (s : State) (v : Byte) : (s.setDATA v).sq.bah = s.sq.bah := rfl
@[simp] theorem State.setDATA_sq_cross (s : State) (v : Byte) : (s.setDATA v).sq.cross = s.sq.cross := rfl
@[simp] theorem State.setDATA_sq_off (s : State) (v : Byte) : (s.setDATA v).sq.off = s.sq.off := rfl
@[simp] theorem State.setDATA_sq_vec (s : State) (v : Byte) : (s.setDATA v).sq.vec = s.sq.vec := rfl
@[simp] theorem State.setDATA_sq_brkb (s : State) (v : Byte) : (s.setDATA v).sq.brkb = s.sq.brkb := rfl
@[simp] theorem State.setDATA_sq_ichg (s : State) (v : Byte) : (s.setDATA v).sq.ichg = s.sq.ichg := rfl
@[simp] theorem State.setDATA_sq_iprev (s : State) (v : Byte) : (s.setDATA v).sq.iprev = s.sq.iprev := rfl
@[simp] theorem State.setDATA_sq_iprevKnown (s : State) (v : Byte) : (s.setDATA v).sq.iprevKnown = s.sq.iprevKnown := rfl
@[simp] theorem State.setDATA_sq_shstall (s : State) (v : Byte) : (s.setDATA v).sq.shstall = s.sq.shstall := rfl
@[simp] theorem State.setDATA_sq_lo (s : State) (v : Byte) : (s.setDATA v).sq.lo = s.sq.lo := rfl
@[simp] theorem State.setDATA_sq_op1 (s : State) (v : Byte) : (s.setDATA v).sq.op1 = s.sq.op1 := rfl
@[simp] theorem State.setDATA_sq_op2 (s : State) (v : Byte) : (s.setDATA v).sq.op2 = s.sq.op2 := rfl
@[simp] theorem State.setDATA_irq (s : State) (v : Byte) : (s.setDATA v).irq = s.irq := rfl
@[simp] theorem State.setDATA_busHold (s : State) (v : Byte) : (s.setDATA v).busHold = s.busHold := rfl
@[simp] theorem State.setDATA_mem (s : State) (v : Byte) : (s.setDATA v).mem = s.mem := rfl
@[simp] theorem State.setDATA_via1 (s : State) (v : Byte) : (s.setDATA v).via1 = s.via1 := rfl
@[simp] theorem State.setDATA_via2 (s : State) (v : Byte) : (s.setDATA v).via2 = s.via2 := rfl
@[simp] theorem State.setDATA_mech (s : State) (v : Byte) : (s.setDATA v).mech = s.mech := rfl
@[simp] theorem State.setDATA_disk (s : State) (v : Byte) : (s.setDATA v).disk = s.disk := rfl
@[simp] theorem State.setDATA_rot (s : State) (v : Byte) : (s.setDATA v).rot = s.rot := rfl
@[simp] theorem State.setDATA_params (s : State) (v : Byte) : (s.setDATA v).params = s.params := rfl
@[simp] theorem State.setDATA_tick (s : State) (v : Byte) : (s.setDATA v).tick = s.tick := rfl
@[simp] theorem State.setDATA_half (s : State) (v : Byte) : (s.setDATA v).half = s.half := rfl
@[simp] theorem State.setDATA_agenda (s : State) (v : Byte) : (s.setDATA v).agenda = s.agenda := rfl
@[simp] theorem State.setDATA_draws (s : State) (v : Byte) : (s.setDATA v).draws = s.draws := rfl
@[simp] theorem State.setDATA_bus (s : State) (v : Byte) : (s.setDATA v).bus = s.bus := rfl
@[simp] theorem State.setDATA_calls (s : State) (v : Byte) : (s.setDATA v).calls = s.calls := rfl
@[simp] theorem State.setDATA_stopped (s : State) (v : Byte) : (s.setDATA v).stopped = s.stopped := rfl

/-! ### setLo -/

@[simp] theorem State.setLo_cpu (s : State) (v : Byte) : (s.setLo v).cpu = s.cpu := rfl
@[simp] theorem State.setLo_sq_seq (s : State) (v : Byte) : (s.setLo v).sq.seq = s.sq.seq := rfl
@[simp] theorem State.setLo_sq_ir (s : State) (v : Byte) : (s.setLo v).sq.ir = s.sq.ir := rfl
@[simp] theorem State.setLo_sq_cyc (s : State) (v : Byte) : (s.setLo v).sq.cyc = s.sq.cyc := rfl
@[simp] theorem State.setLo_sq_ea (s : State) (v : Byte) : (s.setLo v).sq.ea = s.sq.ea := rfl
@[simp] theorem State.setLo_sq_ptr (s : State) (v : Byte) : (s.setLo v).sq.ptr = s.sq.ptr := rfl
@[simp] theorem State.setLo_sq_data (s : State) (v : Byte) : (s.setLo v).sq.data = s.sq.data := rfl
@[simp] theorem State.setLo_sq_bah (s : State) (v : Byte) : (s.setLo v).sq.bah = s.sq.bah := rfl
@[simp] theorem State.setLo_sq_cross (s : State) (v : Byte) : (s.setLo v).sq.cross = s.sq.cross := rfl
@[simp] theorem State.setLo_sq_off (s : State) (v : Byte) : (s.setLo v).sq.off = s.sq.off := rfl
@[simp] theorem State.setLo_sq_vec (s : State) (v : Byte) : (s.setLo v).sq.vec = s.sq.vec := rfl
@[simp] theorem State.setLo_sq_brkb (s : State) (v : Byte) : (s.setLo v).sq.brkb = s.sq.brkb := rfl
@[simp] theorem State.setLo_sq_ichg (s : State) (v : Byte) : (s.setLo v).sq.ichg = s.sq.ichg := rfl
@[simp] theorem State.setLo_sq_iprev (s : State) (v : Byte) : (s.setLo v).sq.iprev = s.sq.iprev := rfl
@[simp] theorem State.setLo_sq_iprevKnown (s : State) (v : Byte) : (s.setLo v).sq.iprevKnown = s.sq.iprevKnown := rfl
@[simp] theorem State.setLo_sq_shstall (s : State) (v : Byte) : (s.setLo v).sq.shstall = s.sq.shstall := rfl
@[simp] theorem State.setLo_sq_lo (s : State) (v : Byte) : (s.setLo v).sq.lo = v := rfl
@[simp] theorem State.setLo_sq_op1 (s : State) (v : Byte) : (s.setLo v).sq.op1 = s.sq.op1 := rfl
@[simp] theorem State.setLo_sq_op2 (s : State) (v : Byte) : (s.setLo v).sq.op2 = s.sq.op2 := rfl
@[simp] theorem State.setLo_irq (s : State) (v : Byte) : (s.setLo v).irq = s.irq := rfl
@[simp] theorem State.setLo_busHold (s : State) (v : Byte) : (s.setLo v).busHold = s.busHold := rfl
@[simp] theorem State.setLo_mem (s : State) (v : Byte) : (s.setLo v).mem = s.mem := rfl
@[simp] theorem State.setLo_via1 (s : State) (v : Byte) : (s.setLo v).via1 = s.via1 := rfl
@[simp] theorem State.setLo_via2 (s : State) (v : Byte) : (s.setLo v).via2 = s.via2 := rfl
@[simp] theorem State.setLo_mech (s : State) (v : Byte) : (s.setLo v).mech = s.mech := rfl
@[simp] theorem State.setLo_disk (s : State) (v : Byte) : (s.setLo v).disk = s.disk := rfl
@[simp] theorem State.setLo_rot (s : State) (v : Byte) : (s.setLo v).rot = s.rot := rfl
@[simp] theorem State.setLo_params (s : State) (v : Byte) : (s.setLo v).params = s.params := rfl
@[simp] theorem State.setLo_tick (s : State) (v : Byte) : (s.setLo v).tick = s.tick := rfl
@[simp] theorem State.setLo_half (s : State) (v : Byte) : (s.setLo v).half = s.half := rfl
@[simp] theorem State.setLo_agenda (s : State) (v : Byte) : (s.setLo v).agenda = s.agenda := rfl
@[simp] theorem State.setLo_draws (s : State) (v : Byte) : (s.setLo v).draws = s.draws := rfl
@[simp] theorem State.setLo_bus (s : State) (v : Byte) : (s.setLo v).bus = s.bus := rfl
@[simp] theorem State.setLo_calls (s : State) (v : Byte) : (s.setLo v).calls = s.calls := rfl
@[simp] theorem State.setLo_stopped (s : State) (v : Byte) : (s.setLo v).stopped = s.stopped := rfl

/-! ### nextCycle -/

@[simp] theorem State.nextCycle_cpu (s : State) : s.nextCycle.cpu = s.cpu := rfl
@[simp] theorem State.nextCycle_sq_seq (s : State) : s.nextCycle.sq.seq = s.sq.seq := rfl
@[simp] theorem State.nextCycle_sq_ir (s : State) : s.nextCycle.sq.ir = s.sq.ir := rfl
@[simp] theorem State.nextCycle_sq_cyc (s : State) : s.nextCycle.sq.cyc = s.sq.cyc + 1 := rfl
@[simp] theorem State.nextCycle_sq_ea (s : State) : s.nextCycle.sq.ea = s.sq.ea := rfl
@[simp] theorem State.nextCycle_sq_ptr (s : State) : s.nextCycle.sq.ptr = s.sq.ptr := rfl
@[simp] theorem State.nextCycle_sq_data (s : State) : s.nextCycle.sq.data = s.sq.data := rfl
@[simp] theorem State.nextCycle_sq_bah (s : State) : s.nextCycle.sq.bah = s.sq.bah := rfl
@[simp] theorem State.nextCycle_sq_cross (s : State) : s.nextCycle.sq.cross = s.sq.cross := rfl
@[simp] theorem State.nextCycle_sq_off (s : State) : s.nextCycle.sq.off = s.sq.off := rfl
@[simp] theorem State.nextCycle_sq_vec (s : State) : s.nextCycle.sq.vec = s.sq.vec := rfl
@[simp] theorem State.nextCycle_sq_brkb (s : State) : s.nextCycle.sq.brkb = s.sq.brkb := rfl
@[simp] theorem State.nextCycle_sq_ichg (s : State) : s.nextCycle.sq.ichg = s.sq.ichg := rfl
@[simp] theorem State.nextCycle_sq_iprev (s : State) : s.nextCycle.sq.iprev = s.sq.iprev := rfl
@[simp] theorem State.nextCycle_sq_iprevKnown (s : State) : s.nextCycle.sq.iprevKnown = s.sq.iprevKnown := rfl
@[simp] theorem State.nextCycle_sq_shstall (s : State) : s.nextCycle.sq.shstall = s.sq.shstall := rfl
@[simp] theorem State.nextCycle_sq_lo (s : State) : s.nextCycle.sq.lo = s.sq.lo := rfl
@[simp] theorem State.nextCycle_sq_op1 (s : State) : s.nextCycle.sq.op1 = s.sq.op1 := rfl
@[simp] theorem State.nextCycle_sq_op2 (s : State) : s.nextCycle.sq.op2 = s.sq.op2 := rfl
@[simp] theorem State.nextCycle_irq (s : State) : s.nextCycle.irq = s.irq := rfl
@[simp] theorem State.nextCycle_busHold (s : State) : s.nextCycle.busHold = s.busHold := rfl
@[simp] theorem State.nextCycle_mem (s : State) : s.nextCycle.mem = s.mem := rfl
@[simp] theorem State.nextCycle_via1 (s : State) : s.nextCycle.via1 = s.via1 := rfl
@[simp] theorem State.nextCycle_via2 (s : State) : s.nextCycle.via2 = s.via2 := rfl
@[simp] theorem State.nextCycle_mech (s : State) : s.nextCycle.mech = s.mech := rfl
@[simp] theorem State.nextCycle_disk (s : State) : s.nextCycle.disk = s.disk := rfl
@[simp] theorem State.nextCycle_rot (s : State) : s.nextCycle.rot = s.rot := rfl
@[simp] theorem State.nextCycle_params (s : State) : s.nextCycle.params = s.params := rfl
@[simp] theorem State.nextCycle_tick (s : State) : s.nextCycle.tick = s.tick := rfl
@[simp] theorem State.nextCycle_half (s : State) : s.nextCycle.half = s.half := rfl
@[simp] theorem State.nextCycle_agenda (s : State) : s.nextCycle.agenda = s.agenda := rfl
@[simp] theorem State.nextCycle_draws (s : State) : s.nextCycle.draws = s.draws := rfl
@[simp] theorem State.nextCycle_bus (s : State) : s.nextCycle.bus = s.bus := rfl
@[simp] theorem State.nextCycle_calls (s : State) : s.nextCycle.calls = s.calls := rfl
@[simp] theorem State.nextCycle_stopped (s : State) : s.nextCycle.stopped = s.stopped := rfl

/-! ### finish -/

@[simp] theorem State.finish_cpu (s : State) : s.finish.cpu = s.cpu := rfl
@[simp] theorem State.finish_sq_seq (s : State) : s.finish.sq.seq = .boundary := rfl
@[simp] theorem State.finish_sq_ir (s : State) : s.finish.sq.ir = s.sq.ir := rfl
@[simp] theorem State.finish_sq_cyc (s : State) : s.finish.sq.cyc = s.sq.cyc := rfl
@[simp] theorem State.finish_sq_ea (s : State) : s.finish.sq.ea = s.sq.ea := rfl
@[simp] theorem State.finish_sq_ptr (s : State) : s.finish.sq.ptr = s.sq.ptr := rfl
@[simp] theorem State.finish_sq_data (s : State) : s.finish.sq.data = s.sq.data := rfl
@[simp] theorem State.finish_sq_bah (s : State) : s.finish.sq.bah = s.sq.bah := rfl
@[simp] theorem State.finish_sq_cross (s : State) : s.finish.sq.cross = s.sq.cross := rfl
@[simp] theorem State.finish_sq_off (s : State) : s.finish.sq.off = s.sq.off := rfl
@[simp] theorem State.finish_sq_vec (s : State) : s.finish.sq.vec = s.sq.vec := rfl
@[simp] theorem State.finish_sq_brkb (s : State) : s.finish.sq.brkb = s.sq.brkb := rfl
@[simp] theorem State.finish_sq_ichg (s : State) : s.finish.sq.ichg = s.sq.ichg := rfl
@[simp] theorem State.finish_sq_iprev (s : State) : s.finish.sq.iprev = s.sq.iprev := rfl
@[simp] theorem State.finish_sq_iprevKnown (s : State) : s.finish.sq.iprevKnown = s.sq.iprevKnown := rfl
@[simp] theorem State.finish_sq_shstall (s : State) : s.finish.sq.shstall = s.sq.shstall := rfl
@[simp] theorem State.finish_sq_lo (s : State) : s.finish.sq.lo = s.sq.lo := rfl
@[simp] theorem State.finish_sq_op1 (s : State) : s.finish.sq.op1 = s.sq.op1 := rfl
@[simp] theorem State.finish_sq_op2 (s : State) : s.finish.sq.op2 = s.sq.op2 := rfl
@[simp] theorem State.finish_irq (s : State) : s.finish.irq = s.irq := rfl
@[simp] theorem State.finish_busHold (s : State) : s.finish.busHold = s.busHold := rfl
@[simp] theorem State.finish_mem (s : State) : s.finish.mem = s.mem := rfl
@[simp] theorem State.finish_via1 (s : State) : s.finish.via1 = s.via1 := rfl
@[simp] theorem State.finish_via2 (s : State) : s.finish.via2 = s.via2 := rfl
@[simp] theorem State.finish_mech (s : State) : s.finish.mech = s.mech := rfl
@[simp] theorem State.finish_disk (s : State) : s.finish.disk = s.disk := rfl
@[simp] theorem State.finish_rot (s : State) : s.finish.rot = s.rot := rfl
@[simp] theorem State.finish_params (s : State) : s.finish.params = s.params := rfl
@[simp] theorem State.finish_tick (s : State) : s.finish.tick = s.tick := rfl
@[simp] theorem State.finish_half (s : State) : s.finish.half = s.half := rfl
@[simp] theorem State.finish_agenda (s : State) : s.finish.agenda = s.agenda := rfl
@[simp] theorem State.finish_draws (s : State) : s.finish.draws = s.draws := rfl
@[simp] theorem State.finish_bus (s : State) : s.finish.bus = s.bus := rfl
@[simp] theorem State.finish_calls (s : State) : s.finish.calls = s.calls := rfl
@[simp] theorem State.finish_stopped (s : State) : s.finish.stopped = s.stopped := rfl

/-! ### poke -/

@[simp] theorem State.poke_cpu (s : State) (a : Word) (v : Byte) : (s.poke a v).cpu = s.cpu := rfl
@[simp] theorem State.poke_sq (s : State) (a : Word) (v : Byte) : (s.poke a v).sq = s.sq := rfl
@[simp] theorem State.poke_irq (s : State) (a : Word) (v : Byte) : (s.poke a v).irq = s.irq := rfl
@[simp] theorem State.poke_busHold (s : State) (a : Word) (v : Byte) : (s.poke a v).busHold = s.busHold := rfl
@[simp] theorem State.poke_mem (s : State) (a : Word) (v : Byte) : (s.poke a v).mem = Memory.write s.mem a.toNat v := rfl
@[simp] theorem State.poke_via1 (s : State) (a : Word) (v : Byte) : (s.poke a v).via1 = s.via1 := rfl
@[simp] theorem State.poke_via2 (s : State) (a : Word) (v : Byte) : (s.poke a v).via2 = s.via2 := rfl
@[simp] theorem State.poke_mech (s : State) (a : Word) (v : Byte) : (s.poke a v).mech = s.mech := rfl
@[simp] theorem State.poke_disk (s : State) (a : Word) (v : Byte) : (s.poke a v).disk = s.disk := rfl
@[simp] theorem State.poke_rot (s : State) (a : Word) (v : Byte) : (s.poke a v).rot = s.rot := rfl
@[simp] theorem State.poke_params (s : State) (a : Word) (v : Byte) : (s.poke a v).params = s.params := rfl
@[simp] theorem State.poke_tick (s : State) (a : Word) (v : Byte) : (s.poke a v).tick = s.tick := rfl
@[simp] theorem State.poke_half (s : State) (a : Word) (v : Byte) : (s.poke a v).half = s.half := rfl
@[simp] theorem State.poke_agenda (s : State) (a : Word) (v : Byte) : (s.poke a v).agenda = s.agenda := rfl
@[simp] theorem State.poke_draws (s : State) (a : Word) (v : Byte) : (s.poke a v).draws = s.draws := rfl
@[simp] theorem State.poke_bus (s : State) (a : Word) (v : Byte) : (s.poke a v).bus = s.bus := rfl
@[simp] theorem State.poke_calls (s : State) (a : Word) (v : Byte) : (s.poke a v).calls = s.calls := rfl
@[simp] theorem State.poke_stopped (s : State) (a : Word) (v : Byte) : (s.poke a v).stopped = s.stopped := rfl

/-! ### logBus -/

@[simp] theorem State.logBus_cpu (s : State) (b : BusAccess) : (s.logBus b).cpu = s.cpu := rfl
@[simp] theorem State.logBus_sq (s : State) (b : BusAccess) : (s.logBus b).sq = s.sq := rfl
@[simp] theorem State.logBus_irq (s : State) (b : BusAccess) : (s.logBus b).irq = s.irq := rfl
@[simp] theorem State.logBus_busHold (s : State) (b : BusAccess) : (s.logBus b).busHold = s.busHold := rfl
@[simp] theorem State.logBus_mem (s : State) (b : BusAccess) : (s.logBus b).mem = s.mem := rfl
@[simp] theorem State.logBus_via1 (s : State) (b : BusAccess) : (s.logBus b).via1 = s.via1 := rfl
@[simp] theorem State.logBus_via2 (s : State) (b : BusAccess) : (s.logBus b).via2 = s.via2 := rfl
@[simp] theorem State.logBus_mech (s : State) (b : BusAccess) : (s.logBus b).mech = s.mech := rfl
@[simp] theorem State.logBus_disk (s : State) (b : BusAccess) : (s.logBus b).disk = s.disk := rfl
@[simp] theorem State.logBus_rot (s : State) (b : BusAccess) : (s.logBus b).rot = s.rot := rfl
@[simp] theorem State.logBus_params (s : State) (b : BusAccess) : (s.logBus b).params = s.params := rfl
@[simp] theorem State.logBus_tick (s : State) (b : BusAccess) : (s.logBus b).tick = s.tick := rfl
@[simp] theorem State.logBus_half (s : State) (b : BusAccess) : (s.logBus b).half = s.half := rfl
@[simp] theorem State.logBus_agenda (s : State) (b : BusAccess) : (s.logBus b).agenda = s.agenda := rfl
@[simp] theorem State.logBus_draws (s : State) (b : BusAccess) : (s.logBus b).draws = s.draws := rfl
@[simp] theorem State.logBus_bus (s : State) (b : BusAccess) : (s.logBus b).bus = s.bus ++ [b] := rfl
@[simp] theorem State.logBus_calls (s : State) (b : BusAccess) : (s.logBus b).calls = s.calls := rfl
@[simp] theorem State.logBus_stopped (s : State) (b : BusAccess) : (s.logBus b).stopped = s.stopped := rfl

/-! ### uninitFault -/

@[simp] theorem State.uninitFault_cpu (s : State) : s.uninitFault.cpu = s.cpu := rfl
@[simp] theorem State.uninitFault_sq (s : State) : s.uninitFault.sq = s.sq := rfl
@[simp] theorem State.uninitFault_irq (s : State) : s.uninitFault.irq = s.irq := rfl
@[simp] theorem State.uninitFault_busHold (s : State) : s.uninitFault.busHold = s.busHold := rfl
@[simp] theorem State.uninitFault_mem (s : State) : s.uninitFault.mem = s.mem := rfl
@[simp] theorem State.uninitFault_via1 (s : State) : s.uninitFault.via1 = s.via1 := rfl
@[simp] theorem State.uninitFault_via2 (s : State) : s.uninitFault.via2 = s.via2 := rfl
@[simp] theorem State.uninitFault_mech (s : State) : s.uninitFault.mech = s.mech := rfl
@[simp] theorem State.uninitFault_disk (s : State) : s.uninitFault.disk = s.disk := rfl
@[simp] theorem State.uninitFault_rot (s : State) : s.uninitFault.rot = s.rot := rfl
@[simp] theorem State.uninitFault_params (s : State) : s.uninitFault.params = s.params := rfl
@[simp] theorem State.uninitFault_tick (s : State) : s.uninitFault.tick = s.tick := rfl
@[simp] theorem State.uninitFault_half (s : State) : s.uninitFault.half = s.half := rfl
@[simp] theorem State.uninitFault_agenda (s : State) : s.uninitFault.agenda = s.agenda := rfl
@[simp] theorem State.uninitFault_draws (s : State) : s.uninitFault.draws = s.draws := rfl
@[simp] theorem State.uninitFault_bus (s : State) : s.uninitFault.bus = s.bus := rfl
@[simp] theorem State.uninitFault_calls (s : State) : s.uninitFault.calls = s.calls := rfl
@[simp] theorem State.uninitFault_stopped (s : State) : s.uninitFault.stopped = s.stopped.or (some .uninitReg) := rfl

/-! ### Faults (R503) -/

@[simp] theorem State.fail_stopped (s : State) (f : Fault) : (s.fail f).stopped = s.stopped.or (some f) := rfl

/-- A fault once raised stays: a later one changes nothing (R503). -/
theorem State.fail_of_stopped {s : State} (h : s.stopped.isSome = true) (f : Fault) : s.fail f = s := by
  cases s
  simp only [State.fail, State.mk.injEq, and_true, true_and]
  exact Option.or_of_isSome h

/-- Where no fault has been raised, what comes next is done. -/
theorem State.unlessStopped_eq {s : State} (h : s.stopped = none) (k : State → State) : s.unlessStopped k = k s := by
  simp [State.unlessStopped, h]

/-- After a fault nothing comes next. -/
theorem State.unlessStopped_stopped {s : State} (h : s.stopped.isSome = true) (k : State → State) : s.unlessStopped k = s :=
  if_pos h

/-- A property that holds at once and after what comes next holds whether or not a fault has been raised. -/
theorem State.unlessStopped_keeps {P : State → Prop} {s : State} {k : State → State} (h : P s) (hk : P (k s)) :
    P (s.unlessStopped k) := by
  unfold State.unlessStopped; split <;> assumption

/-! ### logCall -/

@[simp] theorem State.logCall_cpu (s : State) (c : OutCall) : (s.logCall c).cpu = s.cpu := rfl
@[simp] theorem State.logCall_sq (s : State) (c : OutCall) : (s.logCall c).sq = s.sq := rfl
@[simp] theorem State.logCall_irq (s : State) (c : OutCall) : (s.logCall c).irq = s.irq := rfl
@[simp] theorem State.logCall_busHold (s : State) (c : OutCall) : (s.logCall c).busHold = s.busHold := rfl
@[simp] theorem State.logCall_mem (s : State) (c : OutCall) : (s.logCall c).mem = s.mem := rfl
@[simp] theorem State.logCall_via1 (s : State) (c : OutCall) : (s.logCall c).via1 = s.via1 := rfl
@[simp] theorem State.logCall_via2 (s : State) (c : OutCall) : (s.logCall c).via2 = s.via2 := rfl
@[simp] theorem State.logCall_mech (s : State) (c : OutCall) : (s.logCall c).mech = s.mech := rfl
@[simp] theorem State.logCall_disk (s : State) (c : OutCall) : (s.logCall c).disk = s.disk := rfl
@[simp] theorem State.logCall_rot (s : State) (c : OutCall) : (s.logCall c).rot = s.rot := rfl
@[simp] theorem State.logCall_params (s : State) (c : OutCall) : (s.logCall c).params = s.params := rfl
@[simp] theorem State.logCall_tick (s : State) (c : OutCall) : (s.logCall c).tick = s.tick := rfl
@[simp] theorem State.logCall_half (s : State) (c : OutCall) : (s.logCall c).half = s.half := rfl
@[simp] theorem State.logCall_agenda (s : State) (c : OutCall) : (s.logCall c).agenda = s.agenda := rfl
@[simp] theorem State.logCall_draws (s : State) (c : OutCall) : (s.logCall c).draws = s.draws := rfl
@[simp] theorem State.logCall_bus (s : State) (c : OutCall) : (s.logCall c).bus = s.bus := rfl
@[simp] theorem State.logCall_calls (s : State) (c : OutCall) : (s.logCall c).calls = s.calls ++ [c] := rfl
@[simp] theorem State.logCall_stopped (s : State) (c : OutCall) : (s.logCall c).stopped = s.stopped := rfl

/-! ### advanceDraws -/

@[simp] theorem State.advanceDraws_cpu (s : State) : s.advanceDraws.cpu = s.cpu := rfl
@[simp] theorem State.advanceDraws_sq (s : State) : s.advanceDraws.sq = s.sq := rfl
@[simp] theorem State.advanceDraws_irq (s : State) : s.advanceDraws.irq = s.irq := rfl
@[simp] theorem State.advanceDraws_busHold (s : State) : s.advanceDraws.busHold = s.busHold := rfl
@[simp] theorem State.advanceDraws_mem (s : State) : s.advanceDraws.mem = s.mem := rfl
@[simp] theorem State.advanceDraws_via1 (s : State) : s.advanceDraws.via1 = s.via1 := rfl
@[simp] theorem State.advanceDraws_via2 (s : State) : s.advanceDraws.via2 = s.via2 := rfl
@[simp] theorem State.advanceDraws_mech (s : State) : s.advanceDraws.mech = s.mech := rfl
@[simp] theorem State.advanceDraws_disk (s : State) : s.advanceDraws.disk = s.disk := rfl
@[simp] theorem State.advanceDraws_rot (s : State) : s.advanceDraws.rot = s.rot := rfl
@[simp] theorem State.advanceDraws_params (s : State) : s.advanceDraws.params = s.params := rfl
@[simp] theorem State.advanceDraws_tick (s : State) : s.advanceDraws.tick = s.tick := rfl
@[simp] theorem State.advanceDraws_half (s : State) : s.advanceDraws.half = s.half := rfl
@[simp] theorem State.advanceDraws_agenda (s : State) : s.advanceDraws.agenda = s.agenda := rfl
@[simp] theorem State.advanceDraws_draws (s : State) : s.advanceDraws.draws = s.draws + 1 := rfl
@[simp] theorem State.advanceDraws_bus (s : State) : s.advanceDraws.bus = s.bus := rfl
@[simp] theorem State.advanceDraws_calls (s : State) : s.advanceDraws.calls = s.calls := rfl
@[simp] theorem State.advanceDraws_stopped (s : State) : s.advanceDraws.stopped = s.stopped := rfl

/-! ### updateLatency -/

@[simp] theorem State.updateLatency_cpu (s : State) (f : Lat → Lat) : (s.updateLatency f).cpu = s.cpu := rfl
@[simp] theorem State.updateLatency_sq (s : State) (f : Lat → Lat) : (s.updateLatency f).sq = s.sq := rfl
@[simp] theorem State.updateLatency_irq_irqCount (s : State) (f : Lat → Lat) : (s.updateLatency f).irq.irqCount = s.irq.irqCount := rfl
@[simp] theorem State.updateLatency_irq_nmiCount (s : State) (f : Lat → Lat) : (s.updateLatency f).irq.nmiCount = s.irq.nmiCount := rfl
@[simp] theorem State.updateLatency_irq_nmiPending (s : State) (f : Lat → Lat) : (s.updateLatency f).irq.nmiPending = s.irq.nmiPending := rfl
@[simp] theorem State.updateLatency_irq_rstPending (s : State) (f : Lat → Lat) : (s.updateLatency f).irq.rstPending = s.irq.rstPending := rfl
@[simp] theorem State.updateLatency_irq_irqLat (s : State) (f : Lat → Lat) : (s.updateLatency f).irq.irqLat = f s.irq.irqLat := rfl
@[simp] theorem State.updateLatency_irq_nmiLat (s : State) (f : Lat → Lat) : (s.updateLatency f).irq.nmiLat = f s.irq.nmiLat := rfl
@[simp] theorem State.updateLatency_irq_rstLat (s : State) (f : Lat → Lat) : (s.updateLatency f).irq.rstLat = f s.irq.rstLat := rfl
@[simp] theorem State.updateLatency_busHold (s : State) (f : Lat → Lat) : (s.updateLatency f).busHold = s.busHold := rfl
@[simp] theorem State.updateLatency_mem (s : State) (f : Lat → Lat) : (s.updateLatency f).mem = s.mem := rfl
@[simp] theorem State.updateLatency_via1 (s : State) (f : Lat → Lat) : (s.updateLatency f).via1 = s.via1 := rfl
@[simp] theorem State.updateLatency_via2 (s : State) (f : Lat → Lat) : (s.updateLatency f).via2 = s.via2 := rfl
@[simp] theorem State.updateLatency_mech (s : State) (f : Lat → Lat) : (s.updateLatency f).mech = s.mech := rfl
@[simp] theorem State.updateLatency_disk (s : State) (f : Lat → Lat) : (s.updateLatency f).disk = s.disk := rfl
@[simp] theorem State.updateLatency_rot (s : State) (f : Lat → Lat) : (s.updateLatency f).rot = s.rot := rfl
@[simp] theorem State.updateLatency_params (s : State) (f : Lat → Lat) : (s.updateLatency f).params = s.params := rfl
@[simp] theorem State.updateLatency_tick (s : State) (f : Lat → Lat) : (s.updateLatency f).tick = s.tick := rfl
@[simp] theorem State.updateLatency_half (s : State) (f : Lat → Lat) : (s.updateLatency f).half = s.half := rfl
@[simp] theorem State.updateLatency_agenda (s : State) (f : Lat → Lat) : (s.updateLatency f).agenda = s.agenda := rfl
@[simp] theorem State.updateLatency_draws (s : State) (f : Lat → Lat) : (s.updateLatency f).draws = s.draws := rfl
@[simp] theorem State.updateLatency_bus (s : State) (f : Lat → Lat) : (s.updateLatency f).bus = s.bus := rfl
@[simp] theorem State.updateLatency_calls (s : State) (f : Lat → Lat) : (s.updateLatency f).calls = s.calls := rfl
@[simp] theorem State.updateLatency_stopped (s : State) (f : Lat → Lat) : (s.updateLatency f).stopped = s.stopped := rfl

end Sys2Proof.Machine
end

