-- ==== Sys2Proof/Laws/Memory.lean ====
section
/-! SUPPORT. The laws of memory: a read after a write, and the canonical form that every write keeps. -/

namespace Sys2Proof.Machine

/-- A written byte reads back. -/
theorem Memory.read_write_same (m : List Host.Cell) (a : Nat) (v : Byte) (n : Nat) (h : Memory.wfFrom n m = true) :
    Memory.read (Memory.write m a v) a = v := by
  induction m generalizing n with
  | nil => unfold Memory.write; split <;> simp_all [Memory.read]
  | cons c rest ih =>
    obtain ⟨k, w⟩ := c
    simp only [Memory.wfFrom, Bool.and_eq_true, decide_eq_true_eq] at h
    obtain ⟨⟨⟨_, _⟩, _⟩, hr⟩ := h
    have fresh : ∀ (l : List Host.Cell) (j : Nat), Memory.wfFrom j l = true → a < j →
        Memory.read l a = Memory.unlisted a := by
      intro l
      induction l with
      | nil => intro j _ _; rfl
      | cons d l ihl =>
        obtain ⟨p, q⟩ := d
        intro j hj haj
        simp only [Memory.wfFrom, Bool.and_eq_true, decide_eq_true_eq] at hj
        obtain ⟨⟨⟨hp, _⟩, _⟩, hl⟩ := hj
        simp only [Memory.read]
        rw [if_neg (by omega)]
        exact ihl (p + 1) hl (by omega)
    unfold Memory.write
    split
    · split
      · rename_i h1 h2
        simp only [Memory.read]
        rw [if_neg (by omega), h2]
        exact fresh rest (k + 1) hr (by omega)
      · simp [Memory.read]
    · split
      · split
        · rename_i h1 h2 h3
          rw [h3]
          exact fresh rest (k + 1) hr (by omega)
        · simp [Memory.read]
      · simp only [Memory.read]
        rw [if_neg (by omega)]
        exact ih (k + 1) hr

/-- Every other byte is as before. -/
theorem Memory.read_write_other (m : List Host.Cell) (a b : Nat) (v : Byte) (h : a ≠ b) :
    Memory.read (Memory.write m a v) b = Memory.read m b := by
  induction m with
  | nil => unfold Memory.write; split <;> simp_all [Memory.read]
  | cons c rest ih =>
    obtain ⟨k, w⟩ := c
    unfold Memory.write
    split
    · split <;> simp [Memory.read, h]
    · split
      · rename_i h1 h2
        subst h2
        split <;> simp [Memory.read, h]
      · simp [Memory.read, ih]

/-- A write keeps every listed address at least `n`, if the written one is. -/
theorem Memory.write_wfFrom (m : List Host.Cell) (a : Nat) (v : Byte) (n : Nat) (ha : n ≤ a) (hb : a < 65536)
    (h : Memory.wfFrom n m = true) : Memory.wfFrom n (Memory.write m a v) = true := by
  induction m generalizing n with
  | nil => unfold Memory.write; split <;> simp_all [Memory.wfFrom]
  | cons c rest ih =>
    obtain ⟨k, w⟩ := c
    simp only [Memory.wfFrom, Bool.and_eq_true, decide_eq_true_eq] at h
    obtain ⟨⟨⟨h1, h2⟩, h3⟩, h4⟩ := h
    have weaken : ∀ (l : List Host.Cell) (i j : Nat), i ≤ j → Memory.wfFrom j l = true → Memory.wfFrom i l = true := by
      intro l i j hij hl
      cases l with
      | nil => rfl
      | cons d l =>
        obtain ⟨p, q⟩ := d
        simp only [Memory.wfFrom, Bool.and_eq_true, decide_eq_true_eq] at hl ⊢
        obtain ⟨⟨⟨g1, g2⟩, g3⟩, g4⟩ := hl
        exact ⟨⟨⟨by omega, g2⟩, g3⟩, g4⟩
    unfold Memory.write
    split
    · split
      · simp only [Memory.wfFrom, Bool.and_eq_true, decide_eq_true_eq]; exact ⟨⟨⟨h1, h2⟩, h3⟩, h4⟩
      · rename_i hlt hv
        simp only [Memory.wfFrom, Bool.and_eq_true, decide_eq_true_eq]
        exact ⟨⟨⟨ha, hb⟩, by simpa using hv⟩, ⟨⟨by omega, h2⟩, h3⟩, h4⟩
    · split
      · rename_i hlt heq
        subst heq
        split
        · exact weaken rest n (a + 1) (by omega) h4
        · rename_i hv
          simp only [Memory.wfFrom, Bool.and_eq_true, decide_eq_true_eq]
          exact ⟨⟨⟨ha, hb⟩, by simpa using hv⟩, h4⟩
      · simp only [Memory.wfFrom, Bool.and_eq_true, decide_eq_true_eq]
        exact ⟨⟨⟨h1, h2⟩, h3⟩, ih (k + 1) (by omega) h4⟩

/-- A write of the bus keeps the canonical form. -/
theorem Memory.write_wf (m : List Host.Cell) (a : Word) (v : Byte) (h : Memory.wf m = true) :
    Memory.wf (Memory.write m a.toNat v) = true :=
  Memory.write_wfFrom m a.toNat v 0 (Nat.zero_le _) a.isLt h

/-- `poke` keeps the canonical form. -/
theorem State.poke_wf (s : State) (a : Word) (v : Byte) (h : Memory.wf s.mem = true) :
    Memory.wf (s.poke a v).mem = true := Memory.write_wf s.mem a v h

/-- A poked byte peeks back. -/
theorem State.peek_poke_same (s : State) (a : Word) (v : Byte) (h : Memory.wf s.mem = true) :
    (s.poke a v).peek a = v := Memory.read_write_same s.mem a.toNat v 0 h

/-- Every other byte peeks as before. -/
theorem State.peek_poke_other (s : State) (a b : Word) (v : Byte) (h : a ≠ b) : (s.poke a v).peek b = s.peek b :=
  Memory.read_write_other s.mem a.toNat b.toNat v (fun e => h (BitVec.eq_of_toNat_eq e))

/-- Memory at power-on is in canonical form. -/
theorem State.reset_mem_wf : Memory.wf State.reset.mem = true := by decide

end Sys2Proof.Machine
end

