-- ==== Sys2Proof/Laws/Written.lean ====
section
/-! SUPPORT. The `written` bits (R46): no update clears one, what may be used stays usable, and an operation that uses registers
is done where it may use them. -/

namespace Sys2Proof.Machine

/-- No `written` bit of `s` is cleared in `t`. -/
def WrittenKept (s t : State) : Prop := ∀ r, s.cpu.written.has r = true → t.cpu.written.has r = true

theorem WrittenKept.refl (s : State) : WrittenKept s s := fun _ h => h

theorem WrittenKept.trans {s t u : State} (h : WrittenKept s t) (g : WrittenKept t u) : WrittenKept s u :=
  fun r hr => g r (h r hr)

theorem WrittenKept.of_cpu {s t : State} (h : t.cpu.written = s.cpu.written) : WrittenKept s t := fun _ hr => by rw [h]; exact hr

theorem State.setA_written (s : State) (v : Byte) : WrittenKept s (s.setA v) := fun r hr => by cases r <;> first | rfl | exact hr

theorem State.setX_written (s : State) (v : Byte) : WrittenKept s (s.setX v) := fun r hr => by cases r <;> first | rfl | exact hr

theorem State.setY_written (s : State) (v : Byte) : WrittenKept s (s.setY v) := fun r hr => by cases r <;> first | rfl | exact hr

theorem State.setN_written (s : State) (v : Bool) : WrittenKept s (s.setN v) := fun r hr => by cases r <;> first | rfl | exact hr

theorem State.setV_written (s : State) (v : Bool) : WrittenKept s (s.setV v) := fun r hr => by cases r <;> first | rfl | exact hr

theorem State.setD_written (s : State) (v : Bool) : WrittenKept s (s.setD v) := fun r hr => by cases r <;> first | rfl | exact hr

theorem State.setI_written (s : State) (v : Bool) : WrittenKept s (s.setI v) := fun r hr => by cases r <;> first | rfl | exact hr

theorem State.setZ_written (s : State) (v : Bool) : WrittenKept s (s.setZ v) := fun r hr => by cases r <;> first | rfl | exact hr

theorem State.setC_written (s : State) (v : Bool) : WrittenKept s (s.setC v) := fun r hr => by cases r <;> first | rfl | exact hr

theorem State.setNZ_written (s : State) (v : Byte) : WrittenKept s (s.setNZ v) :=
  (State.setN_written s _).trans (State.setZ_written _ _)

theorem State.compare_written (s : State) (r v : Byte) : WrittenKept s (s.compare r v) :=
  (State.setC_written s _).trans (State.setNZ_written _ _)

/-- What may be used stays usable while the arguments and the `written` bits are kept. -/
theorem WrittenKept.mayUse {s t : State} (h : WrittenKept s t) (hp : t.params = s.params) {l : List Source}
    (hu : s.mayUse l = true) : t.mayUse l = true := by
  simp only [State.mayUse, Bool.or_eq_true, List.all_eq_true, hp] at hu ⊢
  exact hu.imp_right fun g r hr => h r (g r hr)

/-- A list may be used exactly when each of its registers may. -/
theorem State.mayUse_append (s : State) (l m : List Source) : s.mayUse (l ++ m) = (s.mayUse l && s.mayUse m) := by
  simp only [State.mayUse, List.all_append]
  cases s.params.uninitAsDraw <;> rfl

/-- With UNINIT_AS_DRAW, as State.reset takes it, any register may be used: no guarded operation stops (R46). -/
theorem State.mayUse_of_draw {s : State} (h : s.params.uninitAsDraw = true) (l : List Source) : s.mayUse l = true := by
  simp [State.mayUse, h]

/-- With UNINIT_AS_DRAW, no decision stops at the I that it polls (R46, R476). -/
theorem State.pollFaults_of_draw {s : State} (h : s.params.uninitAsDraw = true) : s.pollFaults = false := by
  simp [State.pollFaults, State.mayPoll, h]

@[simp] theorem State.mayUse_nil (s : State) : s.mayUse [] = true := by simp [State.mayUse]

/-- Where every register may be used, any list may. -/
theorem State.mayUse_of_readable {s : State} (h : s.readable = true) (l : List Source) : s.mayUse l = true := by
  simp only [State.readable, State.initialised, Bool.or_eq_true, Bool.and_eq_true] at h
  simp only [State.mayUse, Bool.or_eq_true, List.all_eq_true]
  refine h.imp_right ?_
  rintro ⟨⟨⟨⟨⟨⟨⟨⟨⟨h1, h2⟩, h3⟩, h4⟩, h5⟩, h6⟩, h7⟩, h8⟩, h9⟩, -⟩ r _
  cases r <;> assumption

/-- What a guarded operation does: itself where its registers may be used, the fault otherwise (R46). -/
theorem State.using_eq {s : State} {l : List Source} (h : s.mayUse l = true) (k : State → State) : s.using l k = k s := by
  simp [State.using, h]

theorem State.using_fault {s : State} {l : List Source} (h : s.mayUse l = false) (k : State → State) :
    s.using l k = s.uninitFault := by
  simp [State.using, h]

theorem State.uses_eq {s : State} {l : List Source} (h : s.mayUse l = true) : s.uses l = s := State.using_eq h id

/-- A property of both ends of a guarded operation holds of it. -/
theorem State.using_keeps {P : State → Prop} {s : State} {l : List Source} {k : State → State} (h1 : P (k s))
    (h2 : P s.uninitFault) : P (s.using l k) := by
  unfold State.using; split <;> assumption

end Sys2Proof.Machine
end

