-- ==== Sys2Proof/Laws/Devices.lean ====
section
/-! SUPPORT. What the devices can do to the CPU (R586, R650, R651): they touch neither the registers, the flags but V, the
microsequencer nor memory, and a VIA's interrupt output never makes the IRQ count wrong. -/

namespace Sys2Proof.Machine

/-- The CPU's side of a state: everything but the devices, V, the IRQ line and the half of the tick, which are blanked. -/
def State.bare (s : State) : State :=
  { State.reset with
    cpu := { s.cpu with p := { s.cpu.p with v := false }, written := { s.cpu.written with v := false } }
    sq := s.sq
    irq := { s.irq with irqCount := 0, irqLat := .zero }
    busHold := s.busHold
    mem := s.mem
    params := s.params
    tick := s.tick
    agenda := s.agenda
    bus := s.bus }

/-- The running machine with its IRQ line in order. -/
def State.sound (s : State) : Prop := s.stopped = none ∧ s.linesOk = true

/-- Device activity between `s` and `t`: the CPU's side is the same, V is as before or set by the drive, no
`written` bit is cleared, and a sound state stays sound. -/
structure Dev (s t : State) : Prop where
  bare : t.bare = s.bare
  half : t.half = s.half
  v : t.cpu.p.v = s.cpu.p.v ∨ (t.cpu.p.v = true ∧ s.params.platform = .drive)
  written : WrittenKept s t
  sound : s.sound → t.sound

theorem Dev.params {s t : State} (h : Dev s t) : t.params = s.params := by
  have := congrArg State.params h.bare; simpa [State.bare] using this

theorem Dev.refl (s : State) : Dev s s := ⟨rfl, rfl, .inl rfl, WrittenKept.refl s, id⟩

theorem Dev.trans {s t u : State} (h : Dev s t) (g : Dev t u) : Dev s u := by
  refine ⟨g.bare.trans h.bare, g.half.trans h.half, ?_, h.written.trans g.written, fun hs => g.sound (h.sound hs)⟩
  rcases g.v with hv | ⟨hv, hd⟩
  · rw [hv]; exact h.v
  · exact .inr ⟨hv, h.params ▸ hd⟩

/-- A change of device fields alone, with the same IRQ outputs and count. -/
theorem Dev.of_fields {s t : State} (h : t.bare = s.bare) (hh : t.half = s.half) (hv : t.cpu = s.cpu)
    (h1 : t.via1.irqOut = s.via1.irqOut) (h2 : t.via2.irqOut = s.via2.irqOut)
    (hc : t.irq.irqCount = s.irq.irqCount) (hs : t.stopped = s.stopped) : Dev s t :=
  ⟨h, hh, .inl (by rw [hv]), WrittenKept.of_cpu (by rw [hv]), by simp only [State.sound, State.linesOk, h1, h2, hc, hs]; exact id⟩

/-- A VIA changed in fields other than its interrupt output. -/
theorem Dev.setVia (s : State) (k : ViaId) (v : Via) (h : v.irqOut = (s.via k).irqOut) : Dev s (s.setVia k v) := by
  cases k <;> exact Dev.of_fields rfl rfl rfl (by simp_all [State.setVia, State.via]) (by simp_all [State.setVia, State.via]) rfl rfl

theorem Dev.logCall (s : State) (c : OutCall) : Dev s (s.logCall c) := Dev.of_fields rfl rfl rfl rfl rfl rfl rfl

theorem Dev.advanceDraws (s : State) : Dev s s.advanceDraws := Dev.of_fields rfl rfl rfl rfl rfl rfl rfl

theorem Dev.mech (s : State) (m : Mech) : Dev s { s with mech := m } := Dev.of_fields rfl rfl rfl rfl rfl rfl rfl

theorem Dev.rot (s : State) (r : Rotation) : Dev s { s with rot := r } := Dev.of_fields rfl rfl rfl rfl rfl rfl rfl

theorem Dev.disk (s : State) (d : Disk) : Dev s { s with disk := d } := Dev.of_fields rfl rfl rfl rfl rfl rfl rfl

/-- The soundness of a state, from its four fields. -/
theorem State.sound_iff (s : State) :
    s.sound ↔ s.stopped = none ∧ bit s.via1.irqOut + bit s.via2.irqOut ≤ s.irq.irqCount := by
  simp [State.sound, State.linesOk]

@[simp] theorem bit_true : bit true = 1 := rfl

@[simp] theorem bit_false : bit false = 0 := rfl

/-- An edge of a VIA's output reaches the IRQ count and nothing else (R580). -/
theorem Dev.checkInterrupts (s : State) (k : ViaId) : Dev s (s.checkInterrupts k) := by
  unfold State.checkInterrupts
  simp only
  split
  · rename_i h
    simp only [Bool.and_eq_true, Bool.not_eq_true'] at h
    cases k <;>
    · refine ⟨rfl, rfl, .inl rfl, WrittenKept.refl _, ?_⟩
      simp only [State.via] at h
      simp only [State.sound_iff, State.triggerIRQ, State.setVia, h.2, bit_true, bit_false]
      rintro ⟨a, b⟩
      exact ⟨a, by omega⟩
  · split
    · rename_i h
      simp only [Bool.and_eq_true, Bool.not_eq_true'] at h
      unfold State.clearIRQ State.fail
      cases k <;>
      · simp only [State.via] at h
        split
        · rename_i h0
          refine ⟨rfl, rfl, .inl rfl, WrittenKept.refl _, ?_⟩
          simp only [State.setVia] at h0
          simp only [State.sound_iff, State.setVia, h.1, bit_true, bit_false, h0]
          rintro ⟨a, b⟩
          omega
        · rename_i h0
          refine ⟨rfl, rfl, .inl rfl, WrittenKept.refl _, ?_⟩
          simp only [State.setVia] at h0
          simp only [State.sound_iff, State.setVia, h.1, bit_true, bit_false]
          rintro ⟨a, b⟩
          exact ⟨a, by omega⟩
    · exact Dev.refl s

/-! ### One VIA's own fields -/

@[simp] theorem Via.raiseFlag_irqOut (v : Via) (k : Nat) : (v.raiseFlag k).irqOut = v.irqOut := rfl

@[simp] theorem Via.clearFlag_irqOut (v : Via) (k : Nat) : (v.clearFlag k).irqOut = v.irqOut := rfl

@[simp] theorem Via.clearPortAFlags_irqOut (v : Via) : v.clearPortAFlags.irqOut = v.irqOut := by
  unfold Via.clearPortAFlags; simp only; split <;> rfl

@[simp] theorem Via.clearPortBFlags_irqOut (v : Via) : v.clearPortBFlags.irqOut = v.irqOut := by
  unfold Via.clearPortBFlags; simp only; split <;> rfl

@[simp] theorem Via.cb2Handshake_irqOut (v : Via) : v.cb2Handshake.irqOut = v.irqOut := by
  unfold Via.cb2Handshake; split <;> rfl

@[simp] theorem Via.written_irqOut (v : Via) (r : BitVec 4) (b : Byte) : (v.written r b).irqOut = v.irqOut := by
  unfold Via.written; split <;> simp

@[simp] theorem Via.timerAStep_irqOut (v : Via) (b : Bool) : (v.timerAStep b).irqOut = v.irqOut := by
  unfold Via.timerAStep Via.t1Underflow
  simp only
  split
  · rfl
  · split
    · split
      · rfl
      · split <;> split <;> rfl
    · rfl

@[simp] theorem Via.timerBStep_irqOut (v : Via) : v.timerBStep.irqOut = v.irqOut := by
  unfold Via.timerBStep
  simp only
  split
  · rfl
  · split
    · rfl
    · split <;> rfl

@[simp] theorem Via.ticked_irqOut (v : Via) (b : Bool) : (v.ticked b).irqOut = v.irqOut := by
  unfold Via.ticked; simp [Via.endPulses]

theorem Dev.mapVia (s : State) (k : ViaId) (f : Via → Via) (h : ∀ v, (f v).irqOut = v.irqOut) : Dev s (s.mapVia k f) :=
  Dev.setVia s k _ (h _)

/-! ### Pins and control lines -/

theorem Dev.drawByte (s : State) (c : OutCall) : Dev s (s.drawByte c).2 :=
  (Dev.advanceDraws s).trans (Dev.logCall _ c)

theorem Dev.inA (s : State) (k : ViaId) (b : Bool) : Dev s (s.inA k b).2 := by
  cases k
  · exact Dev.drawByte s _
  · exact Dev.refl s

theorem Dev.inB (s : State) (k : ViaId) : Dev s (s.inB k).2 := by
  cases k
  · exact Dev.drawByte s _
  · exact Dev.refl s

theorem Dev.signalCA1 (s : State) (k : ViaId) (e : Edge) : Dev s (s.signalCA1 k e) := by
  unfold State.signalCA1
  split
  · have h1 := (Dev.setVia s k ((s.via k).raiseFlag 1) rfl).trans (Dev.inA (s.setVia k ((s.via k).raiseFlag 1)) k false)
    revert h1
    generalize State.inA (s.setVia k ((s.via k).raiseFlag 1)) k false = r
    intro h1
    refine Dev.trans ?_ (Dev.checkInterrupts _ k)
    exact h1.trans (by apply Dev.setVia; rfl)
  · exact Dev.refl s

theorem Dev.signalCB1 (s : State) (k : ViaId) (e : Edge) : Dev s (s.signalCB1 k e) := by
  unfold State.signalCB1
  split
  · have h1 := (Dev.setVia s k ((s.via k).raiseFlag 4) rfl).trans (Dev.inB (s.setVia k ((s.via k).raiseFlag 4)) k)
    revert h1
    generalize State.inB (s.setVia k ((s.via k).raiseFlag 4)) k = r
    intro h1
    refine Dev.trans ?_ (Dev.checkInterrupts _ k)
    exact h1.trans (by apply Dev.setVia; rfl)
  · exact Dev.refl s

theorem Dev.signalCA2 (s : State) (k : ViaId) (e : Edge) : Dev s (s.signalCA2 k e) := by
  unfold State.signalCA2
  simp only
  split
  · exact (Dev.setVia s k _ (by rfl)).trans (Dev.checkInterrupts _ k)
  · exact Dev.setVia s k _ (by rfl)

theorem Dev.signalCB2 (s : State) (k : ViaId) (e : Edge) : Dev s (s.signalCB2 k e) := by
  unfold State.signalCB2
  simp only
  split
  · exact (Dev.setVia s k _ (by rfl)).trans (Dev.checkInterrupts _ k)
  · exact Dev.setVia s k _ (by rfl)

theorem Dev.signal (s : State) (k : ViaId) (l : ControlLine) (e : Edge) : Dev s (s.signal k l e) := by
  cases l
  · exact Dev.signalCA1 s k e
  · exact Dev.signalCA2 s k e
  · exact Dev.signalCB1 s k e
  · exact Dev.signalCB2 s k e

/-! ### Head and rotation -/

theorem Dev.setHalfTrack (s : State) (h : Nat) : Dev s (s.setHalfTrack h) :=
  Dev.of_fields rfl rfl rfl rfl rfl rfl rfl

theorem Dev.moveHead (s : State) : Dev s s.moveHead := Dev.of_fields rfl rfl rfl rfl rfl rfl rfl

theorem Dev.readNextBit (s : State) : Dev s s.readNextBit.2 := by
  unfold State.readNextBit
  split
  · exact Dev.refl s
  · exact Dev.moveHead s

theorem Dev.extendTrack (s : State) : Dev s s.extendTrack := by
  unfold State.extendTrack
  simp only
  split
  · exact Dev.refl s
  · split <;> exact ((Dev.advanceDraws s).trans (Dev.logCall _ _)).trans (Dev.disk _ _)

theorem Dev.writeNextBit (s : State) (b : Bool) : Dev s (s.writeNextBit b) := by
  have h1 : Dev s (if s.trackSizeBits = 0 then s.extendTrack else s) := by
    split
    · exact Dev.extendTrack s
    · exact Dev.refl s
  unfold State.writeNextBit
  revert h1
  generalize (if s.trackSizeBits = 0 then s.extendTrack else s) = u
  intro h1
  simp only
  by_cases h0 : u.trackSizeBits = 0
  · rw [if_pos h0]; exact h1
  · rw [if_neg h0]
    refine (h1.trans ?_).trans (Dev.moveHead _)
    by_cases hw : (u.disk.attached && !u.disk.writeProtected) = true
    · rw [if_pos hw]; exact Dev.disk u _
    · rw [if_neg hw]; exact Dev.refl u

theorem Dev.setWriting (s : State) (w : Bool) : Dev s (s.setWriting w) := by
  unfold State.setWriting
  split <;> exact Dev.rot s _

/-- The SO input reaches V (R45, R651). -/
theorem Dev.setOverflow (s : State) (hd : s.params.platform = .drive) : Dev s s.setOverflow :=
  ⟨rfl, rfl, .inr ⟨rfl, hd⟩, State.setV_written s true, id⟩

theorem Dev.drive {s t : State} (h : Dev s t) (hd : s.params.platform = .drive) : t.params.platform = .drive := by
  rw [h.params]; exact hd

theorem Dev.byteReady (s : State) (hd : s.params.platform = .drive) : Dev s s.byteReady := by
  unfold State.byteReady
  simp only
  have h : Dev s { s.signal .via2 .ca1 .fall with rot := { (s.signal .via2 .ca1 .fall).rot with ca1Low := true } } :=
    (Dev.signal s _ _ _).trans (Dev.rot _ _)
  split
  · exact h.trans (Dev.setOverflow _ (h.drive hd))
  · exact h

theorem Dev.frame (s : State) (hd : s.params.platform = .drive) : Dev s s.frame := by
  unfold State.frame
  split
  · exact Dev.rot s _
  · split
    · exact (Dev.rot s _).trans (Dev.byteReady _ hd)
    · exact Dev.rot s _

theorem Dev.fluxNoise (s : State) : Dev s s.fluxNoise.2 := by
  unfold State.fluxNoise
  split
  · simp only
    split
    · exact ((Dev.advanceDraws s).trans (Dev.advanceDraws _)).trans (Dev.readNextBit _)
    · exact (Dev.advanceDraws s).trans (Dev.advanceDraws _)
  · exact Dev.refl s

theorem Dev.readBit (s : State) (hd : s.params.platform = .drive) : Dev s s.readBit := by
  unfold State.readBit
  simp only
  have h1 := Dev.readNextBit s
  generalize s.readNextBit = r at h1 ⊢
  obtain ⟨raw, s1⟩ := r
  simp only at h1 ⊢
  cases raw
  · simp only [Bool.false_eq_true, if_false]
    have h2 : Dev s (State.fluxNoise { s1 with
        rot := { s1.rot with
          history := shiftHistory s1.rot.history false
          zeroRun := min (s1.rot.zeroRun + 1) 8 } }).2 := (h1.trans (Dev.rot _ _)).trans (Dev.fluxNoise _)
    generalize State.fluxNoise _ = q at h2 ⊢
    obtain ⟨noise, s3⟩ := q
    simp only at h2 ⊢
    have h3 : Dev s s3.forceOne := h2.trans (Dev.rot _ _)
    split
    · exact h3.trans (Dev.frame _ (h3.drive hd))
    · split
      · exact h3.trans (Dev.frame _ (h3.drive hd))
      · have h4 : Dev s { s3 with rot := { s3.rot with zc := s3.rot.zc + 1 } } := h2.trans (Dev.rot _ _)
        exact h4.trans (Dev.frame _ (h4.drive hd))
  · simp only [if_true]
    have h4 := h1.trans (Dev.rot s1 { s1.rot with
      history := shiftHistory s1.rot.history true, zeroRun := 0, zc := 0 })
    exact h4.trans (Dev.frame _ (h4.drive hd))

theorem Dev.loadWriteShift (s : State) : Dev s s.loadWriteShift := by
  unfold State.loadWriteShift
  split <;> exact Dev.rot s _

theorem Dev.writeBit (s : State) (hd : s.params.platform = .drive) : Dev s s.writeBit := by
  unfold State.writeBit
  simp only
  have h1 : Dev s (if s.rot.bitCounter = 0 then s.loadWriteShift else s) := by
    split
    · exact Dev.loadWriteShift s
    · exact Dev.refl s
  generalize (if s.rot.bitCounter = 0 then s.loadWriteShift else s) = u at h1 ⊢
  have h2 := (h1.trans (Dev.rot u { u.rot with writeShift := u.rot.writeShift <<< 1 })).trans
    (Dev.writeNextBit _ u.rot.writeShift.msb)
  generalize State.writeNextBit _ u.rot.writeShift.msb = w at h2 ⊢
  have h3 := h2.trans (Dev.rot w { w.rot with
    history := shiftHistory w.rot.history u.rot.writeShift.msb
    zeroRun := 0
    zc := 0
    bitCounter := (w.rot.bitCounter + 1) % 8 })
  split
  · exact h3.trans (Dev.byteReady _ (h3.drive hd))
  · exact h3

theorem Dev.passBits (n : Nat) (s : State) (hd : s.params.platform = .drive) : Dev s (s.passBits n) := by
  induction n generalizing s with
  | zero => exact Dev.refl s
  | succ n ih =>
    have h : Dev s s.passBit := by
      unfold State.passBit
      split
      · exact Dev.writeBit s hd
      · exact Dev.readBit s hd
    exact h.trans (ih _ (h.drive hd))

theorem Dev.advanceTick (s : State) (hd : s.params.platform = .drive) : Dev s s.advanceTick := by
  unfold State.advanceTick
  simp only
  have h1 := Dev.rot s { s.rot with lastTick := s.rot.lastTick + 1 }
  have h2 : Dev s (if s.rot.ca1Low = true then
      State.signal { s with rot := { s.rot with lastTick := s.rot.lastTick + 1, ca1Low := false } } .via2 .ca1 .rise
      else { s with rot := { s.rot with lastTick := s.rot.lastTick + 1 } }) := by
    split
    · exact (Dev.rot s _).trans (Dev.signal _ _ _ _)
    · exact h1
  generalize (if s.rot.ca1Low = true then
      State.signal { s with rot := { s.rot with lastTick := s.rot.lastTick + 1, ca1Low := false } } .via2 .ca1 .rise
      else { s with rot := { s.rot with lastTick := s.rot.lastTick + 1 } }) = u at h2 ⊢
  split
  · have h3 := h2.trans (Dev.rot u { u.rot with acc := (u.rot.acc + 4) % u.rot.cell })
    exact h3.trans (Dev.passBits _ _ (h3.drive hd))
  · exact h2

theorem Dev.advanceTicks (n : Nat) (s : State) (hd : s.params.platform = .drive) : Dev s (s.advanceTicks n) := by
  induction n generalizing s with
  | zero => exact Dev.refl s
  | succ n ih => exact (Dev.advanceTick s hd).trans (ih _ ((Dev.advanceTick s hd).drive hd))

theorem Dev.advance (s : State) (hd : s.params.platform = .drive) : Dev s s.advance := Dev.advanceTicks _ s hd

/-- The V hook (R45). -/
theorem Dev.onVAccess (s : State) : Dev s s.onVAccess := by
  unfold State.onVAccess
  split
  · exact Dev.refl s
  · exact Dev.advance s ‹_›

/-! ### VIA accesses -/

theorem Dev.stepHead (s : State) (p : BitVec 2) : Dev s (s.stepHead p) := by
  unfold State.stepHead
  simp only
  generalize (if p = s.mech.phase + 1 then _ else _ : Nat) = h
  split
  · exact Dev.mech s _
  · exact (Dev.mech s _).trans (Dev.setHalfTrack _ _)

theorem Dev.portBEffect (s : State) (k : ViaId) : Dev s (s.portBEffect k) := by
  cases k
  · exact Dev.logCall s _
  · exact (Dev.rot s _).trans (Dev.stepHead _ _)

theorem Dev.portAEffect (s : State) (k : ViaId) (b : Bool) : Dev s (s.portAEffect k b) := by
  cases k
  · exact Dev.logCall s _
  · exact Dev.refl s

theorem Dev.pcrEffect (s : State) (k : ViaId) : Dev s (s.pcrEffect k) := by
  cases k
  · exact Dev.refl s
  · exact Dev.setWriting s _

theorem Dev.ca2Handshake (s : State) (k : ViaId) : Dev s (s.ca2Handshake k) := by
  unfold State.ca2Handshake
  simp only
  split
  · split
    · refine Dev.trans ?_ (Dev.logCall _ _)
      apply Dev.setVia; rfl
    · apply Dev.setVia; rfl
  · exact Dev.refl s

/-- A read of a VIA register (R531 to R546). -/
theorem Dev.viaRead (s : State) (k : ViaId) (r : BitVec 4) : Dev s (s.viaRead k r).2 := by
  unfold State.viaRead
  simp only
  split
  · exact ((Dev.inB s k).trans (Dev.mapVia _ k _ (by simp))).trans (Dev.checkInterrupts _ k)
  · exact (((Dev.inA s k true).trans (Dev.mapVia _ k _ (by simp))).trans (Dev.ca2Handshake _ k)).trans
      (Dev.checkInterrupts _ k)
  · exact Dev.refl s
  · exact Dev.refl s
  · exact (Dev.setVia s k _ (by simp)).trans (Dev.checkInterrupts _ k)
  · exact Dev.refl s
  · exact Dev.refl s
  · exact Dev.refl s
  · exact (Dev.setVia s k _ (by simp)).trans (Dev.checkInterrupts _ k)
  · exact Dev.refl s
  · exact (Dev.setVia s k _ (by simp)).trans (Dev.checkInterrupts _ k)
  · exact Dev.refl s
  · exact Dev.refl s
  · exact Dev.refl s
  · exact Dev.refl s
  · exact Dev.inA s k false

theorem Dev.writeEffect (u : State) (k : ViaId) (r : BitVec 4) :
    Dev u (match r.toNat with
      | 0 | 2 => u.portBEffect k
      | 1 => (u.ca2Handshake k).portAEffect k true
      | 3 | 15 => u.portAEffect k false
      | 12 => u.pcrEffect k
      | _ => u) := by
  split
  · exact Dev.portBEffect u k
  · exact Dev.portBEffect u k
  · exact (Dev.ca2Handshake u k).trans (Dev.portAEffect _ k _)
  · exact Dev.portAEffect u k _
  · exact Dev.portAEffect u k _
  · exact Dev.pcrEffect u k
  · exact Dev.refl u

/-- A write of a VIA register (R531 to R546). -/
theorem Dev.viaWrite (s : State) (k : ViaId) (r : BitVec 4) (b : Byte) : Dev s (s.viaWrite k r b) :=
  ((Dev.mapVia s k (fun v => v.written r b) (by simp)).trans (Dev.writeEffect _ k r)).trans (Dev.checkInterrupts _ k)

theorem Dev.viaTick (s : State) (k : ViaId) : Dev s (s.viaTick k) :=
  (Dev.mapVia s k _ (by simp)).trans (Dev.checkInterrupts _ k)

/-- A VIA's step at PHI1 (R586). -/
theorem Dev.viaStep (s : State) (k : ViaId) : Dev s (s.viaStep k) := by
  unfold State.viaStep
  split
  · exact Dev.refl s
  · exact State.unlessStopped_keeps (Dev.refl s) (Dev.viaTick s k)

/-- The rotation engine's step at PHI1 (R586, R650). -/
theorem Dev.rotationStep (s : State) : Dev s s.rotationStep := by
  unfold State.rotationStep
  split
  · exact Dev.refl s
  · exact State.unlessStopped_keeps (Dev.refl s) (Dev.advance s ‹_›)

theorem Dev.attachDue (s : State) : Dev s s.attachDue := by
  unfold State.attachDue
  split
  · split
    · exact Dev.of_fields rfl rfl rfl rfl rfl rfl rfl
    · exact Dev.refl s
  · exact Dev.refl s

/-! ### Host calls, PHI1 and the bus -/

/-- With no host call due in this tick, none is taken at any of its places (R95). -/
theorem State.hostCalls_quiet {s : State} (h : s.quietFor 0 = true) (m : Moment) : s.hostCalls m = s := by
  have hd : ∀ d ∈ s.agenda, d.isDue s.tick m = false := by
    intro d hd
    simp only [State.quietFor, List.all_eq_true, decide_eq_true_eq] at h
    have := h d hd
    have h1 : ¬ d.at_ < s.tick := by omega
    have h2 : ¬ d.at_ = s.tick := by omega
    simp [Due.isDue, h1, h2]
  have h1 : s.agenda.filter (fun d => d.isDue s.tick m) = [] := by
    simp only [List.filter_eq_nil_iff]
    intro d h; simp [hd d h]
  have h2 : s.agenda.filter (fun d => !d.isDue s.tick m) = s.agenda := by
    simp only [List.filter_eq_self]
    intro d h; simp [hd d h]
  simp only [State.hostCalls, h1, h2, State.applyAll]

/-- Device activity leaves the agenda and the tick alone, so a quiet state stays quiet. -/
theorem Dev.quiet {s t : State} (h : Dev s t) {n : Nat} (hq : s.quietFor n = true) : t.quietFor n = true := by
  have ha : t.agenda = s.agenda := congrArg (fun u => u.agenda) h.bare
  have ht : t.tick = s.tick := congrArg (fun u => u.tick) h.bare
  simp only [State.quietFor, ha, ht] at hq ⊢
  exact hq

/-- The events of PHI1 with no host call due: device activity alone. -/
theorem State.phi1Events_dev (s : State) (hq : s.quietFor 0 = true) : Dev s s.phi1Events := by
  have step : ∀ (u v : State) (m : Moment), Dev s u → Dev (u.hostCalls m).attachDue v → Dev s v := by
    intro u v m hu hv
    rw [State.hostCalls_quiet (hu.quiet hq)] at hv
    exact (hu.trans (Dev.attachDue u)).trans hv
  have h1 := step s _ .beforeVia1 (Dev.refl s) (Dev.viaStep _ .via1)
  have h2 := step _ _ .beforeVia2 h1 (Dev.viaStep _ .via2)
  have h3 := step _ _ .beforeRotation h2 (Dev.rotationStep _)
  rw [State.phi1Events, State.hostCalls_quiet (h3.quiet hq)]
  exact h3

/-- PHI1 of a tick with no host call due and no fault: device activity alone. -/
theorem State.phi1_dev (s : State) (hq : s.quietFor 0 = true) : Dev { s with half := .phi2 } s.phi1 := by
  unfold State.phi1
  cases hh : s.half with
  | phi2 =>
    have : { s with half := .phi2 } = s := by rw [← hh]
    rw [this]
    exact Dev.refl s
  | phi1 =>
    have h := s.phi1Events_dev hq
    exact ⟨h.bare, rfl, h.v, h.written, h.sound⟩

/-- What a bus read does: the access is logged, devices may act, and plain storage answers its byte (R13, R80). -/
theorem State.busRead_dev (s : State) (a : Word) :
    ∃ t, (s.busRead a).2 = t.logBus (.read a (s.busRead a).1) ∧ Dev s t ∧
      (s.isStored a = true → (s.busRead a).1 = s.peek a) := by
  refine ⟨(s.readMemory a).2, rfl, ?_, ?_⟩
  · unfold State.readMemory
    split
    · exact Dev.viaRead s _ _
    · split
      · exact Dev.advanceDraws s
      · exact Dev.refl s
  · intro h
    simp only [State.isStored, Bool.and_eq_true, Option.isNone_iff_eq_none, bne_iff_ne, ne_eq] at h
    show (s.readMemory a).1 = s.peek a
    unfold State.readMemory
    rw [h.1]
    cases hr : s.regionAt a
    · rfl
    · rfl
    · exact absurd hr h.2

/-- What a bus write does: the access is logged, and either RAM takes the byte or, at most, devices act (R13, R80). -/
theorem State.busWrite_dev (s : State) (a : Word) (v : Byte) :
    ∃ t, s.busWrite a v = t.logBus (.write a v) ∧
      ((s.isRam a = true ∧ t = s.poke a v) ∨ (s.isRam a = false ∧ Dev s t)) := by
  refine ⟨s.writeMemory a v, rfl, ?_⟩
  unfold State.writeMemory
  cases h : s.deviceAt a with
  | some k => exact .inr ⟨by simp [State.isRam, h], Dev.viaWrite s k _ v⟩
  | none =>
    cases hr : s.regionAt a with
    | ram => exact .inl ⟨by simp [State.isRam, h, hr], rfl⟩
    | rom => exact .inr ⟨by simp [State.isRam, hr], Dev.refl s⟩
    | unmapped => exact .inr ⟨by simp [State.isRam, hr], Dev.refl s⟩

/-- RAM is stored. -/
theorem State.isStored_of_isRam {s : State} {a : Word} (h : s.isRam a = true) : s.isStored a = true := by
  simp only [State.isRam, Bool.and_eq_true, beq_iff_eq] at h
  simp [State.isStored, h.1, h.2]

end Sys2Proof.Machine
end

