-- ==== Sys2Proof/Laws/Run.lean ====
section
/-! SUPPORT. Running a sequence when the environment is calm: what one tick does (R150, R151), and what the address cycles
of every mode leave in the latches (R160 to R178). -/

namespace Sys2Proof.Machine

/-! ### Fields that device activity leaves alone -/

theorem Dev.cpu_a {s t : State} (h : Dev s t) : t.cpu.a = s.cpu.a := congrArg (fun u => u.cpu.a) h.bare

theorem Dev.cpu_x {s t : State} (h : Dev s t) : t.cpu.x = s.cpu.x := congrArg (fun u => u.cpu.x) h.bare

theorem Dev.cpu_y {s t : State} (h : Dev s t) : t.cpu.y = s.cpu.y := congrArg (fun u => u.cpu.y) h.bare

theorem Dev.cpu_s {s t : State} (h : Dev s t) : t.cpu.s = s.cpu.s := congrArg (fun u => u.cpu.s) h.bare

theorem Dev.cpu_pc {s t : State} (h : Dev s t) : t.cpu.pc = s.cpu.pc := congrArg (fun u => u.cpu.pc) h.bare

theorem Dev.cpu_p_n {s t : State} (h : Dev s t) : t.cpu.p.n = s.cpu.p.n := congrArg (fun u => u.cpu.p.n) h.bare

theorem Dev.cpu_p_u {s t : State} (h : Dev s t) : t.cpu.p.u = s.cpu.p.u := congrArg (fun u => u.cpu.p.u) h.bare

theorem Dev.cpu_p_b {s t : State} (h : Dev s t) : t.cpu.p.b = s.cpu.p.b := congrArg (fun u => u.cpu.p.b) h.bare

theorem Dev.cpu_p_d {s t : State} (h : Dev s t) : t.cpu.p.d = s.cpu.p.d := congrArg (fun u => u.cpu.p.d) h.bare

theorem Dev.cpu_p_i {s t : State} (h : Dev s t) : t.cpu.p.i = s.cpu.p.i := congrArg (fun u => u.cpu.p.i) h.bare

theorem Dev.cpu_p_z {s t : State} (h : Dev s t) : t.cpu.p.z = s.cpu.p.z := congrArg (fun u => u.cpu.p.z) h.bare

theorem Dev.cpu_p_c {s t : State} (h : Dev s t) : t.cpu.p.c = s.cpu.p.c := congrArg (fun u => u.cpu.p.c) h.bare

theorem Dev.sq {s t : State} (h : Dev s t) : t.sq = s.sq := congrArg (fun u => u.sq) h.bare

theorem Dev.busHold {s t : State} (h : Dev s t) : t.busHold = s.busHold := congrArg (fun u => u.busHold) h.bare

theorem Dev.mem {s t : State} (h : Dev s t) : t.mem = s.mem := congrArg (fun u => u.mem) h.bare

theorem Dev.tick {s t : State} (h : Dev s t) : t.tick = s.tick := congrArg (fun u => u.tick) h.bare

theorem Dev.agenda {s t : State} (h : Dev s t) : t.agenda = s.agenda := congrArg (fun u => u.agenda) h.bare

theorem Dev.bus {s t : State} (h : Dev s t) : t.bus = s.bus := congrArg (fun u => u.bus) h.bare

theorem Dev.irq_nmiCount {s t : State} (h : Dev s t) : t.irq.nmiCount = s.irq.nmiCount := congrArg (fun u => u.irq.nmiCount) h.bare

theorem Dev.irq_nmiPending {s t : State} (h : Dev s t) : t.irq.nmiPending = s.irq.nmiPending := congrArg (fun u => u.irq.nmiPending) h.bare

theorem Dev.irq_rstPending {s t : State} (h : Dev s t) : t.irq.rstPending = s.irq.rstPending := congrArg (fun u => u.irq.rstPending) h.bare

theorem Dev.irq_nmiLat {s t : State} (h : Dev s t) : t.irq.nmiLat = s.irq.nmiLat := congrArg (fun u => u.irq.nmiLat) h.bare

theorem Dev.irq_rstLat {s t : State} (h : Dev s t) : t.irq.rstLat = s.irq.rstLat := congrArg (fun u => u.irq.rstLat) h.bare

theorem Dev.peek {s t : State} (h : Dev s t) (a : Word) : t.peek a = s.peek a := by
  simp only [State.peek, h.mem]

theorem Dev.deviceAt {s t : State} (h : Dev s t) (a : Word) : t.deviceAt a = s.deviceAt a := by
  simp only [State.deviceAt, h.params]

/-- What an address is depends on the model's arguments only (R80). -/
theorem State.isRam_of_params {s t : State} (h : t.params = s.params) (a : Word) : t.isRam a = s.isRam a := by
  simp only [State.isRam, State.deviceAt, State.regionAt, h]

theorem State.isStored_of_params {s t : State} (h : t.params = s.params) (a : Word) : t.isStored a = s.isStored a := by
  simp only [State.isStored, State.deviceAt, State.regionAt, h]

theorem Dev.isRam {s t : State} (h : Dev s t) (a : Word) : t.isRam a = s.isRam a := State.isRam_of_params h.params a

theorem Dev.isStored {s t : State} (h : Dev s t) (a : Word) : t.isStored a = s.isStored a :=
  State.isStored_of_params h.params a

theorem Dev.mayUse {s t : State} (h : Dev s t) {l : List Source} (hu : s.mayUse l = true) : t.mayUse l = true :=
  h.written.mayUse h.params hu

/-! ### Operations that leave the agenda and the tick alone -/

/-- `w` has the agenda and the tick of `u`. -/
structure Stays (u w : State) : Prop where
  agenda : w.agenda = u.agenda
  tick : w.tick = u.tick

theorem Stays.refl (u : State) : Stays u u := ⟨rfl, rfl⟩

theorem Stays.trans {u w x : State} (h : Stays u w) (g : Stays w x) : Stays u x :=
  ⟨g.agenda.trans h.agenda, g.tick.trans h.tick⟩

theorem Dev.stays {u w : State} (h : Dev u w) : Stays u w := ⟨h.agenda, h.tick⟩

theorem Stays.logBus (u : State) (e : BusAccess) : Stays u (u.logBus e) := ⟨rfl, rfl⟩

theorem Stays.keepOperand (u : State) (slot : Slot) (v : Byte) : Stays u (u.keepOperand slot v) := by
  cases slot <;> exact ⟨rfl, rfl⟩

theorem Stays.using {u : State} {l : List Source} {k : State → State} (h : Stays u (k u)) : Stays u (u.using l k) :=
  State.using_keeps (P := Stays u) h ⟨rfl, rfl⟩

theorem Stays.quiet {u w : State} (h : Stays u w) {n : Nat} (hq : u.quietFor n = true) : w.quietFor n = true := by
  simp only [State.quietFor, h.agenda, h.tick] at hq ⊢
  exact hq

/-! ### Calm states -/

/-- No fault, the IRQ line in order, no bus hold, no host call due in the current tick or the `n` after it, and memory where the
instruction set fixes it. -/
structure Calm (n : Nat) (s : State) : Prop where
  running : s.stopped = none
  lines : s.linesOk = true
  hold : s.busHold = false
  quiet : s.quietFor n = true
  pages : s.plainPages = true

theorem Calm.mono {m n : Nat} {s : State} (h : Calm n s) (hm : m ≤ n) : Calm m s := by
  refine ⟨h.running, h.lines, h.hold, ?_, h.pages⟩
  have hq := h.quiet
  simp only [State.quietFor, List.all_eq_true, decide_eq_true_eq] at hq ⊢
  intro d hd
  have := hq d hd
  omega

theorem State.ready_calm {s : State} (h : s.ready = true) : Calm 8 s := by
  simp only [State.ready, State.running, Bool.and_eq_true, Bool.not_eq_true', Option.isNone_iff_eq_none] at h
  exact ⟨h.1.1.1.1, h.1.1.2, h.1.1.1.2, h.1.2, h.2⟩

/-- A state that is ready for an instruction is ready, and may use what the instruction reads (R46). -/
theorem State.readyFor_iff {s : State} {i : Instr} :
    s.readyFor i = true ↔ s.ready = true ∧ s.mayUse (usesOf i) = true := by
  simp [State.readyFor]

/-- `t` comes `k` calm ticks after `s`: the environment's fields are as they were, and the machine is sound if it was. -/
structure Passed (s t : State) (k : Nat) : Prop where
  params : t.params = s.params
  agenda : t.agenda = s.agenda
  hold : t.busHold = s.busHold
  nmiCount : t.irq.nmiCount = s.irq.nmiCount
  nmiPending : t.irq.nmiPending = s.irq.nmiPending
  rstPending : t.irq.rstPending = s.irq.rstPending
  written : WrittenKept s t
  sound : s.sound → t.sound
  tick : t.tick = s.tick + k
  half : t.half = .phi1
  bus : t.bus.length = s.bus.length + k

/-- Besides, the registers and the flags but V are as they were. PC and the latches may differ. -/
structure Moved (s t : State) (k : Nat) : Prop extends Passed s t k where
  a : t.cpu.a = s.cpu.a
  x : t.cpu.x = s.cpu.x
  y : t.cpu.y = s.cpu.y
  sp : t.cpu.s = s.cpu.s
  n : t.cpu.p.n = s.cpu.p.n
  u : t.cpu.p.u = s.cpu.p.u
  b : t.cpu.p.b = s.cpu.p.b
  d : t.cpu.p.d = s.cpu.p.d
  i : t.cpu.p.i = s.cpu.p.i
  z : t.cpu.p.z = s.cpu.p.z
  c : t.cpu.p.c = s.cpu.p.c
  v : VKept s t

/-- Besides, memory is as it was. -/
structure Kept (s t : State) (k : Nat) : Prop extends Moved s t k where
  mem : t.mem = s.mem

theorem VKept.trans {s t u : State} (h : VKept s t) (hp : t.params = s.params) (g : VKept t u) : VKept s u := by
  rcases g with g | ⟨g, gd⟩
  · rcases h with h | h
    · exact .inl (g.trans h)
    · exact .inr ⟨g.trans h.1, h.2⟩
  · exact .inr ⟨g, hp ▸ gd⟩

theorem Passed.trans {s t u : State} {j k : Nat} (h : Passed s t j) (g : Passed t u k) : Passed s u (j + k) where
  params := g.params.trans h.params
  agenda := g.agenda.trans h.agenda
  hold := g.hold.trans h.hold
  nmiCount := g.nmiCount.trans h.nmiCount
  nmiPending := g.nmiPending.trans h.nmiPending
  rstPending := g.rstPending.trans h.rstPending
  written := h.written.trans g.written
  sound := fun hs => g.sound (h.sound hs)
  tick := by rw [g.tick, h.tick]; omega
  half := g.half
  bus := by rw [g.bus, h.bus]; omega

theorem Moved.trans {s t u : State} {j k : Nat} (h : Moved s t j) (g : Moved t u k) : Moved s u (j + k) where
  toPassed := h.toPassed.trans g.toPassed
  a := g.a.trans h.a
  x := g.x.trans h.x
  y := g.y.trans h.y
  sp := g.sp.trans h.sp
  n := g.n.trans h.n
  u := g.u.trans h.u
  b := g.b.trans h.b
  d := g.d.trans h.d
  i := g.i.trans h.i
  z := g.z.trans h.z
  c := g.c.trans h.c
  v := h.v.trans h.params g.v

theorem Kept.trans {s t u : State} {j k : Nat} (h : Kept s t j) (g : Kept t u k) : Kept s u (j + k) where
  toMoved := h.toMoved.trans g.toMoved
  mem := g.mem.trans h.mem

theorem Passed.mayUse {s t : State} {k : Nat} (h : Passed s t k) {l : List Source} (hu : s.mayUse l = true) :
    t.mayUse l = true := h.written.mayUse h.params hu

theorem Passed.isRam {s t : State} {k : Nat} (h : Passed s t k) (a : Word) : t.isRam a = s.isRam a :=
  State.isRam_of_params h.params a

theorem Passed.isStored {s t : State} {k : Nat} (h : Passed s t k) (a : Word) : t.isStored a = s.isStored a :=
  State.isStored_of_params h.params a

theorem Passed.pages {s t : State} {k : Nat} (h : Passed s t k) (hp : s.plainPages = true) : t.plainPages = true := by
  simp only [State.plainPages, h.params] at hp ⊢
  exact hp

/-- Calm ticks use up the calm. -/
theorem Passed.calm {s t : State} {k n : Nat} (h : Passed s t k) (hc : Calm (n + k) s) : Calm n t := by
  have hs := h.sound ⟨hc.running, hc.lines⟩
  refine ⟨hs.1, hs.2, h.hold.trans hc.hold, ?_, by simp only [State.plainPages, h.params]; exact hc.pages⟩
  have hq := hc.quiet
  simp only [State.quietFor, h.agenda, h.tick, List.all_eq_true, decide_eq_true_eq] at hq ⊢
  intro d hd
  have := hq d hd
  omega

/-- Where memory and the index registers are as they were, so are the addresses they give. -/
theorem Kept.effectiveAddress {s t : State} {k : Nat} (h : Kept s t k) {m : Mode} (b1 b2 : Byte)
    (hm : [Mode.zp, .zpx, .zpy, .abs, .abx, .aby, .izx, .izy].contains m = true) :
    t.effectiveAddress m b1 b2 = s.effectiveAddress m b1 b2 := by
  cases m <;> first
    | exact absurd hm (by decide)
    | simp only [State.effectiveAddress, State.index, State.zpPointer, State.peek, h.mem, h.x, h.y]

/-! ### One tick -/

/-- A running machine in the middle of a sequence goes on. -/
theorem State.not_settled {s : State} (h : s.stopped = none) (hq : s.sq.seq ≠ .boundary) : s.settled = false := by
  simp [State.settled, h, hq]

/-- A machine at a boundary has settled. -/
theorem State.settled_of_boundary {s : State} (h : s.sq.seq = .boundary) : s.settled = true := by
  simp [State.settled, h]

/-- A calm tick of a sequence: PHI1 is device activity alone, and the micro-op executes. -/
theorem runSeq_calm (feed : Feed) (q : Sequence) (n : Nat) {s : State} (hc : Calm 0 s) (hq : s.sq.seq ≠ .boundary) :
    ∃ u, Dev { s with half := .phi2 } u ∧
      runSeq feed q (n + 1) s =
        if (u.executeTick feed (q.micro u)).settled then u.executeTick feed (q.micro u)
        else runSeq feed q n (u.executeTick feed (q.micro u)) := by
  have hd := s.phi1_dev hc.quiet
  have hsnd := hd.sound ⟨hc.running, hc.lines⟩
  refine ⟨s.phi1, hd, ?_⟩
  have h1 : s.phi1.settled = false := by
    have : s.phi1.sq.seq ≠ .boundary := by rw [hd.sq]; exact hq
    simp [State.settled, hsnd.1, this]
  have h2 : s.phi1.stalls (q.micro s.phi1) = false := by
    simp [State.stalls, hd.busHold, hc.hold]
  simp only [runSeq, Sequence.tick, h1, h2, Bool.false_eq_true, if_false]
  cases (s.phi1.executeTick feed (q.micro s.phi1)).settled <;> rfl

/-- The end of a tick in which no host call comes after the CPU's micro-op. -/
theorem State.executeTick_quiet {u : State} {feed : Feed} {m : MicroOp} (h : (m.perform feed u).quietFor 0 = true) :
    u.executeTick feed m = (m.perform feed u).endTick .executed := by
  simp only [State.executeTick, State.hostCalls_quiet h]

/-- A calm tick whose micro-op is a read. -/
theorem runSeq_read (feed : Feed) (q : Sequence) (n : Nat) {s : State} (hc : Calm 0 s) (hq : s.sq.seq ≠ .boundary)
    {addr : Word} {act : Byte → State → State}
    (hm : ∀ u : State, u.sq = s.sq → u.cpu.pc = s.cpu.pc → u.cpu.s = s.cpu.s → q.micro u = .read addr act)
    (hact : ∀ d u, Dev { s with half := .phi2 } u →
      Stays (u.logBus (.read addr d)) (act d (u.logBus (.read addr d)))) :
    ∃ d u, Dev { s with half := .phi2 } u ∧ (s.isStored addr = true → d = s.peek addr) ∧
      runSeq feed q (n + 1) s =
        if ((act d (u.logBus (.read addr d))).endTick .executed).settled then
          (act d (u.logBus (.read addr d))).endTick .executed
        else runSeq feed q n ((act d (u.logBus (.read addr d))).endTick .executed) := by
  obtain ⟨u, hu, he⟩ := runSeq_calm feed q n hc hq
  rw [hm u hu.sq hu.cpu_pc hu.cpu_s] at he
  obtain ⟨w, hw, hdw, hv⟩ := u.busRead_dev addr
  refine ⟨(u.busRead addr).1, w, hu.trans hdw, ?_, ?_⟩
  · intro h
    rw [hv (by rw [hu.isStored]; exact h), hu.peek]
    rfl
  · have hx := hu.trans hdw
    have hp : (MicroOp.read addr act).perform feed u =
        act (u.busRead addr).1 (w.logBus (.read addr (u.busRead addr).1)) := by
      simp only [MicroOp.perform, hw]
      exact State.unlessStopped_eq (s := w.logBus _) (hx.sound ⟨hc.running, hc.lines⟩).1 _
    rw [State.executeTick_quiet (by
      rw [hp]
      exact (hx.stays.trans ((Stays.logBus w _).trans (hact _ w hx))).quiet (n := 0) hc.quiet), hp] at he
    exact he

/-- A calm tick whose micro-op fetches from the instruction stream. -/
theorem runSeq_fetch (feed : Feed) (q : Sequence) (n : Nat) {s : State} (hc : Calm 0 s) (hq : s.sq.seq ≠ .boundary)
    {slot : Slot} {act : Byte → State → State}
    (hm : ∀ u : State, u.sq = s.sq → u.cpu.pc = s.cpu.pc → u.cpu.s = s.cpu.s → q.micro u = .fetch slot act)
    (hact : ∀ d u, Dev { s with half := .phi2 } u →
      Stays u (act (feed.pick slot d) ((u.logBus (.read s.cpu.pc d)).incPC.keepOperand slot (feed.pick slot d)))) :
    ∃ d u, Dev { s with half := .phi2 } u ∧ (s.isStored s.cpu.pc = true → d = s.peek s.cpu.pc) ∧
      let t := (act (feed.pick slot d) ((u.logBus (.read s.cpu.pc d)).incPC.keepOperand slot (feed.pick slot d))).endTick
        .executed
      runSeq feed q (n + 1) s = if t.settled then t else runSeq feed q n t := by
  obtain ⟨u, hu, he⟩ := runSeq_calm feed q n hc hq
  rw [hm u hu.sq hu.cpu_pc hu.cpu_s] at he
  obtain ⟨w, hw, hdw, hv⟩ := u.busRead_dev u.cpu.pc
  have hpc : u.cpu.pc = s.cpu.pc := hu.cpu_pc
  rw [hpc] at hw hv
  refine ⟨(u.busRead s.cpu.pc).1, w, hu.trans hdw, ?_, ?_⟩
  · intro h
    rw [hv (by rw [hu.isStored]; exact h), hu.peek]
    rfl
  · have hx := hu.trans hdw
    have hp : (MicroOp.fetch slot act).perform feed u =
        act (feed.pick slot (u.busRead s.cpu.pc).1) ((w.logBus (.read s.cpu.pc (u.busRead s.cpu.pc).1)).incPC.keepOperand
          slot (feed.pick slot (u.busRead s.cpu.pc).1)) := by
      simp only [MicroOp.perform, hpc, hw]
      exact State.unlessStopped_eq (s := w.logBus _) (hx.sound ⟨hc.running, hc.lines⟩).1 _
    rw [State.executeTick_quiet (by
      rw [hp]
      exact (hx.stays.trans (hact _ w hx)).quiet (n := 0) hc.quiet), hp] at he
    exact he

/-- A calm tick whose micro-op is a write: the prepared state is `pre u`. -/
theorem runSeq_write (feed : Feed) (q : Sequence) (n : Nat) {s : State} (hc : Calm 0 s) (hq : s.sq.seq ≠ .boundary)
    {pre : State → State} {addr : State → Word} {value : State → Byte} {post : State → State}
    (hm : ∀ u : State, u.sq = s.sq → u.cpu.pc = s.cpu.pc → u.cpu.s = s.cpu.s → q.micro u = .write pre addr value post)
    (hpre : ∀ u, Dev { s with half := .phi2 } u → Stays u (pre u) ∧ (pre u).sound)
    (hpost : ∀ w, Stays w (post w)) :
    ∃ u w, Dev { s with half := .phi2 } u ∧
      (((pre u).isRam (addr (pre u)) = true ∧ w = (pre u).poke (addr (pre u)) (value (pre u))) ∨
        ((pre u).isRam (addr (pre u)) = false ∧ Dev (pre u) w)) ∧
      let t := (post (w.logBus (.write (addr (pre u)) (value (pre u))))).endTick .executed
      runSeq feed q (n + 1) s = if t.settled then t else runSeq feed q n t := by
  obtain ⟨u, hu, he⟩ := runSeq_calm feed q n hc hq
  rw [hm u hu.sq hu.cpu_pc hu.cpu_s] at he
  obtain ⟨w, hw, hd⟩ := (pre u).busWrite_dev (addr (pre u)) (value (pre u))
  refine ⟨u, w, hu, hd, ?_⟩
  obtain ⟨hps, hsnd⟩ := hpre u hu
  have hrun : w.stopped = none := by
    rcases hd with ⟨_, hd⟩ | ⟨_, hd⟩
    · rw [hd]; exact hsnd.1
    · exact (hd.sound hsnd).1
  have hp : (MicroOp.write pre addr value post).perform feed u =
      post (w.logBus (.write (addr (pre u)) (value (pre u)))) := by
    simp only [MicroOp.perform, State.unlessStopped_eq hsnd.1, hw]
    exact State.unlessStopped_eq (s := w.logBus _) hrun _
  have hwst : Stays (pre u) w := by
    rcases hd with ⟨_, hd⟩ | ⟨_, hd⟩
    · rw [hd]; exact ⟨rfl, rfl⟩
    · exact hd.stays
  rw [State.executeTick_quiet (by
    rw [hp]
    exact (((hu.stays.trans hps).trans hwst).trans ((Stays.logBus w _).trans (hpost _))).quiet (n := 0) hc.quiet), hp] at he
  exact he

/-- The end of a tick changes the latencies, the tick and the half only. -/
@[simp] theorem State.endTick_cpu (s : State) (f : Lat → Lat) : (s.endTick f).cpu = s.cpu := rfl

@[simp] theorem State.endTick_sq (s : State) (f : Lat → Lat) : (s.endTick f).sq = s.sq := rfl

@[simp] theorem State.endTick_mem (s : State) (f : Lat → Lat) : (s.endTick f).mem = s.mem := rfl

@[simp] theorem State.endTick_bus (s : State) (f : Lat → Lat) : (s.endTick f).bus = s.bus := rfl

@[simp] theorem State.endTick_params (s : State) (f : Lat → Lat) : (s.endTick f).params = s.params := rfl

@[simp] theorem State.endTick_agenda (s : State) (f : Lat → Lat) : (s.endTick f).agenda = s.agenda := rfl

@[simp] theorem State.endTick_busHold (s : State) (f : Lat → Lat) : (s.endTick f).busHold = s.busHold := rfl

@[simp] theorem State.endTick_stopped (s : State) (f : Lat → Lat) : (s.endTick f).stopped = s.stopped := rfl

@[simp] theorem State.endTick_tick (s : State) (f : Lat → Lat) : (s.endTick f).tick = s.tick + 1 := rfl

@[simp] theorem State.endTick_half (s : State) (f : Lat → Lat) : (s.endTick f).half = .phi1 := rfl

@[simp] theorem State.endTick_linesOk (s : State) (f : Lat → Lat) : (s.endTick f).linesOk = s.linesOk := rfl

/-- The state after device activity `u`, one logged access and the end of a tick, with PC and the latches as given, is one calm
tick after `s`. -/
theorem Dev.kept {s u : State} (h : Dev { s with half := .phi2 } u) (e : BusAccess) (pc : Word) (l : Latches) :
    Kept s (State.endTick { ((u.logBus e).setPC pc) with sq := l } .executed) 1 where
  a := h.cpu_a
  x := h.cpu_x
  y := h.cpu_y
  sp := h.cpu_s
  n := h.cpu_p_n
  u := h.cpu_p_u
  b := h.cpu_p_b
  d := h.cpu_p_d
  i := h.cpu_p_i
  z := h.cpu_p_z
  c := h.cpu_p_c
  v := h.v
  mem := h.mem
  params := h.params
  agenda := h.agenda
  hold := h.busHold
  nmiCount := h.irq_nmiCount
  nmiPending := h.irq_nmiPending
  rstPending := h.irq_rstPending
  written := h.written
  sound := fun hs => h.sound hs
  tick := by simp [h.tick]
  half := rfl
  bus := by simp [h.bus]

/-- A calm tick that reads and changes the latches only: the run goes on one tick later. -/
theorem runSeq_latch_read (feed : Feed) (q : Sequence) (n : Nat) {s : State} (hc : Calm 0 s) (hq : s.sq.seq ≠ .boundary)
    {addr : Word} {act : Byte → State → State} {l : Byte → Latches}
    (hm : ∀ u : State, u.sq = s.sq → u.cpu.pc = s.cpu.pc → u.cpu.s = s.cpu.s → q.micro u = .read addr act)
    (ha : ∀ d (u : State), u.sq = s.sq → u.cpu.x = s.cpu.x → u.cpu.y = s.cpu.y →
      (∀ l, s.mayUse l = true → u.mayUse l = true) → act d u = { u with sq := l d })
    (hl : ∀ d, (l d).seq ≠ .boundary) :
    ∃ d t, runSeq feed q (n + 1) s = runSeq feed q n t ∧ Kept s t 1 ∧ t.cpu.pc = s.cpu.pc ∧ t.sq = l d ∧
      t.bus = s.bus ++ [.read addr d] ∧ (s.isStored addr = true → d = s.peek addr) := by
  have hd : ∀ d u, Dev { s with half := .phi2 } u → act d (u.logBus (.read addr d)) =
      { u.logBus (.read addr d) with sq := l d } := fun d u hu =>
    ha d (u.logBus (.read addr d)) hu.sq hu.cpu_x hu.cpu_y (fun _ h => hu.mayUse h)
  obtain ⟨d, u, hu, hp, he⟩ := runSeq_read feed q n hc hq hm (fun d u hu => by rw [hd d u hu]; exact ⟨rfl, rfl⟩)
  have hact := hd d u hu
  have hk := hu.kept (.read addr d) s.cpu.pc (l d)
  have hst : State.endTick { ((u.logBus (.read addr d)).setPC s.cpu.pc) with sq := l d } .executed =
      (act d (u.logBus (.read addr d))).endTick .executed := by
    rw [hact]
    have : u.cpu.pc = s.cpu.pc := hu.cpu_pc
    simp only [State.setPC, State.logBus, ← this]
  rw [hst] at hk
  refine ⟨d, _, ?_, hk, ?_, ?_, ?_, hp⟩
  · rw [he, State.not_settled (hk.sound ⟨hc.running, hc.lines⟩).1]
    · rfl
    · rw [State.endTick_sq, hact]; exact hl d
  · rw [hact]; exact hu.cpu_pc
  · rw [hact]; rfl
  · rw [hact]; exact congrArg (· ++ [_]) hu.bus

/-- A calm tick that fetches and changes the latches only. -/
theorem runSeq_latch_fetch (feed : Feed) (q : Sequence) (n : Nat) {s : State} (hc : Calm 0 s)
    (hq : s.sq.seq ≠ .boundary) {slot : Slot} {act : Byte → State → State} {l : Byte → Latches}
    (hm : ∀ u : State, u.sq = s.sq → u.cpu.pc = s.cpu.pc → u.cpu.s = s.cpu.s → q.micro u = .fetch slot act)
    (ha : ∀ v (u : State), u.sq = s.sq → u.cpu.x = s.cpu.x → u.cpu.y = s.cpu.y →
      (∀ l, s.mayUse l = true → u.mayUse l = true) → act v (u.keepOperand slot v) = { u with sq := l v })
    (hl : ∀ v, (l v).seq ≠ .boundary) :
    ∃ d t, runSeq feed q (n + 1) s = runSeq feed q n t ∧ Kept s t 1 ∧ t.cpu.pc = s.cpu.pc + 1 ∧
      t.sq = l (feed.pick slot d) ∧ t.bus = s.bus ++ [.read s.cpu.pc d] ∧
      (s.isStored s.cpu.pc = true → d = s.peek s.cpu.pc) := by
  have hd : ∀ d u, Dev { s with half := .phi2 } u →
      act (feed.pick slot d) ((u.logBus (.read s.cpu.pc d)).incPC.keepOperand slot (feed.pick slot d)) =
        { (u.logBus (.read s.cpu.pc d)).incPC with sq := l (feed.pick slot d) } := fun d u hu =>
    ha (feed.pick slot d) (u.logBus (.read s.cpu.pc d)).incPC hu.sq hu.cpu_x hu.cpu_y (fun _ h => hu.mayUse h)
  obtain ⟨d, u, hu, hp, he⟩ := runSeq_fetch feed q n hc hq hm (fun d u hu => by rw [hd d u hu]; exact ⟨rfl, rfl⟩)
  simp only at he
  have hact := hd d u hu
  have hk := hu.kept (.read s.cpu.pc d) (s.cpu.pc + 1) (l (feed.pick slot d))
  have hst : State.endTick { ((u.logBus (.read s.cpu.pc d)).setPC (s.cpu.pc + 1)) with sq := l (feed.pick slot d) }
        .executed =
      (act (feed.pick slot d) ((u.logBus (.read s.cpu.pc d)).incPC.keepOperand slot (feed.pick slot d))).endTick
        .executed := by
    rw [hact]
    have : u.cpu.pc = s.cpu.pc := hu.cpu_pc
    simp only [State.setPC, State.logBus, State.incPC, ← this]
  rw [hst] at hk
  refine ⟨d, _, ?_, hk, ?_, ?_, ?_, hp⟩
  · rw [he, State.not_settled (hk.sound ⟨hc.running, hc.lines⟩).1]
    · rfl
    · rw [State.endTick_sq, hact]; exact hl _
  · rw [hact]
    show (u.logBus _).incPC.cpu.pc = _
    have : u.cpu.pc = s.cpu.pc := hu.cpu_pc
    simp [State.incPC, this]
  · rw [hact]; rfl
  · rw [hact]; exact congrArg (· ++ [_]) hu.bus

/-! ### The address cycles -/

/-- Fixing the high byte of a crossed address gives the full sum (R170). -/
theorem unfixed_add_of_crosses {w : Word} {i : Byte} (h : crosses w i = true) : unfixed w i + 256 = indexed w i := by
  apply BitVec.eq_of_toNat_eq
  simp only [crosses, decide_eq_true_eq] at h
  simp only [unfixed, indexed, BitVec.toNat_add, toNat_joinBytes, toNat_hi, zext16, BitVec.toNat_setWidth]
  rw [toNat_lo] at h ⊢
  have := i.isLt
  have := w.isLt
  have h256 : (256 : Word).toNat = 256 := rfl
  omega

/-- Without a crossing the unfixed address is the full sum (R170). -/
theorem unfixed_of_not_crosses {w : Word} {i : Byte} (h : crosses w i = false) : unfixed w i = indexed w i := by
  apply BitVec.eq_of_toNat_eq
  simp only [crosses, decide_eq_false_iff_not] at h
  simp only [unfixed, indexed, BitVec.toNat_add, toNat_joinBytes, toNat_hi, zext16, BitVec.toNat_setWidth]
  rw [toNat_lo] at h ⊢
  have := i.isLt
  have := w.isLt
  omega

/-- In plain pages an address below $0200 that no device has is RAM (R87). -/
theorem State.isRam_of_plainPages {s : State} (hp : s.plainPages = true) {a : Word} (ha : a.toNat < 0x200)
    (hd : s.deviceAt a = none) : s.isRam a = true := by
  simp only [State.isRam, hd, Option.isNone_none, Bool.true_and, State.regionAt, beq_iff_eq]
  cases hf : s.params.regions.find? (fun r => r.holds a.toNat) with
  | none => rfl
  | some r =>
    simp only [State.plainPages, List.all_eq_true] at hp
    have h1 := hp r (List.mem_of_find?_eq_some hf)
    have h2 := List.find?_some hf
    simp only [Region.holds, Bool.and_eq_true, decide_eq_true_eq] at h2
    simp only [Bool.and_eq_true, Bool.or_eq_true, beq_iff_eq, decide_eq_true_eq] at h1
    rcases h1.1 with h | h
    · exact h
    · omega

/-- In plain pages the vectors are stored (R87). -/
theorem State.isStored_vector {s : State} (hp : s.plainPages = true) {a : Word} (ha : 0xFFFA ≤ a.toNat) :
    s.isStored a = true := by
  have hd : s.deviceAt a = none := by
    have := a.isLt
    have h6 : a.toNat / 1024 = 63 := by omega
    unfold State.deviceAt
    split <;> simp [h6]
  simp only [State.isStored, hd, Option.isNone_none, Bool.true_and, State.regionAt, bne_iff_ne, ne_eq]
  cases hf : s.params.regions.find? (fun r => r.holds a.toNat) with
  | none => simp
  | some r =>
    simp only [State.plainPages, List.all_eq_true] at hp
    have h1 := hp r (List.mem_of_find?_eq_some hf)
    have h2 := List.find?_some hf
    simp only [Region.holds, Bool.and_eq_true, decide_eq_true_eq] at h2
    simp only [Bool.and_eq_true, Bool.or_eq_true, bne_iff_ne, ne_eq, decide_eq_true_eq] at h1
    rcases h1.2 with h | h
    · exact h
    · omega

/-- The zero page holds no device register (R87, R530). -/
theorem State.deviceAt_zext16 (s : State) (b : Byte) : s.deviceAt (zext16 b) = none := by
  have h : (zext16 b).toNat / 1024 = 0 := by
    have := b.isLt
    simp only [zext16, BitVec.toNat_setWidth]
    omega
  unfold State.deviceAt
  split <;> simp [h]

/-- The stack page holds no device register (R33, R530). -/
theorem State.deviceAt_stackAt (s : State) (b : Byte) : s.deviceAt (stackAt b) = none := by
  have h : (stackAt b).toNat / 1024 = 0 := by
    have hb := b.isLt
    have h8 : (256 : Nat) ||| b.toNat = 256 + b.toNat := by
      have := Nat.shiftLeft_add_eq_or_of_lt (a := 1) (b := b.toNat) (i := 8) hb
      simpa using this.symm
    have h1 : b.toNat % 2 ^ 16 = b.toNat := by omega
    have h2 : (0x0100 : Word).toNat = 256 := rfl
    simp only [stackAt, zext16, BitVec.toNat_or, BitVec.toNat_setWidth, h1, h2, h8]
    omega
  unfold State.deviceAt
  split <;> simp [h]

/-- In plain pages the zero page is RAM (R87). -/
theorem State.isRam_zext16 {s : State} (hp : s.plainPages = true) (b : Byte) : s.isRam (zext16 b) = true :=
  State.isRam_of_plainPages hp (by have := b.isLt; simp only [zext16, BitVec.toNat_setWidth]; omega)
    (State.deviceAt_zext16 s b)

/-- In plain pages the stack is RAM (R33, R87). -/
theorem State.isRam_stackAt {s : State} (hp : s.plainPages = true) (b : Byte) : s.isRam (stackAt b) = true :=
  State.isRam_of_plainPages hp (by
    have hb := b.isLt
    have h8 : (256 : Nat) ||| b.toNat = 256 + b.toNat := by
      have := Nat.shiftLeft_add_eq_or_of_lt (a := 1) (b := b.toNat) (i := 8) hb
      simpa using this.symm
    have h1 : b.toNat % 2 ^ 16 = b.toNat := by omega
    have h2 : (0x0100 : Word).toNat = 256 := rfl
    simp only [stackAt, zext16, BitVec.toNat_or, BitVec.toNat_setWidth, h1, h2, h8]
    omega) (State.deviceAt_stackAt s b)

/-- What the latches hold when the operand of a mode is first accessed: the effective address, but for its high byte where
the fix-up of a crossing is still to come. -/
structure Addressed (m : Mode) (always : Bool) (s t : State) (b1 b2 : Byte) : Prop where
  seq : t.sq.seq = .op
  cyc : t.sq.cyc = accessCycle m always
  ea : t.sq.ea = if canCross m && !always then unfixed (s.indexBase m b1 b2) (s.index m) else s.effectiveAddress m b1 b2
  cross : canCross m = true → t.sq.cross = crosses (s.indexBase m b1 b2) (s.index m)
  bah : canCross m = true → t.sq.bah = hi (s.indexBase m b1 b2)
  lo : canCross m = true → lo t.sq.ea = lo (indexed (s.indexBase m b1 b2) (s.index m))
  vec : t.sq.vec = s.sq.vec
  brkb : t.sq.brkb = s.sq.brkb
  ichg : t.sq.ichg = s.sq.ichg
  iprev : t.sq.iprev = s.sq.iprev
  shstall : t.sq.shstall = s.sq.shstall

theorem lo_unfixed (w : Word) (i : Byte) : lo (unfixed w i) = lo (indexed w i) := by
  apply BitVec.eq_of_toNat_eq
  rw [unfixed, lo_joinBytes, toNat_lo]
  simp only [indexed, zext16, BitVec.toNat_add, BitVec.toNat_setWidth, toNat_lo]
  have := i.isLt
  have := w.isLt
  omega

/-- The modes that address memory. -/
def memoryMode (m : Mode) : Bool := [Mode.zp, .zpx, .zpy, .abs, .abx, .aby, .izx, .izy].contains m

end Sys2Proof.Machine
end

