-- ==== Sys2Proof/Laws/Address.lean ====
section
/-! SUPPORT. The address cycles of each memory mode, run to the cycle at which the operand is first accessed
(R160 to R178). -/

namespace Sys2Proof.Machine

/-- The sequence `q` follows the address cycles of mode `m` up to the operand's first access. -/
def Follows (q : Sequence) (m : Mode) (always : Bool) : Prop :=
  ∀ u : State, u.sq.cyc < accessCycle m always → q.micro u = addressCycle m u u.sq.cyc

theorem address_zp_once (b0 b1 b2 : Byte) (q : Sequence) {s : State} (hc : Calm 1 s) (hseq : s.sq.seq = .op)
    (hcyc : s.sq.cyc = 2) (hq : Follows q .zp false) (hu : s.mayUse (indexSources .zp) = true) (n : Nat) :
    ∃ t, runSeq (.given b0 b1 b2) q (n + 1) s = runSeq (.given b0 b1 b2) q n t ∧ Kept s t 1 ∧
      t.cpu.pc = s.cpu.pc + 1 ∧ Addressed .zp false s t b1 b2 := by
  obtain ⟨d1, t1, e1, k1, p1, q1, _, v1⟩ := runSeq_latch_fetch (.given b0 b1 b2) q (n) (s := s)
    (hc.mono (by omega)) (by rw [hseq]; decide) (slot := .first)
    (act := fun v t => (t.setEA (zext16 v)).nextCycle)
    (l := fun d => { s.sq with op1 := d, ea := zext16 d, cyc := 3 })
    (by intro u h _ _; rw [hq u (by rw [h, hcyc]; decide), h, hcyc]; simp only [addressCycle, MicroOp.discard, h])
    (by
      intro v u h hx hy hw
      simp only [State.keepOperand, State.setEA, State.setPTR, State.setLo, State.latchIndexed, State.fixEA,
        State.nextCycle, State.index, h, hcyc, hx, hy]
      try (split <;> simp_all))
    (by intro d; simp only [hseq]; decide)
  have K1 := k1
  have S1 : t1.sq.seq = .op := by rw [q1]; exact hseq
  have C1 : t1.sq.cyc = 3 := by rw [q1]
  refine ⟨t1, by rw [e1], K1, ?_, ?_⟩
  · rw [p1]
  · constructor
    · exact S1
    · exact C1
    · simp [q1, Feed.pick, canCross, State.effectiveAddress, State.index, State.indexBase, State.zpPointer]
    · simp [canCross]
    · simp [canCross]
    · simp [canCross]
    all_goals simp only [q1]

theorem address_zp_always (b0 b1 b2 : Byte) (q : Sequence) {s : State} (hc : Calm 1 s) (hseq : s.sq.seq = .op)
    (hcyc : s.sq.cyc = 2) (hq : Follows q .zp true) (hu : s.mayUse (indexSources .zp) = true) (n : Nat) :
    ∃ t, runSeq (.given b0 b1 b2) q (n + 1) s = runSeq (.given b0 b1 b2) q n t ∧ Kept s t 1 ∧
      t.cpu.pc = s.cpu.pc + 1 ∧ Addressed .zp true s t b1 b2 := by
  obtain ⟨d1, t1, e1, k1, p1, q1, _, v1⟩ := runSeq_latch_fetch (.given b0 b1 b2) q (n) (s := s)
    (hc.mono (by omega)) (by rw [hseq]; decide) (slot := .first)
    (act := fun v t => (t.setEA (zext16 v)).nextCycle)
    (l := fun d => { s.sq with op1 := d, ea := zext16 d, cyc := 3 })
    (by intro u h _ _; rw [hq u (by rw [h, hcyc]; decide), h, hcyc]; simp only [addressCycle, MicroOp.discard, h])
    (by
      intro v u h hx hy hw
      simp only [State.keepOperand, State.setEA, State.setPTR, State.setLo, State.latchIndexed, State.fixEA,
        State.nextCycle, State.index, h, hcyc, hx, hy]
      try (split <;> simp_all))
    (by intro d; simp only [hseq]; decide)
  have K1 := k1
  have S1 : t1.sq.seq = .op := by rw [q1]; exact hseq
  have C1 : t1.sq.cyc = 3 := by rw [q1]
  refine ⟨t1, by rw [e1], K1, ?_, ?_⟩
  · rw [p1]
  · constructor
    · exact S1
    · exact C1
    · simp [q1, Feed.pick, canCross, State.effectiveAddress, State.index, State.indexBase, State.zpPointer]
    · simp [canCross]
    · simp [canCross]
    · simp [canCross]
    all_goals simp only [q1]

theorem address_zpx_once (b0 b1 b2 : Byte) (q : Sequence) {s : State} (hc : Calm 2 s) (hseq : s.sq.seq = .op)
    (hcyc : s.sq.cyc = 2) (hq : Follows q .zpx false) (hu : s.mayUse (indexSources .zpx) = true) (n : Nat) :
    ∃ t, runSeq (.given b0 b1 b2) q (n + 2) s = runSeq (.given b0 b1 b2) q n t ∧ Kept s t 2 ∧
      t.cpu.pc = s.cpu.pc + 1 ∧ Addressed .zpx false s t b1 b2 := by
  obtain ⟨d1, t1, e1, k1, p1, q1, _, v1⟩ := runSeq_latch_fetch (.given b0 b1 b2) q (n + 1) (s := s)
    (hc.mono (by omega)) (by rw [hseq]; decide) (slot := .first)
    (act := fun v t => (t.setPTR v).nextCycle)
    (l := fun d => { s.sq with op1 := d, ptr := d, cyc := 3 })
    (by intro u h _ _; rw [hq u (by rw [h, hcyc]; decide), h, hcyc]; simp only [addressCycle, MicroOp.discard, h])
    (by
      intro v u h hx hy hw
      simp only [State.keepOperand, State.setEA, State.setPTR, State.setLo, State.latchIndexed, State.fixEA,
        State.nextCycle, State.index, h, hcyc, hx, hy]
      try (split <;> simp_all))
    (by intro d; simp only [hseq]; decide)
  have K1 := k1
  have S1 : t1.sq.seq = .op := by rw [q1]; exact hseq
  have C1 : t1.sq.cyc = 3 := by rw [q1]
  obtain ⟨d2, t2, e2, k2, p2, q2, _, v2⟩ := runSeq_latch_read (.given b0 b1 b2) q (n) (s := t1)
    ((K1.calm (n := 1) hc).mono (by omega)) (by rw [S1]; decide) (addr := zext16 t1.sq.ptr)
    (act := fun _ t => t.using (indexSources .zpx) fun t => (t.setEA (zpIndexed t.sq.ptr (t.index .zpx))).nextCycle)
    (l := fun d => { t1.sq with ea := zpIndexed t1.sq.ptr s.cpu.x, cyc := 4 })
    (by intro u h _ _; rw [hq u (by rw [h, C1]; decide), h, C1]; simp only [addressCycle, MicroOp.discard, h])
    (by
      intro v u h hx hy hw
      refine (State.using_eq (hw _ (K1.mayUse hu)) _).trans ?_
      simp only [State.keepOperand, State.setEA, State.setPTR, State.setLo, State.latchIndexed, State.fixEA,
        State.nextCycle, State.index, h, C1, hx, hy, K1.x, K1.y]
      try (split <;> simp_all))
    (by intro d; simp only [S1]; decide)
  have K2 := K1.trans k2
  have S2 : t2.sq.seq = .op := by rw [q2]; exact S1
  have C2 : t2.sq.cyc = 4 := by rw [q2]
  refine ⟨t2, by rw [e1, e2], K2, ?_, ?_⟩
  · rw [p2, p1]
  · constructor
    · exact S2
    · exact C2
    · simp [q2, q1, Feed.pick, canCross, State.effectiveAddress, State.index, State.indexBase, State.zpPointer]
    · simp [canCross]
    · simp [canCross]
    · simp [canCross]
    all_goals simp only [q2, q1]

theorem address_zpx_always (b0 b1 b2 : Byte) (q : Sequence) {s : State} (hc : Calm 2 s) (hseq : s.sq.seq = .op)
    (hcyc : s.sq.cyc = 2) (hq : Follows q .zpx true) (hu : s.mayUse (indexSources .zpx) = true) (n : Nat) :
    ∃ t, runSeq (.given b0 b1 b2) q (n + 2) s = runSeq (.given b0 b1 b2) q n t ∧ Kept s t 2 ∧
      t.cpu.pc = s.cpu.pc + 1 ∧ Addressed .zpx true s t b1 b2 := by
  obtain ⟨d1, t1, e1, k1, p1, q1, _, v1⟩ := runSeq_latch_fetch (.given b0 b1 b2) q (n + 1) (s := s)
    (hc.mono (by omega)) (by rw [hseq]; decide) (slot := .first)
    (act := fun v t => (t.setPTR v).nextCycle)
    (l := fun d => { s.sq with op1 := d, ptr := d, cyc := 3 })
    (by intro u h _ _; rw [hq u (by rw [h, hcyc]; decide), h, hcyc]; simp only [addressCycle, MicroOp.discard, h])
    (by
      intro v u h hx hy hw
      simp only [State.keepOperand, State.setEA, State.setPTR, State.setLo, State.latchIndexed, State.fixEA,
        State.nextCycle, State.index, h, hcyc, hx, hy]
      try (split <;> simp_all))
    (by intro d; simp only [hseq]; decide)
  have K1 := k1
  have S1 : t1.sq.seq = .op := by rw [q1]; exact hseq
  have C1 : t1.sq.cyc = 3 := by rw [q1]
  obtain ⟨d2, t2, e2, k2, p2, q2, _, v2⟩ := runSeq_latch_read (.given b0 b1 b2) q (n) (s := t1)
    ((K1.calm (n := 1) hc).mono (by omega)) (by rw [S1]; decide) (addr := zext16 t1.sq.ptr)
    (act := fun _ t => t.using (indexSources .zpx) fun t => (t.setEA (zpIndexed t.sq.ptr (t.index .zpx))).nextCycle)
    (l := fun d => { t1.sq with ea := zpIndexed t1.sq.ptr s.cpu.x, cyc := 4 })
    (by intro u h _ _; rw [hq u (by rw [h, C1]; decide), h, C1]; simp only [addressCycle, MicroOp.discard, h])
    (by
      intro v u h hx hy hw
      refine (State.using_eq (hw _ (K1.mayUse hu)) _).trans ?_
      simp only [State.keepOperand, State.setEA, State.setPTR, State.setLo, State.latchIndexed, State.fixEA,
        State.nextCycle, State.index, h, C1, hx, hy, K1.x, K1.y]
      try (split <;> simp_all))
    (by intro d; simp only [S1]; decide)
  have K2 := K1.trans k2
  have S2 : t2.sq.seq = .op := by rw [q2]; exact S1
  have C2 : t2.sq.cyc = 4 := by rw [q2]
  refine ⟨t2, by rw [e1, e2], K2, ?_, ?_⟩
  · rw [p2, p1]
  · constructor
    · exact S2
    · exact C2
    · simp [q2, q1, Feed.pick, canCross, State.effectiveAddress, State.index, State.indexBase, State.zpPointer]
    · simp [canCross]
    · simp [canCross]
    · simp [canCross]
    all_goals simp only [q2, q1]

theorem address_zpy_once (b0 b1 b2 : Byte) (q : Sequence) {s : State} (hc : Calm 2 s) (hseq : s.sq.seq = .op)
    (hcyc : s.sq.cyc = 2) (hq : Follows q .zpy false) (hu : s.mayUse (indexSources .zpy) = true) (n : Nat) :
    ∃ t, runSeq (.given b0 b1 b2) q (n + 2) s = runSeq (.given b0 b1 b2) q n t ∧ Kept s t 2 ∧
      t.cpu.pc = s.cpu.pc + 1 ∧ Addressed .zpy false s t b1 b2 := by
  obtain ⟨d1, t1, e1, k1, p1, q1, _, v1⟩ := runSeq_latch_fetch (.given b0 b1 b2) q (n + 1) (s := s)
    (hc.mono (by omega)) (by rw [hseq]; decide) (slot := .first)
    (act := fun v t => (t.setPTR v).nextCycle)
    (l := fun d => { s.sq with op1 := d, ptr := d, cyc := 3 })
    (by intro u h _ _; rw [hq u (by rw [h, hcyc]; decide), h, hcyc]; simp only [addressCycle, MicroOp.discard, h])
    (by
      intro v u h hx hy hw
      simp only [State.keepOperand, State.setEA, State.setPTR, State.setLo, State.latchIndexed, State.fixEA,
        State.nextCycle, State.index, h, hcyc, hx, hy]
      try (split <;> simp_all))
    (by intro d; simp only [hseq]; decide)
  have K1 := k1
  have S1 : t1.sq.seq = .op := by rw [q1]; exact hseq
  have C1 : t1.sq.cyc = 3 := by rw [q1]
  obtain ⟨d2, t2, e2, k2, p2, q2, _, v2⟩ := runSeq_latch_read (.given b0 b1 b2) q (n) (s := t1)
    ((K1.calm (n := 1) hc).mono (by omega)) (by rw [S1]; decide) (addr := zext16 t1.sq.ptr)
    (act := fun _ t => t.using (indexSources .zpy) fun t => (t.setEA (zpIndexed t.sq.ptr (t.index .zpy))).nextCycle)
    (l := fun d => { t1.sq with ea := zpIndexed t1.sq.ptr s.cpu.y, cyc := 4 })
    (by intro u h _ _; rw [hq u (by rw [h, C1]; decide), h, C1]; simp only [addressCycle, MicroOp.discard, h])
    (by
      intro v u h hx hy hw
      refine (State.using_eq (hw _ (K1.mayUse hu)) _).trans ?_
      simp only [State.keepOperand, State.setEA, State.setPTR, State.setLo, State.latchIndexed, State.fixEA,
        State.nextCycle, State.index, h, C1, hx, hy, K1.x, K1.y]
      try (split <;> simp_all))
    (by intro d; simp only [S1]; decide)
  have K2 := K1.trans k2
  have S2 : t2.sq.seq = .op := by rw [q2]; exact S1
  have C2 : t2.sq.cyc = 4 := by rw [q2]
  refine ⟨t2, by rw [e1, e2], K2, ?_, ?_⟩
  · rw [p2, p1]
  · constructor
    · exact S2
    · exact C2
    · simp [q2, q1, Feed.pick, canCross, State.effectiveAddress, State.index, State.indexBase, State.zpPointer]
    · simp [canCross]
    · simp [canCross]
    · simp [canCross]
    all_goals simp only [q2, q1]

theorem address_zpy_always (b0 b1 b2 : Byte) (q : Sequence) {s : State} (hc : Calm 2 s) (hseq : s.sq.seq = .op)
    (hcyc : s.sq.cyc = 2) (hq : Follows q .zpy true) (hu : s.mayUse (indexSources .zpy) = true) (n : Nat) :
    ∃ t, runSeq (.given b0 b1 b2) q (n + 2) s = runSeq (.given b0 b1 b2) q n t ∧ Kept s t 2 ∧
      t.cpu.pc = s.cpu.pc + 1 ∧ Addressed .zpy true s t b1 b2 := by
  obtain ⟨d1, t1, e1, k1, p1, q1, _, v1⟩ := runSeq_latch_fetch (.given b0 b1 b2) q (n + 1) (s := s)
    (hc.mono (by omega)) (by rw [hseq]; decide) (slot := .first)
    (act := fun v t => (t.setPTR v).nextCycle)
    (l := fun d => { s.sq with op1 := d, ptr := d, cyc := 3 })
    (by intro u h _ _; rw [hq u (by rw [h, hcyc]; decide), h, hcyc]; simp only [addressCycle, MicroOp.discard, h])
    (by
      intro v u h hx hy hw
      simp only [State.keepOperand, State.setEA, State.setPTR, State.setLo, State.latchIndexed, State.fixEA,
        State.nextCycle, State.index, h, hcyc, hx, hy]
      try (split <;> simp_all))
    (by intro d; simp only [hseq]; decide)
  have K1 := k1
  have S1 : t1.sq.seq = .op := by rw [q1]; exact hseq
  have C1 : t1.sq.cyc = 3 := by rw [q1]
  obtain ⟨d2, t2, e2, k2, p2, q2, _, v2⟩ := runSeq_latch_read (.given b0 b1 b2) q (n) (s := t1)
    ((K1.calm (n := 1) hc).mono (by omega)) (by rw [S1]; decide) (addr := zext16 t1.sq.ptr)
    (act := fun _ t => t.using (indexSources .zpy) fun t => (t.setEA (zpIndexed t.sq.ptr (t.index .zpy))).nextCycle)
    (l := fun d => { t1.sq with ea := zpIndexed t1.sq.ptr s.cpu.y, cyc := 4 })
    (by intro u h _ _; rw [hq u (by rw [h, C1]; decide), h, C1]; simp only [addressCycle, MicroOp.discard, h])
    (by
      intro v u h hx hy hw
      refine (State.using_eq (hw _ (K1.mayUse hu)) _).trans ?_
      simp only [State.keepOperand, State.setEA, State.setPTR, State.setLo, State.latchIndexed, State.fixEA,
        State.nextCycle, State.index, h, C1, hx, hy, K1.x, K1.y]
      try (split <;> simp_all))
    (by intro d; simp only [S1]; decide)
  have K2 := K1.trans k2
  have S2 : t2.sq.seq = .op := by rw [q2]; exact S1
  have C2 : t2.sq.cyc = 4 := by rw [q2]
  refine ⟨t2, by rw [e1, e2], K2, ?_, ?_⟩
  · rw [p2, p1]
  · constructor
    · exact S2
    · exact C2
    · simp [q2, q1, Feed.pick, canCross, State.effectiveAddress, State.index, State.indexBase, State.zpPointer]
    · simp [canCross]
    · simp [canCross]
    · simp [canCross]
    all_goals simp only [q2, q1]

theorem address_abs_once (b0 b1 b2 : Byte) (q : Sequence) {s : State} (hc : Calm 2 s) (hseq : s.sq.seq = .op)
    (hcyc : s.sq.cyc = 2) (hq : Follows q .abs false) (hu : s.mayUse (indexSources .abs) = true) (n : Nat) :
    ∃ t, runSeq (.given b0 b1 b2) q (n + 2) s = runSeq (.given b0 b1 b2) q n t ∧ Kept s t 2 ∧
      t.cpu.pc = s.cpu.pc + 2 ∧ Addressed .abs false s t b1 b2 := by
  obtain ⟨d1, t1, e1, k1, p1, q1, _, v1⟩ := runSeq_latch_fetch (.given b0 b1 b2) q (n + 1) (s := s)
    (hc.mono (by omega)) (by rw [hseq]; decide) (slot := .first)
    (act := fun v t => (t.setLo v).nextCycle)
    (l := fun d => { s.sq with op1 := d, lo := d, cyc := 3 })
    (by intro u h _ _; rw [hq u (by rw [h, hcyc]; decide), h, hcyc]; simp only [addressCycle, MicroOp.discard, h])
    (by
      intro v u h hx hy hw
      simp only [State.keepOperand, State.setEA, State.setPTR, State.setLo, State.latchIndexed, State.fixEA,
        State.nextCycle, State.index, h, hcyc, hx, hy]
      try (split <;> simp_all))
    (by intro d; simp only [hseq]; decide)
  have K1 := k1
  have S1 : t1.sq.seq = .op := by rw [q1]; exact hseq
  have C1 : t1.sq.cyc = 3 := by rw [q1]
  obtain ⟨d2, t2, e2, k2, p2, q2, _, v2⟩ := runSeq_latch_fetch (.given b0 b1 b2) q (n) (s := t1)
    ((K1.calm (n := 1) hc).mono (by omega)) (by rw [S1]; decide) (slot := .second)
    (act := fun v t => (t.setEA (joinBytes v t.sq.lo)).nextCycle)
    (l := fun d => { t1.sq with op2 := d, ea := joinBytes d t1.sq.lo, cyc := 4 })
    (by intro u h _ _; rw [hq u (by rw [h, C1]; decide), h, C1]; simp only [addressCycle, MicroOp.discard, h])
    (by
      intro v u h hx hy hw
      simp only [State.keepOperand, State.setEA, State.setPTR, State.setLo, State.latchIndexed, State.fixEA,
        State.nextCycle, State.index, h, C1, hx, hy, K1.x, K1.y]
      try (split <;> simp_all))
    (by intro d; simp only [S1]; decide)
  have K2 := K1.trans k2
  have S2 : t2.sq.seq = .op := by rw [q2]; exact S1
  have C2 : t2.sq.cyc = 4 := by rw [q2]
  refine ⟨t2, by rw [e1, e2], K2, ?_, ?_⟩
  · rw [p2, p1]; rw [BitVec.add_assoc]; rfl
  · constructor
    · exact S2
    · exact C2
    · simp [q2, q1, Feed.pick, canCross, State.effectiveAddress, State.index, State.indexBase, State.zpPointer]
    · simp [canCross]
    · simp [canCross]
    · simp [canCross]
    all_goals simp only [q2, q1]

theorem address_abs_always (b0 b1 b2 : Byte) (q : Sequence) {s : State} (hc : Calm 2 s) (hseq : s.sq.seq = .op)
    (hcyc : s.sq.cyc = 2) (hq : Follows q .abs true) (hu : s.mayUse (indexSources .abs) = true) (n : Nat) :
    ∃ t, runSeq (.given b0 b1 b2) q (n + 2) s = runSeq (.given b0 b1 b2) q n t ∧ Kept s t 2 ∧
      t.cpu.pc = s.cpu.pc + 2 ∧ Addressed .abs true s t b1 b2 := by
  obtain ⟨d1, t1, e1, k1, p1, q1, _, v1⟩ := runSeq_latch_fetch (.given b0 b1 b2) q (n + 1) (s := s)
    (hc.mono (by omega)) (by rw [hseq]; decide) (slot := .first)
    (act := fun v t => (t.setLo v).nextCycle)
    (l := fun d => { s.sq with op1 := d, lo := d, cyc := 3 })
    (by intro u h _ _; rw [hq u (by rw [h, hcyc]; decide), h, hcyc]; simp only [addressCycle, MicroOp.discard, h])
    (by
      intro v u h hx hy hw
      simp only [State.keepOperand, State.setEA, State.setPTR, State.setLo, State.latchIndexed, State.fixEA,
        State.nextCycle, State.index, h, hcyc, hx, hy]
      try (split <;> simp_all))
    (by intro d; simp only [hseq]; decide)
  have K1 := k1
  have S1 : t1.sq.seq = .op := by rw [q1]; exact hseq
  have C1 : t1.sq.cyc = 3 := by rw [q1]
  obtain ⟨d2, t2, e2, k2, p2, q2, _, v2⟩ := runSeq_latch_fetch (.given b0 b1 b2) q (n) (s := t1)
    ((K1.calm (n := 1) hc).mono (by omega)) (by rw [S1]; decide) (slot := .second)
    (act := fun v t => (t.setEA (joinBytes v t.sq.lo)).nextCycle)
    (l := fun d => { t1.sq with op2 := d, ea := joinBytes d t1.sq.lo, cyc := 4 })
    (by intro u h _ _; rw [hq u (by rw [h, C1]; decide), h, C1]; simp only [addressCycle, MicroOp.discard, h])
    (by
      intro v u h hx hy hw
      simp only [State.keepOperand, State.setEA, State.setPTR, State.setLo, State.latchIndexed, State.fixEA,
        State.nextCycle, State.index, h, C1, hx, hy, K1.x, K1.y]
      try (split <;> simp_all))
    (by intro d; simp only [S1]; decide)
  have K2 := K1.trans k2
  have S2 : t2.sq.seq = .op := by rw [q2]; exact S1
  have C2 : t2.sq.cyc = 4 := by rw [q2]
  refine ⟨t2, by rw [e1, e2], K2, ?_, ?_⟩
  · rw [p2, p1]; rw [BitVec.add_assoc]; rfl
  · constructor
    · exact S2
    · exact C2
    · simp [q2, q1, Feed.pick, canCross, State.effectiveAddress, State.index, State.indexBase, State.zpPointer]
    · simp [canCross]
    · simp [canCross]
    · simp [canCross]
    all_goals simp only [q2, q1]

theorem address_izx_once (b0 b1 b2 : Byte) (q : Sequence) {s : State} (hc : Calm 4 s) (hseq : s.sq.seq = .op)
    (hcyc : s.sq.cyc = 2) (hq : Follows q .izx false) (hu : s.mayUse (indexSources .izx) = true) (n : Nat) :
    ∃ t, runSeq (.given b0 b1 b2) q (n + 4) s = runSeq (.given b0 b1 b2) q n t ∧ Kept s t 4 ∧
      t.cpu.pc = s.cpu.pc + 1 ∧ Addressed .izx false s t b1 b2 := by
  obtain ⟨d1, t1, e1, k1, p1, q1, _, v1⟩ := runSeq_latch_fetch (.given b0 b1 b2) q (n + 3) (s := s)
    (hc.mono (by omega)) (by rw [hseq]; decide) (slot := .first)
    (act := fun v t => (t.setPTR v).nextCycle)
    (l := fun d => { s.sq with op1 := d, ptr := d, cyc := 3 })
    (by intro u h _ _; rw [hq u (by rw [h, hcyc]; decide), h, hcyc]; simp only [addressCycle, MicroOp.discard, h])
    (by
      intro v u h hx hy hw
      simp only [State.keepOperand, State.setEA, State.setPTR, State.setLo, State.latchIndexed, State.fixEA,
        State.nextCycle, State.index, h, hcyc, hx, hy]
      try (split <;> simp_all))
    (by intro d; simp only [hseq]; decide)
  have K1 := k1
  have S1 : t1.sq.seq = .op := by rw [q1]; exact hseq
  have C1 : t1.sq.cyc = 3 := by rw [q1]
  obtain ⟨d2, t2, e2, k2, p2, q2, _, v2⟩ := runSeq_latch_read (.given b0 b1 b2) q (n + 2) (s := t1)
    ((K1.calm (n := 3) hc).mono (by omega)) (by rw [S1]; decide) (addr := zext16 t1.sq.ptr)
    (act := fun _ t => t.using (indexSources .izx) fun t => (t.setPTR (t.sq.ptr + t.cpu.x)).nextCycle)
    (l := fun d => { t1.sq with ptr := t1.sq.ptr + s.cpu.x, cyc := 4 })
    (by intro u h _ _; rw [hq u (by rw [h, C1]; decide), h, C1]; simp only [addressCycle, MicroOp.discard, h])
    (by
      intro v u h hx hy hw
      refine (State.using_eq (hw _ (K1.mayUse hu)) _).trans ?_
      simp only [State.keepOperand, State.setEA, State.setPTR, State.setLo, State.latchIndexed, State.fixEA,
        State.nextCycle, State.index, h, C1, hx, hy, K1.x, K1.y]
      try (split <;> simp_all))
    (by intro d; simp only [S1]; decide)
  have K2 := K1.trans k2
  have S2 : t2.sq.seq = .op := by rw [q2]; exact S1
  have C2 : t2.sq.cyc = 4 := by rw [q2]
  obtain ⟨d3, t3, e3, k3, p3, q3, _, v3⟩ := runSeq_latch_read (.given b0 b1 b2) q (n + 1) (s := t2)
    ((K2.calm (n := 2) hc).mono (by omega)) (by rw [S2]; decide) (addr := zext16 t2.sq.ptr)
    (act := fun d t => (t.setLo d).nextCycle)
    (l := fun d => { t2.sq with lo := d, cyc := 5 })
    (by intro u h _ _; rw [hq u (by rw [h, C2]; decide), h, C2]; simp only [addressCycle, MicroOp.discard, h])
    (by
      intro v u h hx hy hw
      simp only [State.keepOperand, State.setEA, State.setPTR, State.setLo, State.latchIndexed, State.fixEA,
        State.nextCycle, State.index, h, C2, hx, hy, K2.x, K2.y]
      try (split <;> simp_all))
    (by intro d; simp only [S2]; decide)
  have K3 := K2.trans k3
  have S3 : t3.sq.seq = .op := by rw [q3]; exact S2
  have C3 : t3.sq.cyc = 5 := by rw [q3]
  obtain ⟨d4, t4, e4, k4, p4, q4, _, v4⟩ := runSeq_latch_read (.given b0 b1 b2) q (n) (s := t3)
    ((K3.calm (n := 1) hc).mono (by omega)) (by rw [S3]; decide) (addr := zext16 (t3.sq.ptr + 1))
    (act := fun d t => (t.setEA (joinBytes d t.sq.lo)).nextCycle)
    (l := fun d => { t3.sq with ea := joinBytes d t3.sq.lo, cyc := 6 })
    (by intro u h _ _; rw [hq u (by rw [h, C3]; decide), h, C3]; simp only [addressCycle, MicroOp.discard, h])
    (by
      intro v u h hx hy hw
      simp only [State.keepOperand, State.setEA, State.setPTR, State.setLo, State.latchIndexed, State.fixEA,
        State.nextCycle, State.index, h, C3, hx, hy, K3.x, K3.y]
      try (split <;> simp_all))
    (by intro d; simp only [S3]; decide)
  have K4 := K3.trans k4
  have S4 : t4.sq.seq = .op := by rw [q4]; exact S3
  have C4 : t4.sq.cyc = 6 := by rw [q4]
  have w3 : d3 = s.peek (zext16 (b1 + s.cpu.x)) := by
    have h := v3 (State.isStored_of_isRam (State.isRam_zext16 (K2.pages hc.pages) _))
    simp only [State.peek, K2.mem, q2, q1, Feed.pick] at h
    exact h
  have w4 : d4 = s.peek (zext16 (b1 + s.cpu.x + 1)) := by
    have h := v4 (State.isStored_of_isRam (State.isRam_zext16 (K3.pages hc.pages) _))
    simp only [State.peek, K3.mem, q3, q2, q1, Feed.pick] at h
    exact h
  refine ⟨t4, by rw [e1, e2, e3, e4], K4, ?_, ?_⟩
  · rw [p4, p3, p2, p1]
  · constructor
    · exact S4
    · exact C4
    · simp [q4, q3, q2, q1, Feed.pick, w3, w4, canCross, State.effectiveAddress, State.index, State.indexBase, State.zpPointer]
    · simp [canCross]
    · simp [canCross]
    · simp [canCross]
    all_goals simp only [q4, q3, q2, q1]

theorem address_izx_always (b0 b1 b2 : Byte) (q : Sequence) {s : State} (hc : Calm 4 s) (hseq : s.sq.seq = .op)
    (hcyc : s.sq.cyc = 2) (hq : Follows q .izx true) (hu : s.mayUse (indexSources .izx) = true) (n : Nat) :
    ∃ t, runSeq (.given b0 b1 b2) q (n + 4) s = runSeq (.given b0 b1 b2) q n t ∧ Kept s t 4 ∧
      t.cpu.pc = s.cpu.pc + 1 ∧ Addressed .izx true s t b1 b2 := by
  obtain ⟨d1, t1, e1, k1, p1, q1, _, v1⟩ := runSeq_latch_fetch (.given b0 b1 b2) q (n + 3) (s := s)
    (hc.mono (by omega)) (by rw [hseq]; decide) (slot := .first)
    (act := fun v t => (t.setPTR v).nextCycle)
    (l := fun d => { s.sq with op1 := d, ptr := d, cyc := 3 })
    (by intro u h _ _; rw [hq u (by rw [h, hcyc]; decide), h, hcyc]; simp only [addressCycle, MicroOp.discard, h])
    (by
      intro v u h hx hy hw
      simp only [State.keepOperand, State.setEA, State.setPTR, State.setLo, State.latchIndexed, State.fixEA,
        State.nextCycle, State.index, h, hcyc, hx, hy]
      try (split <;> simp_all))
    (by intro d; simp only [hseq]; decide)
  have K1 := k1
  have S1 : t1.sq.seq = .op := by rw [q1]; exact hseq
  have C1 : t1.sq.cyc = 3 := by rw [q1]
  obtain ⟨d2, t2, e2, k2, p2, q2, _, v2⟩ := runSeq_latch_read (.given b0 b1 b2) q (n + 2) (s := t1)
    ((K1.calm (n := 3) hc).mono (by omega)) (by rw [S1]; decide) (addr := zext16 t1.sq.ptr)
    (act := fun _ t => t.using (indexSources .izx) fun t => (t.setPTR (t.sq.ptr + t.cpu.x)).nextCycle)
    (l := fun d => { t1.sq with ptr := t1.sq.ptr + s.cpu.x, cyc := 4 })
    (by intro u h _ _; rw [hq u (by rw [h, C1]; decide), h, C1]; simp only [addressCycle, MicroOp.discard, h])
    (by
      intro v u h hx hy hw
      refine (State.using_eq (hw _ (K1.mayUse hu)) _).trans ?_
      simp only [State.keepOperand, State.setEA, State.setPTR, State.setLo, State.latchIndexed, State.fixEA,
        State.nextCycle, State.index, h, C1, hx, hy, K1.x, K1.y]
      try (split <;> simp_all))
    (by intro d; simp only [S1]; decide)
  have K2 := K1.trans k2
  have S2 : t2.sq.seq = .op := by rw [q2]; exact S1
  have C2 : t2.sq.cyc = 4 := by rw [q2]
  obtain ⟨d3, t3, e3, k3, p3, q3, _, v3⟩ := runSeq_latch_read (.given b0 b1 b2) q (n + 1) (s := t2)
    ((K2.calm (n := 2) hc).mono (by omega)) (by rw [S2]; decide) (addr := zext16 t2.sq.ptr)
    (act := fun d t => (t.setLo d).nextCycle)
    (l := fun d => { t2.sq with lo := d, cyc := 5 })
    (by intro u h _ _; rw [hq u (by rw [h, C2]; decide), h, C2]; simp only [addressCycle, MicroOp.discard, h])
    (by
      intro v u h hx hy hw
      simp only [State.keepOperand, State.setEA, State.setPTR, State.setLo, State.latchIndexed, State.fixEA,
        State.nextCycle, State.index, h, C2, hx, hy, K2.x, K2.y]
      try (split <;> simp_all))
    (by intro d; simp only [S2]; decide)
  have K3 := K2.trans k3
  have S3 : t3.sq.seq = .op := by rw [q3]; exact S2
  have C3 : t3.sq.cyc = 5 := by rw [q3]
  obtain ⟨d4, t4, e4, k4, p4, q4, _, v4⟩ := runSeq_latch_read (.given b0 b1 b2) q (n) (s := t3)
    ((K3.calm (n := 1) hc).mono (by omega)) (by rw [S3]; decide) (addr := zext16 (t3.sq.ptr + 1))
    (act := fun d t => (t.setEA (joinBytes d t.sq.lo)).nextCycle)
    (l := fun d => { t3.sq with ea := joinBytes d t3.sq.lo, cyc := 6 })
    (by intro u h _ _; rw [hq u (by rw [h, C3]; decide), h, C3]; simp only [addressCycle, MicroOp.discard, h])
    (by
      intro v u h hx hy hw
      simp only [State.keepOperand, State.setEA, State.setPTR, State.setLo, State.latchIndexed, State.fixEA,
        State.nextCycle, State.index, h, C3, hx, hy, K3.x, K3.y]
      try (split <;> simp_all))
    (by intro d; simp only [S3]; decide)
  have K4 := K3.trans k4
  have S4 : t4.sq.seq = .op := by rw [q4]; exact S3
  have C4 : t4.sq.cyc = 6 := by rw [q4]
  have w3 : d3 = s.peek (zext16 (b1 + s.cpu.x)) := by
    have h := v3 (State.isStored_of_isRam (State.isRam_zext16 (K2.pages hc.pages) _))
    simp only [State.peek, K2.mem, q2, q1, Feed.pick] at h
    exact h
  have w4 : d4 = s.peek (zext16 (b1 + s.cpu.x + 1)) := by
    have h := v4 (State.isStored_of_isRam (State.isRam_zext16 (K3.pages hc.pages) _))
    simp only [State.peek, K3.mem, q3, q2, q1, Feed.pick] at h
    exact h
  refine ⟨t4, by rw [e1, e2, e3, e4], K4, ?_, ?_⟩
  · rw [p4, p3, p2, p1]
  · constructor
    · exact S4
    · exact C4
    · simp [q4, q3, q2, q1, Feed.pick, w3, w4, canCross, State.effectiveAddress, State.index, State.indexBase, State.zpPointer]
    · simp [canCross]
    · simp [canCross]
    · simp [canCross]
    all_goals simp only [q4, q3, q2, q1]

theorem address_abx_once (b0 b1 b2 : Byte) (q : Sequence) {s : State} (hc : Calm 2 s) (hseq : s.sq.seq = .op)
    (hcyc : s.sq.cyc = 2) (hq : Follows q .abx false) (hu : s.mayUse (indexSources .abx) = true) (n : Nat) :
    ∃ t, runSeq (.given b0 b1 b2) q (n + 2) s = runSeq (.given b0 b1 b2) q n t ∧ Kept s t 2 ∧
      t.cpu.pc = s.cpu.pc + 2 ∧ Addressed .abx false s t b1 b2 := by
  obtain ⟨d1, t1, e1, k1, p1, q1, _, v1⟩ := runSeq_latch_fetch (.given b0 b1 b2) q (n + 1) (s := s)
    (hc.mono (by omega)) (by rw [hseq]; decide) (slot := .first)
    (act := fun v t => (t.setLo v).nextCycle)
    (l := fun d => { s.sq with op1 := d, lo := d, cyc := 3 })
    (by intro u h _ _; rw [hq u (by rw [h, hcyc]; decide), h, hcyc]; simp only [addressCycle, MicroOp.discard, h])
    (by
      intro v u h hx hy hw
      simp only [State.keepOperand, State.setEA, State.setPTR, State.setLo, State.latchIndexed, State.fixEA,
        State.nextCycle, State.index, h, hcyc, hx, hy]
      try (split <;> simp_all))
    (by intro d; simp only [hseq]; decide)
  have K1 := k1
  have S1 : t1.sq.seq = .op := by rw [q1]; exact hseq
  have C1 : t1.sq.cyc = 3 := by rw [q1]
  obtain ⟨d2, t2, e2, k2, p2, q2, _, v2⟩ := runSeq_latch_fetch (.given b0 b1 b2) q (n) (s := t1)
    ((K1.calm (n := 1) hc).mono (by omega)) (by rw [S1]; decide) (slot := .second)
    (act := fun v t => t.using (indexSources .abx) fun t => (t.latchIndexed (joinBytes v t.sq.lo) (t.index .abx)).nextCycle)
    (l := fun d => { t1.sq with op2 := d, bah := hi (joinBytes d t1.sq.lo), cross := crosses (joinBytes d t1.sq.lo) s.cpu.x, ea := unfixed (joinBytes d t1.sq.lo) s.cpu.x, cyc := 4 })
    (by intro u h _ _; rw [hq u (by rw [h, C1]; decide), h, C1]; simp only [addressCycle, MicroOp.discard, h])
    (by
      intro v u h hx hy hw
      refine (State.using_eq (s := u.keepOperand .second v) (hw _ (K1.mayUse hu)) _).trans ?_
      simp only [State.keepOperand, State.setEA, State.setPTR, State.setLo, State.latchIndexed, State.fixEA,
        State.nextCycle, State.index, h, C1, hx, hy, K1.x, K1.y]
      try (split <;> simp_all))
    (by intro d; simp only [S1]; decide)
  have K2 := K1.trans k2
  have S2 : t2.sq.seq = .op := by rw [q2]; exact S1
  have C2 : t2.sq.cyc = 4 := by rw [q2]
  refine ⟨t2, by rw [e1, e2], K2, ?_, ?_⟩
  · rw [p2, p1]; rw [BitVec.add_assoc]; rfl
  · constructor
    · exact S2
    · exact C2
    · simp [q2, q1, Feed.pick, canCross, State.effectiveAddress, State.index, State.indexBase, State.zpPointer]
    · simp [q2, q1, Feed.pick, canCross, State.effectiveAddress, State.index, State.indexBase, State.zpPointer]
    · simp [q2, q1, Feed.pick, canCross, State.effectiveAddress, State.index, State.indexBase, State.zpPointer]
    · simp [q2, q1, Feed.pick, canCross, State.effectiveAddress, State.index, State.indexBase, State.zpPointer, lo_unfixed]
    all_goals simp only [q2, q1]

theorem address_abx_always (b0 b1 b2 : Byte) (q : Sequence) {s : State} (hc : Calm 3 s) (hseq : s.sq.seq = .op)
    (hcyc : s.sq.cyc = 2) (hq : Follows q .abx true) (hu : s.mayUse (indexSources .abx) = true) (n : Nat) :
    ∃ t, runSeq (.given b0 b1 b2) q (n + 3) s = runSeq (.given b0 b1 b2) q n t ∧ Kept s t 3 ∧
      t.cpu.pc = s.cpu.pc + 2 ∧ Addressed .abx true s t b1 b2 := by
  obtain ⟨d1, t1, e1, k1, p1, q1, _, v1⟩ := runSeq_latch_fetch (.given b0 b1 b2) q (n + 2) (s := s)
    (hc.mono (by omega)) (by rw [hseq]; decide) (slot := .first)
    (act := fun v t => (t.setLo v).nextCycle)
    (l := fun d => { s.sq with op1 := d, lo := d, cyc := 3 })
    (by intro u h _ _; rw [hq u (by rw [h, hcyc]; decide), h, hcyc]; simp only [addressCycle, MicroOp.discard, h])
    (by
      intro v u h hx hy hw
      simp only [State.keepOperand, State.setEA, State.setPTR, State.setLo, State.latchIndexed, State.fixEA,
        State.nextCycle, State.index, h, hcyc, hx, hy]
      try (split <;> simp_all))
    (by intro d; simp only [hseq]; decide)
  have K1 := k1
  have S1 : t1.sq.seq = .op := by rw [q1]; exact hseq
  have C1 : t1.sq.cyc = 3 := by rw [q1]
  obtain ⟨d2, t2, e2, k2, p2, q2, _, v2⟩ := runSeq_latch_fetch (.given b0 b1 b2) q (n + 1) (s := t1)
    ((K1.calm (n := 2) hc).mono (by omega)) (by rw [S1]; decide) (slot := .second)
    (act := fun v t => t.using (indexSources .abx) fun t => (t.latchIndexed (joinBytes v t.sq.lo) (t.index .abx)).nextCycle)
    (l := fun d => { t1.sq with op2 := d, bah := hi (joinBytes d t1.sq.lo), cross := crosses (joinBytes d t1.sq.lo) s.cpu.x, ea := unfixed (joinBytes d t1.sq.lo) s.cpu.x, cyc := 4 })
    (by intro u h _ _; rw [hq u (by rw [h, C1]; decide), h, C1]; simp only [addressCycle, MicroOp.discard, h])
    (by
      intro v u h hx hy hw
      refine (State.using_eq (s := u.keepOperand .second v) (hw _ (K1.mayUse hu)) _).trans ?_
      simp only [State.keepOperand, State.setEA, State.setPTR, State.setLo, State.latchIndexed, State.fixEA,
        State.nextCycle, State.index, h, C1, hx, hy, K1.x, K1.y]
      try (split <;> simp_all))
    (by intro d; simp only [S1]; decide)
  have K2 := K1.trans k2
  have S2 : t2.sq.seq = .op := by rw [q2]; exact S1
  have C2 : t2.sq.cyc = 4 := by rw [q2]
  obtain ⟨d3, t3, e3, k3, p3, q3, _, v3⟩ := runSeq_latch_read (.given b0 b1 b2) q (n) (s := t2)
    ((K2.calm (n := 1) hc).mono (by omega)) (by rw [S2]; decide) (addr := t2.sq.ea)
    (act := fun _ t => t.fixEA.nextCycle)
    (l := fun d => { t2.sq with ea := if t2.sq.cross then t2.sq.ea + 256 else t2.sq.ea, cyc := 5 })
    (by intro u h _ _; rw [hq u (by rw [h, C2]; decide), h, C2]; simp only [addressCycle, MicroOp.discard, h])
    (by
      intro v u h hx hy hw
      simp only [State.keepOperand, State.setEA, State.setPTR, State.setLo, State.latchIndexed, State.fixEA,
        State.nextCycle, State.index, h, C2, hx, hy, K2.x, K2.y]
      try (split <;> simp_all))
    (by intro d; simp only [S2]; decide)
  have K3 := K2.trans k3
  have S3 : t3.sq.seq = .op := by rw [q3]; exact S2
  have C3 : t3.sq.cyc = 5 := by rw [q3]
  refine ⟨t3, by rw [e1, e2, e3], K3, ?_, ?_⟩
  · rw [p3, p2, p1]; rw [BitVec.add_assoc]; rfl
  · constructor
    · exact S3
    · exact C3
    · simp only [q3, q2, q1, Feed.pick, canCross, State.effectiveAddress, State.index, State.indexBase, State.zpPointer]
      cases hx : crosses (joinBytes b2 b1) s.cpu.x
      · simpa using unfixed_of_not_crosses hx
      · simpa using unfixed_add_of_crosses hx
    · simp [q3, q2, q1, Feed.pick, canCross, State.effectiveAddress, State.index, State.indexBase, State.zpPointer]
    · simp [q3, q2, q1, Feed.pick, canCross, State.effectiveAddress, State.index, State.indexBase, State.zpPointer]
    · simp only [q3, q2, q1, Feed.pick, canCross, State.effectiveAddress, State.index, State.indexBase, State.zpPointer]
      intro _
      cases hx : crosses (joinBytes b2 b1) s.cpu.x
      · simp [lo_unfixed]
      · simpa using congrArg lo (unfixed_add_of_crosses hx)
    all_goals simp only [q3, q2, q1]

theorem address_aby_once (b0 b1 b2 : Byte) (q : Sequence) {s : State} (hc : Calm 2 s) (hseq : s.sq.seq = .op)
    (hcyc : s.sq.cyc = 2) (hq : Follows q .aby false) (hu : s.mayUse (indexSources .aby) = true) (n : Nat) :
    ∃ t, runSeq (.given b0 b1 b2) q (n + 2) s = runSeq (.given b0 b1 b2) q n t ∧ Kept s t 2 ∧
      t.cpu.pc = s.cpu.pc + 2 ∧ Addressed .aby false s t b1 b2 := by
  obtain ⟨d1, t1, e1, k1, p1, q1, _, v1⟩ := runSeq_latch_fetch (.given b0 b1 b2) q (n + 1) (s := s)
    (hc.mono (by omega)) (by rw [hseq]; decide) (slot := .first)
    (act := fun v t => (t.setLo v).nextCycle)
    (l := fun d => { s.sq with op1 := d, lo := d, cyc := 3 })
    (by intro u h _ _; rw [hq u (by rw [h, hcyc]; decide), h, hcyc]; simp only [addressCycle, MicroOp.discard, h])
    (by
      intro v u h hx hy hw
      simp only [State.keepOperand, State.setEA, State.setPTR, State.setLo, State.latchIndexed, State.fixEA,
        State.nextCycle, State.index, h, hcyc, hx, hy]
      try (split <;> simp_all))
    (by intro d; simp only [hseq]; decide)
  have K1 := k1
  have S1 : t1.sq.seq = .op := by rw [q1]; exact hseq
  have C1 : t1.sq.cyc = 3 := by rw [q1]
  obtain ⟨d2, t2, e2, k2, p2, q2, _, v2⟩ := runSeq_latch_fetch (.given b0 b1 b2) q (n) (s := t1)
    ((K1.calm (n := 1) hc).mono (by omega)) (by rw [S1]; decide) (slot := .second)
    (act := fun v t => t.using (indexSources .aby) fun t => (t.latchIndexed (joinBytes v t.sq.lo) (t.index .aby)).nextCycle)
    (l := fun d => { t1.sq with op2 := d, bah := hi (joinBytes d t1.sq.lo), cross := crosses (joinBytes d t1.sq.lo) s.cpu.y, ea := unfixed (joinBytes d t1.sq.lo) s.cpu.y, cyc := 4 })
    (by intro u h _ _; rw [hq u (by rw [h, C1]; decide), h, C1]; simp only [addressCycle, MicroOp.discard, h])
    (by
      intro v u h hx hy hw
      refine (State.using_eq (s := u.keepOperand .second v) (hw _ (K1.mayUse hu)) _).trans ?_
      simp only [State.keepOperand, State.setEA, State.setPTR, State.setLo, State.latchIndexed, State.fixEA,
        State.nextCycle, State.index, h, C1, hx, hy, K1.x, K1.y]
      try (split <;> simp_all))
    (by intro d; simp only [S1]; decide)
  have K2 := K1.trans k2
  have S2 : t2.sq.seq = .op := by rw [q2]; exact S1
  have C2 : t2.sq.cyc = 4 := by rw [q2]
  refine ⟨t2, by rw [e1, e2], K2, ?_, ?_⟩
  · rw [p2, p1]; rw [BitVec.add_assoc]; rfl
  · constructor
    · exact S2
    · exact C2
    · simp [q2, q1, Feed.pick, canCross, State.effectiveAddress, State.index, State.indexBase, State.zpPointer]
    · simp [q2, q1, Feed.pick, canCross, State.effectiveAddress, State.index, State.indexBase, State.zpPointer]
    · simp [q2, q1, Feed.pick, canCross, State.effectiveAddress, State.index, State.indexBase, State.zpPointer]
    · simp [q2, q1, Feed.pick, canCross, State.effectiveAddress, State.index, State.indexBase, State.zpPointer, lo_unfixed]
    all_goals simp only [q2, q1]

theorem address_aby_always (b0 b1 b2 : Byte) (q : Sequence) {s : State} (hc : Calm 3 s) (hseq : s.sq.seq = .op)
    (hcyc : s.sq.cyc = 2) (hq : Follows q .aby true) (hu : s.mayUse (indexSources .aby) = true) (n : Nat) :
    ∃ t, runSeq (.given b0 b1 b2) q (n + 3) s = runSeq (.given b0 b1 b2) q n t ∧ Kept s t 3 ∧
      t.cpu.pc = s.cpu.pc + 2 ∧ Addressed .aby true s t b1 b2 := by
  obtain ⟨d1, t1, e1, k1, p1, q1, _, v1⟩ := runSeq_latch_fetch (.given b0 b1 b2) q (n + 2) (s := s)
    (hc.mono (by omega)) (by rw [hseq]; decide) (slot := .first)
    (act := fun v t => (t.setLo v).nextCycle)
    (l := fun d => { s.sq with op1 := d, lo := d, cyc := 3 })
    (by intro u h _ _; rw [hq u (by rw [h, hcyc]; decide), h, hcyc]; simp only [addressCycle, MicroOp.discard, h])
    (by
      intro v u h hx hy hw
      simp only [State.keepOperand, State.setEA, State.setPTR, State.setLo, State.latchIndexed, State.fixEA,
        State.nextCycle, State.index, h, hcyc, hx, hy]
      try (split <;> simp_all))
    (by intro d; simp only [hseq]; decide)
  have K1 := k1
  have S1 : t1.sq.seq = .op := by rw [q1]; exact hseq
  have C1 : t1.sq.cyc = 3 := by rw [q1]
  obtain ⟨d2, t2, e2, k2, p2, q2, _, v2⟩ := runSeq_latch_fetch (.given b0 b1 b2) q (n + 1) (s := t1)
    ((K1.calm (n := 2) hc).mono (by omega)) (by rw [S1]; decide) (slot := .second)
    (act := fun v t => t.using (indexSources .aby) fun t => (t.latchIndexed (joinBytes v t.sq.lo) (t.index .aby)).nextCycle)
    (l := fun d => { t1.sq with op2 := d, bah := hi (joinBytes d t1.sq.lo), cross := crosses (joinBytes d t1.sq.lo) s.cpu.y, ea := unfixed (joinBytes d t1.sq.lo) s.cpu.y, cyc := 4 })
    (by intro u h _ _; rw [hq u (by rw [h, C1]; decide), h, C1]; simp only [addressCycle, MicroOp.discard, h])
    (by
      intro v u h hx hy hw
      refine (State.using_eq (s := u.keepOperand .second v) (hw _ (K1.mayUse hu)) _).trans ?_
      simp only [State.keepOperand, State.setEA, State.setPTR, State.setLo, State.latchIndexed, State.fixEA,
        State.nextCycle, State.index, h, C1, hx, hy, K1.x, K1.y]
      try (split <;> simp_all))
    (by intro d; simp only [S1]; decide)
  have K2 := K1.trans k2
  have S2 : t2.sq.seq = .op := by rw [q2]; exact S1
  have C2 : t2.sq.cyc = 4 := by rw [q2]
  obtain ⟨d3, t3, e3, k3, p3, q3, _, v3⟩ := runSeq_latch_read (.given b0 b1 b2) q (n) (s := t2)
    ((K2.calm (n := 1) hc).mono (by omega)) (by rw [S2]; decide) (addr := t2.sq.ea)
    (act := fun _ t => t.fixEA.nextCycle)
    (l := fun d => { t2.sq with ea := if t2.sq.cross then t2.sq.ea + 256 else t2.sq.ea, cyc := 5 })
    (by intro u h _ _; rw [hq u (by rw [h, C2]; decide), h, C2]; simp only [addressCycle, MicroOp.discard, h])
    (by
      intro v u h hx hy hw
      simp only [State.keepOperand, State.setEA, State.setPTR, State.setLo, State.latchIndexed, State.fixEA,
        State.nextCycle, State.index, h, C2, hx, hy, K2.x, K2.y]
      try (split <;> simp_all))
    (by intro d; simp only [S2]; decide)
  have K3 := K2.trans k3
  have S3 : t3.sq.seq = .op := by rw [q3]; exact S2
  have C3 : t3.sq.cyc = 5 := by rw [q3]
  refine ⟨t3, by rw [e1, e2, e3], K3, ?_, ?_⟩
  · rw [p3, p2, p1]; rw [BitVec.add_assoc]; rfl
  · constructor
    · exact S3
    · exact C3
    · simp only [q3, q2, q1, Feed.pick, canCross, State.effectiveAddress, State.index, State.indexBase, State.zpPointer]
      cases hx : crosses (joinBytes b2 b1) s.cpu.y
      · simpa using unfixed_of_not_crosses hx
      · simpa using unfixed_add_of_crosses hx
    · simp [q3, q2, q1, Feed.pick, canCross, State.effectiveAddress, State.index, State.indexBase, State.zpPointer]
    · simp [q3, q2, q1, Feed.pick, canCross, State.effectiveAddress, State.index, State.indexBase, State.zpPointer]
    · simp only [q3, q2, q1, Feed.pick, canCross, State.effectiveAddress, State.index, State.indexBase, State.zpPointer]
      intro _
      cases hx : crosses (joinBytes b2 b1) s.cpu.y
      · simp [lo_unfixed]
      · simpa using congrArg lo (unfixed_add_of_crosses hx)
    all_goals simp only [q3, q2, q1]

theorem address_izy_once (b0 b1 b2 : Byte) (q : Sequence) {s : State} (hc : Calm 3 s) (hseq : s.sq.seq = .op)
    (hcyc : s.sq.cyc = 2) (hq : Follows q .izy false) (hu : s.mayUse (indexSources .izy) = true) (n : Nat) :
    ∃ t, runSeq (.given b0 b1 b2) q (n + 3) s = runSeq (.given b0 b1 b2) q n t ∧ Kept s t 3 ∧
      t.cpu.pc = s.cpu.pc + 1 ∧ Addressed .izy false s t b1 b2 := by
  obtain ⟨d1, t1, e1, k1, p1, q1, _, v1⟩ := runSeq_latch_fetch (.given b0 b1 b2) q (n + 2) (s := s)
    (hc.mono (by omega)) (by rw [hseq]; decide) (slot := .first)
    (act := fun v t => (t.setPTR v).nextCycle)
    (l := fun d => { s.sq with op1 := d, ptr := d, cyc := 3 })
    (by intro u h _ _; rw [hq u (by rw [h, hcyc]; decide), h, hcyc]; simp only [addressCycle, MicroOp.discard, h])
    (by
      intro v u h hx hy hw
      simp only [State.keepOperand, State.setEA, State.setPTR, State.setLo, State.latchIndexed, State.fixEA,
        State.nextCycle, State.index, h, hcyc, hx, hy]
      try (split <;> simp_all))
    (by intro d; simp only [hseq]; decide)
  have K1 := k1
  have S1 : t1.sq.seq = .op := by rw [q1]; exact hseq
  have C1 : t1.sq.cyc = 3 := by rw [q1]
  obtain ⟨d2, t2, e2, k2, p2, q2, _, v2⟩ := runSeq_latch_read (.given b0 b1 b2) q (n + 1) (s := t1)
    ((K1.calm (n := 2) hc).mono (by omega)) (by rw [S1]; decide) (addr := zext16 t1.sq.ptr)
    (act := fun d t => (t.setLo d).nextCycle)
    (l := fun d => { t1.sq with lo := d, cyc := 4 })
    (by intro u h _ _; rw [hq u (by rw [h, C1]; decide), h, C1]; simp only [addressCycle, MicroOp.discard, h])
    (by
      intro v u h hx hy hw
      simp only [State.keepOperand, State.setEA, State.setPTR, State.setLo, State.latchIndexed, State.fixEA,
        State.nextCycle, State.index, h, C1, hx, hy, K1.x, K1.y]
      try (split <;> simp_all))
    (by intro d; simp only [S1]; decide)
  have K2 := K1.trans k2
  have S2 : t2.sq.seq = .op := by rw [q2]; exact S1
  have C2 : t2.sq.cyc = 4 := by rw [q2]
  obtain ⟨d3, t3, e3, k3, p3, q3, _, v3⟩ := runSeq_latch_read (.given b0 b1 b2) q (n) (s := t2)
    ((K2.calm (n := 1) hc).mono (by omega)) (by rw [S2]; decide) (addr := zext16 (t2.sq.ptr + 1))
    (act := fun d t => t.using (indexSources .izy) fun t => (t.latchIndexed (joinBytes d t.sq.lo) t.cpu.y).nextCycle)
    (l := fun d => { t2.sq with bah := hi (joinBytes d t2.sq.lo), cross := crosses (joinBytes d t2.sq.lo) s.cpu.y, ea := unfixed (joinBytes d t2.sq.lo) s.cpu.y, cyc := 5 })
    (by intro u h _ _; rw [hq u (by rw [h, C2]; decide), h, C2]; simp only [addressCycle, MicroOp.discard, h])
    (by
      intro v u h hx hy hw
      refine (State.using_eq (hw _ (K2.mayUse hu)) _).trans ?_
      simp only [State.keepOperand, State.setEA, State.setPTR, State.setLo, State.latchIndexed, State.fixEA,
        State.nextCycle, State.index, h, C2, hx, hy, K2.x, K2.y]
      try (split <;> simp_all))
    (by intro d; simp only [S2]; decide)
  have K3 := K2.trans k3
  have S3 : t3.sq.seq = .op := by rw [q3]; exact S2
  have C3 : t3.sq.cyc = 5 := by rw [q3]
  have w2 : d2 = s.peek (zext16 b1) := by
    have h := v2 (State.isStored_of_isRam (State.isRam_zext16 (K1.pages hc.pages) _))
    simp only [State.peek, K1.mem, q1, Feed.pick] at h
    exact h
  have w3 : d3 = s.peek (zext16 (b1 + 1)) := by
    have h := v3 (State.isStored_of_isRam (State.isRam_zext16 (K2.pages hc.pages) _))
    simp only [State.peek, K2.mem, q2, q1, Feed.pick] at h
    exact h
  refine ⟨t3, by rw [e1, e2, e3], K3, ?_, ?_⟩
  · rw [p3, p2, p1]
  · constructor
    · exact S3
    · exact C3
    · simp [q3, q2, q1, Feed.pick, w2, w3, canCross, State.effectiveAddress, State.index, State.indexBase, State.zpPointer]
    · simp [q3, q2, q1, Feed.pick, w2, w3, canCross, State.effectiveAddress, State.index, State.indexBase, State.zpPointer]
    · simp [q3, q2, q1, Feed.pick, w2, w3, canCross, State.effectiveAddress, State.index, State.indexBase, State.zpPointer]
    · simp [q3, q2, q1, Feed.pick, w2, w3, canCross, State.effectiveAddress, State.index, State.indexBase, State.zpPointer, lo_unfixed]
    all_goals simp only [q3, q2, q1]

theorem address_izy_always (b0 b1 b2 : Byte) (q : Sequence) {s : State} (hc : Calm 4 s) (hseq : s.sq.seq = .op)
    (hcyc : s.sq.cyc = 2) (hq : Follows q .izy true) (hu : s.mayUse (indexSources .izy) = true) (n : Nat) :
    ∃ t, runSeq (.given b0 b1 b2) q (n + 4) s = runSeq (.given b0 b1 b2) q n t ∧ Kept s t 4 ∧
      t.cpu.pc = s.cpu.pc + 1 ∧ Addressed .izy true s t b1 b2 := by
  obtain ⟨d1, t1, e1, k1, p1, q1, _, v1⟩ := runSeq_latch_fetch (.given b0 b1 b2) q (n + 3) (s := s)
    (hc.mono (by omega)) (by rw [hseq]; decide) (slot := .first)
    (act := fun v t => (t.setPTR v).nextCycle)
    (l := fun d => { s.sq with op1 := d, ptr := d, cyc := 3 })
    (by intro u h _ _; rw [hq u (by rw [h, hcyc]; decide), h, hcyc]; simp only [addressCycle, MicroOp.discard, h])
    (by
      intro v u h hx hy hw
      simp only [State.keepOperand, State.setEA, State.setPTR, State.setLo, State.latchIndexed, State.fixEA,
        State.nextCycle, State.index, h, hcyc, hx, hy]
      try (split <;> simp_all))
    (by intro d; simp only [hseq]; decide)
  have K1 := k1
  have S1 : t1.sq.seq = .op := by rw [q1]; exact hseq
  have C1 : t1.sq.cyc = 3 := by rw [q1]
  obtain ⟨d2, t2, e2, k2, p2, q2, _, v2⟩ := runSeq_latch_read (.given b0 b1 b2) q (n + 2) (s := t1)
    ((K1.calm (n := 3) hc).mono (by omega)) (by rw [S1]; decide) (addr := zext16 t1.sq.ptr)
    (act := fun d t => (t.setLo d).nextCycle)
    (l := fun d => { t1.sq with lo := d, cyc := 4 })
    (by intro u h _ _; rw [hq u (by rw [h, C1]; decide), h, C1]; simp only [addressCycle, MicroOp.discard, h])
    (by
      intro v u h hx hy hw
      simp only [State.keepOperand, State.setEA, State.setPTR, State.setLo, State.latchIndexed, State.fixEA,
        State.nextCycle, State.index, h, C1, hx, hy, K1.x, K1.y]
      try (split <;> simp_all))
    (by intro d; simp only [S1]; decide)
  have K2 := K1.trans k2
  have S2 : t2.sq.seq = .op := by rw [q2]; exact S1
  have C2 : t2.sq.cyc = 4 := by rw [q2]
  obtain ⟨d3, t3, e3, k3, p3, q3, _, v3⟩ := runSeq_latch_read (.given b0 b1 b2) q (n + 1) (s := t2)
    ((K2.calm (n := 2) hc).mono (by omega)) (by rw [S2]; decide) (addr := zext16 (t2.sq.ptr + 1))
    (act := fun d t => t.using (indexSources .izy) fun t => (t.latchIndexed (joinBytes d t.sq.lo) t.cpu.y).nextCycle)
    (l := fun d => { t2.sq with bah := hi (joinBytes d t2.sq.lo), cross := crosses (joinBytes d t2.sq.lo) s.cpu.y, ea := unfixed (joinBytes d t2.sq.lo) s.cpu.y, cyc := 5 })
    (by intro u h _ _; rw [hq u (by rw [h, C2]; decide), h, C2]; simp only [addressCycle, MicroOp.discard, h])
    (by
      intro v u h hx hy hw
      refine (State.using_eq (hw _ (K2.mayUse hu)) _).trans ?_
      simp only [State.keepOperand, State.setEA, State.setPTR, State.setLo, State.latchIndexed, State.fixEA,
        State.nextCycle, State.index, h, C2, hx, hy, K2.x, K2.y]
      try (split <;> simp_all))
    (by intro d; simp only [S2]; decide)
  have K3 := K2.trans k3
  have S3 : t3.sq.seq = .op := by rw [q3]; exact S2
  have C3 : t3.sq.cyc = 5 := by rw [q3]
  obtain ⟨d4, t4, e4, k4, p4, q4, _, v4⟩ := runSeq_latch_read (.given b0 b1 b2) q (n) (s := t3)
    ((K3.calm (n := 1) hc).mono (by omega)) (by rw [S3]; decide) (addr := t3.sq.ea)
    (act := fun _ t => t.fixEA.nextCycle)
    (l := fun d => { t3.sq with ea := if t3.sq.cross then t3.sq.ea + 256 else t3.sq.ea, cyc := 6 })
    (by intro u h _ _; rw [hq u (by rw [h, C3]; decide), h, C3]; simp only [addressCycle, MicroOp.discard, h])
    (by
      intro v u h hx hy hw
      simp only [State.keepOperand, State.setEA, State.setPTR, State.setLo, State.latchIndexed, State.fixEA,
        State.nextCycle, State.index, h, C3, hx, hy, K3.x, K3.y]
      try (split <;> simp_all))
    (by intro d; simp only [S3]; decide)
  have K4 := K3.trans k4
  have S4 : t4.sq.seq = .op := by rw [q4]; exact S3
  have C4 : t4.sq.cyc = 6 := by rw [q4]
  have w2 : d2 = s.peek (zext16 b1) := by
    have h := v2 (State.isStored_of_isRam (State.isRam_zext16 (K1.pages hc.pages) _))
    simp only [State.peek, K1.mem, q1, Feed.pick] at h
    exact h
  have w3 : d3 = s.peek (zext16 (b1 + 1)) := by
    have h := v3 (State.isStored_of_isRam (State.isRam_zext16 (K2.pages hc.pages) _))
    simp only [State.peek, K2.mem, q2, q1, Feed.pick] at h
    exact h
  refine ⟨t4, by rw [e1, e2, e3, e4], K4, ?_, ?_⟩
  · rw [p4, p3, p2, p1]
  · constructor
    · exact S4
    · exact C4
    · simp only [q4, q3, q2, q1, Feed.pick, w2, w3, canCross, State.effectiveAddress, State.index, State.indexBase, State.zpPointer]
      cases hx : crosses (joinBytes (s.peek (zext16 (b1 + 1))) (s.peek (zext16 b1))) s.cpu.y
      · simpa using unfixed_of_not_crosses hx
      · simpa using unfixed_add_of_crosses hx
    · simp [q4, q3, q2, q1, Feed.pick, w2, w3, canCross, State.effectiveAddress, State.index, State.indexBase, State.zpPointer]
    · simp [q4, q3, q2, q1, Feed.pick, w2, w3, canCross, State.effectiveAddress, State.index, State.indexBase, State.zpPointer]
    · simp only [q4, q3, q2, q1, Feed.pick, w2, w3, canCross, State.effectiveAddress, State.index, State.indexBase, State.zpPointer]
      intro _
      cases hx : crosses (joinBytes (s.peek (zext16 (b1 + 1))) (s.peek (zext16 b1))) s.cpu.y
      · simp [lo_unfixed]
      · simpa using congrArg lo (unfixed_add_of_crosses hx)
    all_goals simp only [q4, q3, q2, q1]

/-- The address cycles of any memory mode. -/
theorem address_phase (b0 b1 b2 : Byte) (q : Sequence) (m : Mode) (always : Bool) (hm : memoryMode m = true) {s : State}
    (hc : Calm (accessCycle m always - 2) s) (hseq : s.sq.seq = .op) (hcyc : s.sq.cyc = 2) (hq : Follows q m always)
    (hu : s.mayUse (indexSources m) = true) (n : Nat) :
    ∃ t, runSeq (.given b0 b1 b2) q (n + (accessCycle m always - 2)) s = runSeq (.given b0 b1 b2) q n t ∧
      Kept s t (accessCycle m always - 2) ∧ t.cpu.pc = s.cpu.pc + BitVec.ofNat 16 (m.length - 1) ∧
      Addressed m always s t b1 b2 := by
  cases m <;> cases always <;> first
    | exact address_zp_once b0 b1 b2 q hc hseq hcyc hq hu n
    | exact address_zp_always b0 b1 b2 q hc hseq hcyc hq hu n
    | exact address_zpx_once b0 b1 b2 q hc hseq hcyc hq hu n
    | exact address_zpx_always b0 b1 b2 q hc hseq hcyc hq hu n
    | exact address_zpy_once b0 b1 b2 q hc hseq hcyc hq hu n
    | exact address_zpy_always b0 b1 b2 q hc hseq hcyc hq hu n
    | exact address_abs_once b0 b1 b2 q hc hseq hcyc hq hu n
    | exact address_abs_always b0 b1 b2 q hc hseq hcyc hq hu n
    | exact address_izx_once b0 b1 b2 q hc hseq hcyc hq hu n
    | exact address_izx_always b0 b1 b2 q hc hseq hcyc hq hu n
    | exact address_abx_once b0 b1 b2 q hc hseq hcyc hq hu n
    | exact address_abx_always b0 b1 b2 q hc hseq hcyc hq hu n
    | exact address_aby_once b0 b1 b2 q hc hseq hcyc hq hu n
    | exact address_aby_always b0 b1 b2 q hc hseq hcyc hq hu n
    | exact address_izy_once b0 b1 b2 q hc hseq hcyc hq hu n
    | exact address_izy_always b0 b1 b2 q hc hseq hcyc hq hu n
    | exact absurd hm (by decide)

end Sys2Proof.Machine
end

