-- ==== Sys2Proof/Laws/Classes.lean ====
section
/-! SUPPORT. What an instruction of each operation class does when the environment is calm (R157, R159 to R178, R431): the
state in which its operation runs, and the state that its last tick leaves. -/

namespace Sys2Proof.Machine

/-- Every instruction runs the sequence of its mnemonic and mode. -/
theorem exec_eq (i : Instr) (s : State) : exec i s = runInstr i (sequenceOf i) s := by
  cases i <;> rfl

/-- The terminal fetch of an instruction (R152). -/
theorem runInstr_start (i : Instr) (q : Sequence) {s : State} (hc : Calm 8 s) :
    ∃ t, runInstr i q s = (runSeq (Feed.ofInstr i) q 7 t).outcome ∧ Kept s.clearLogs t 1 ∧ t.cpu.pc = s.cpu.pc + 1 ∧
      t.sq = { s.sq with
        ir := (encode i).getD 0 0, seq := .op, cyc := 2, ichg := false, iprev := false, iprevKnown := false
        shstall := false } := by
  have hc0 : Calm 0 s := hc.mono (by omega)
  have hd := s.clearLogs.phi1_dev hc0.quiet
  have hs := hd.sound ⟨hc0.running, hc0.lines⟩
  obtain ⟨w, hw, hdw, _⟩ := s.clearLogs.phi1.busRead_dev s.clearLogs.phi1.cpu.pc
  have hu : Dev { s.clearLogs with half := .phi2 } w := hd.trans hdw
  have hpc : s.clearLogs.phi1.cpu.pc = s.cpu.pc := hd.cpu_pc
  have hk := hu.kept (.read s.cpu.pc (s.clearLogs.phi1.busRead s.cpu.pc).1) (s.cpu.pc + 1)
    { s.sq with
      ir := (encode i).getD 0 0, seq := .op, cyc := 2, ichg := false, iprev := false, iprevKnown := false
      shstall := false }
  refine ⟨_, ?_, hk, rfl, rfl⟩
  have hstall : s.clearLogs.phi1.stalls terminalFetch = false := by
    simp only [State.stalls, hd.busHold]
    have := hc.hold
    simp [State.clearLogs, this]
  unfold runInstr
  simp only [hs.1, hstall, Option.isSome_none, Bool.false_eq_true, if_false]
  have hp : terminalFetch.perform (Feed.ofInstr i) s.clearLogs.phi1 =
      State.startSequence { ((w.logBus (.read s.cpu.pc (s.clearLogs.phi1.busRead s.cpu.pc).1)).incPC) with
        sq := { w.sq with ir := (encode i).getD 0 0 } } .op := by
    rw [hpc] at hw
    simp only [MicroOp.perform, terminalFetch, hpc, hw]
    exact State.unlessStopped_eq (s := w.logBus _) (hu.sound ⟨hc0.running, hc0.lines⟩).1 _
  rw [State.executeTick_quiet (by rw [hp]; exact (hu.stays.trans (Stays.mk rfl rfl)).quiet (n := 0) hc0.quiet), hp]
  congr 2
  have h1 : w.sq = s.sq := hu.sq
  have h2 : w.cpu.pc = s.cpu.pc := hu.cpu_pc
  simp only [State.startSequence, State.incPC, State.setPC, State.logBus, h1, h2, hpc]

/-- A final read: the operation runs on the byte read, and the run of ticks ends. -/
theorem runSeq_final_read (feed : Feed) (q : Sequence) (n : Nat) {s : State} (hc : Calm 0 s)
    (hq : s.sq.seq ≠ .boundary) {addr : Word} {act : Byte → State → State}
    (hm : ∀ u : State, u.sq = s.sq → u.cpu.pc = s.cpu.pc → u.cpu.s = s.cpu.s →
      q.micro u = .read addr (fun d t => (act d t).finish)) (hact : ∀ d u, Stays u (act d u)) :
    ∃ d u, runSeq feed q (n + 1) s = State.endTick (State.finish (act d u)) .executed ∧
      Kept s (u.endTick .executed) 1 ∧ u.cpu.pc = s.cpu.pc ∧ u.sq = s.sq ∧ u.bus = s.bus ++ [.read addr d] ∧
      (s.isStored addr = true → d = s.peek addr) := by
  obtain ⟨d, u, hu, hp, he⟩ := runSeq_read feed q n hc hq hm (fun d u _ => (hact d _).trans ⟨rfl, rfl⟩)
  have hk := hu.kept (.read addr d) s.cpu.pc s.sq
  have hpc : u.cpu.pc = s.cpu.pc := hu.cpu_pc
  have hsq : u.sq = s.sq := hu.sq
  have hst : State.endTick { ((u.logBus (.read addr d)).setPC s.cpu.pc) with sq := s.sq } .executed =
      (u.logBus (.read addr d)).endTick .executed := by
    simp only [State.setPC, State.logBus, ← hpc, ← hsq]
  rw [hst] at hk
  refine ⟨d, u.logBus (.read addr d), ?_, hk, hpc, hsq, ?_, hp⟩
  · rw [he, if_pos (State.settled_of_boundary rfl)]
  · have : u.bus = s.bus := hu.bus
    simp [this]

/-- A final fetch of the first operand byte: the operation runs on it, and the run of ticks ends (R160). -/
theorem runSeq_final_fetch (feed : Feed) (q : Sequence) (n : Nat) {s : State} (hc : Calm 0 s)
    (hq : s.sq.seq ≠ .boundary) {slot : Slot} {act : Byte → State → State}
    (hm : ∀ u : State, u.sq = s.sq → u.cpu.pc = s.cpu.pc → u.cpu.s = s.cpu.s →
      q.micro u = .fetch slot (fun d t => (act d t).finish)) (hact : ∀ d u, Stays u (act d u)) :
    ∃ d u, runSeq feed q (n + 1) s = State.endTick (State.finish (act (feed.pick slot d) u)) .executed ∧
      Kept s (u.endTick .executed) 1 ∧ u.cpu.pc = s.cpu.pc + 1 ∧
      u.sq = ((s.keepOperand slot (feed.pick slot d)).sq) ∧ u.bus = s.bus ++ [.read s.cpu.pc d] := by
  obtain ⟨d, u, hu, _, he⟩ := runSeq_fetch feed q n hc hq hm (fun d u _ =>
    (((Stays.mk rfl rfl : Stays u (u.logBus (.read s.cpu.pc d)).incPC).trans (Stays.keepOperand _ _ _)).trans
      (hact _ _)).trans ⟨rfl, rfl⟩)
  simp only at he
  have hk := hu.kept (.read s.cpu.pc d) (s.cpu.pc + 1) (s.keepOperand slot (feed.pick slot d)).sq
  have hpc : u.cpu.pc = s.cpu.pc := hu.cpu_pc
  have hsq : u.sq = s.sq := hu.sq
  have hst : State.endTick { ((u.logBus (.read s.cpu.pc d)).setPC (s.cpu.pc + 1)) with
        sq := (s.keepOperand slot (feed.pick slot d)).sq } .executed =
      ((u.logBus (.read s.cpu.pc d)).incPC.keepOperand slot (feed.pick slot d)).endTick .executed := by
    cases slot <;> simp only [State.setPC, State.logBus, State.incPC, State.keepOperand, hpc, hsq]
  rw [hst] at hk
  refine ⟨d, (u.logBus (.read s.cpu.pc d)).incPC.keepOperand slot (feed.pick slot d), ?_, hk, ?_, ?_, ?_⟩
  · rw [he, if_pos (State.settled_of_boundary rfl)]
  · cases slot <;> simp [State.keepOperand, State.incPC, hpc]
  · cases slot <;> simp [State.keepOperand, State.incPC, hsq]
  · have : u.bus = s.bus := hu.bus
    cases slot <;> simp [State.keepOperand, State.incPC, this]

/-- A final write whose address and value are computed in the state `pre u`. -/
theorem runSeq_final_write (feed : Feed) (q : Sequence) (n : Nat) {s : State} (hc : Calm 0 s)
    (hq : s.sq.seq ≠ .boundary) {pre : State → State} {addr : State → Word} {value : State → Byte}
    (hm : ∀ u : State, u.sq = s.sq → u.cpu.pc = s.cpu.pc → u.cpu.s = s.cpu.s →
      q.micro u = .write pre addr value State.finish)
    (hpre : ∀ u, Dev { s with half := .phi2 } u → Stays u (pre u) ∧ (pre u).sound) :
    ∃ u w, Dev { s with half := .phi2 } u ∧
      (((pre u).isRam (addr (pre u)) = true ∧ w = (pre u).poke (addr (pre u)) (value (pre u))) ∨
        ((pre u).isRam (addr (pre u)) = false ∧ Dev (pre u) w)) ∧
      runSeq feed q (n + 1) s =
        State.endTick (State.finish (w.logBus (.write (addr (pre u)) (value (pre u))))) .executed := by
  obtain ⟨u, w, hu, hw, he⟩ := runSeq_write feed q n hc hq hm hpre (fun _ => ⟨rfl, rfl⟩)
  exact ⟨u, w, hu, hw, by simp only at he; rw [he, if_pos (State.settled_of_boundary rfl)]⟩

/-- A write that goes on: the dummy write of a read-modify-write, a push. -/
theorem runSeq_next_write (feed : Feed) (q : Sequence) (n : Nat) {s : State} (hc : Calm 0 s)
    (hq : s.sq.seq ≠ .boundary) {pre : State → State} {addr : State → Word} {value : State → Byte}
    {post : State → State}
    (hm : ∀ u : State, u.sq = s.sq → u.cpu.pc = s.cpu.pc → u.cpu.s = s.cpu.s →
      q.micro u = .write pre addr value post)
    (hp : ∀ w : State, (post w).sq.seq = w.sq.seq ∧ (post w).stopped = w.stopped ∧ Stays w (post w))
    (hpre : ∀ u, Dev { s with half := .phi2 } u → Stays u (pre u) ∧ (pre u).sq.seq = u.sq.seq ∧ (pre u).sound) :
    ∃ u w, Dev { s with half := .phi2 } u ∧
      (((pre u).isRam (addr (pre u)) = true ∧ w = (pre u).poke (addr (pre u)) (value (pre u))) ∨
        ((pre u).isRam (addr (pre u)) = false ∧ Dev (pre u) w)) ∧
      runSeq feed q (n + 1) s = runSeq feed q n
        (State.endTick (post (w.logBus (.write (addr (pre u)) (value (pre u))))) .executed) := by
  obtain ⟨u, w, hu, hw, he⟩ := runSeq_write feed q n hc hq hm (fun u hu => ⟨(hpre u hu).1, (hpre u hu).2.2⟩)
    (fun w => (hp w).2.2)
  refine ⟨u, w, hu, hw, ?_⟩
  simp only at he
  have hps := (hpre u hu).2.2
  have hw1 : w.stopped = none ∧ w.sq.seq = (pre u).sq.seq := by
    rcases hw with ⟨_, hw⟩ | ⟨_, hw⟩
    · rw [hw]; exact ⟨hps.1, rfl⟩
    · exact ⟨(hw.sound hps).1, by rw [hw.sq]⟩
  rw [he, State.not_settled]
  · rfl
  · rw [State.endTick_stopped, (hp _).2.1]; exact hw1.1
  · rw [State.endTick_sq, (hp _).1]
    show w.sq.seq ≠ .boundary
    rw [hw1.2, (hpre u hu).2.1, hu.sq]
    exact hq

/-! ### The classes -/

/-- The cycles of a read class instruction (R161 to R176): one more when the index crosses a page. -/
def readTicks (m : Mode) (crossed : Bool) : Nat := accessCycle m false + if canCross m && crossed then 1 else 0

theorem length_ofMemoryMode {m : Mode} (hm : memoryMode m = true) (pc : Word) :
    pc + 1 + BitVec.ofNat 16 (m.length - 1) = pc + BitVec.ofNat 16 m.length := by
  rw [BitVec.add_assoc]
  cases m <;> first | rfl | exact absurd hm (by decide)

/-- The page crossing of an instruction, from its mode's base and index. -/
theorem State.pageCross_eq (s : State) (i : Instr) :
    s.pageCross i =
      (canCross i.mode && crosses (s.indexBase i.mode (operand1 i) (operand2 i)) (s.index i.mode)) := rfl

/-- The effective address of a crossing mode is the indexed base. -/
theorem State.effectiveAddress_indexed (s : State) {m : Mode} (h : canCross m = true) (b1 b2 : Byte) :
    s.effectiveAddress m b1 b2 = indexed (s.indexBase m b1 b2) (s.index m) := by
  cases m <;> first | exact absurd h (by decide) | rfl

/-- Read class, in a memory mode. -/
theorem read_class (i : Instr) (m : Mode) (hm : memoryMode m = true) (him : i.mode = m) (rd : Byte → State → State)
    (hrd : ∀ v u, Stays u (rd v u)) {s : State} (hc : Calm 8 s) (hu : s.mayUse (indexSources m) = true) :
    ∃ (v : Byte) (u : State),
      runInstr i (.read m rd) s = (State.endTick (State.finish (rd v (u.setDATA v))) .executed).outcome ∧
      Kept s.clearLogs (u.endTick .executed) (readTicks m (s.pageCross i)) ∧ u.cpu.pc = s.nextPC i ∧
      [.read (s.operandAddr i) v] <:+ u.bus ∧
      (s.isStored (s.operandAddr i) = true → v = s.peek (s.operandAddr i)) ∧
      u.sq.ichg = false ∧ u.sq.vec = s.sq.vec ∧ u.sq.brkb = s.sq.brkb := by
  obtain ⟨t0, e0, k0, p0, q0⟩ := runInstr_start i (.read m rd) hc
  have hc8 : Calm 8 s.clearLogs := ⟨hc.running, hc.lines, hc.hold, hc.quiet, hc.pages⟩
  have hc0 : Calm 7 t0 := k0.calm (n := 7) hc8
  have hfol : Follows (.read m rd) m false := by
    intro u hu
    simp only [Sequence.micro, readCycle]
    cases m <;> first | exact absurd hm (by decide) | simp only [hu, if_true]
  have hk2 : accessCycle m false - 2 ≤ 4 := by cases m <;> decide
  have hk3 : 2 ≤ accessCycle m false := by cases m <;> decide
  generalize hk : accessCycle m false - 2 = k at hk2
  have h7 : 7 = 7 - k + k := by omega
  obtain ⟨t, e1, k1, p1, ad⟩ := address_phase ((encode i).getD 0 0) (operand1 i) (operand2 i) (.read m rd) m false hm
    (s := t0) (hc0.mono (by omega)) (by rw [q0]) (by rw [q0]) hfol (k0.mayUse hu) (7 - k)
  rw [hk] at e1 k1
  have hea : t0.effectiveAddress m (operand1 i) (operand2 i) = s.operandAddr i := by
    rw [k0.effectiveAddress _ _ hm, State.operandAddr, him]; rfl
  have hbase : t0.indexBase m (operand1 i) (operand2 i) = s.indexBase m (operand1 i) (operand2 i) := by
    cases m <;> simp only [State.indexBase, State.zpPointer, State.peek, k0.mem] <;> rfl
  have hidx : t0.index m = s.index m := by
    cases m <;> simp only [State.index, k0.x, k0.y] <;> rfl
  have hcr : (canCross m && t.sq.cross) = s.pageCross i := by
    rw [State.pageCross_eq, him]
    cases hcc : canCross m
    · rfl
    · rw [ad.cross hcc, hbase, hidx]
  have hn : 7 - k = (5 - k) + 1 + 1 := by omega
  have hct : Calm 2 t := k1.calm ((hc0.mono (by omega)) : Calm (2 + k) t0)
  have hpc : t.cpu.pc = s.nextPC i := by
    rw [p1, p0, State.nextPC, Instr.length, him]; exact length_ofMemoryMode hm _
  have hnotimm : m ≠ .imm := by intro h; rw [h] at hm; exact absurd hm (by decide)
  cases hx : s.pageCross i
  · -- no crossing: the first access is the last
    have hea2 : t.sq.ea = s.operandAddr i := by
      rw [ad.ea, ← hea]
      cases hcc : canCross m
      · simp
      · rw [hx, hcc, Bool.true_and, ad.cross hcc] at hcr
        simp only [Bool.not_false, Bool.and_true, if_true]
        rw [unfixed_of_not_crosses hcr, State.effectiveAddress_indexed _ hcc]
    obtain ⟨v, u, e2, k2, p2, q2, b2, v2⟩ := runSeq_final_read (.given ((encode i).getD 0 0) (operand1 i) (operand2 i))
      (.read m rd) (5 - k + 1) (s := t) (hct.mono (by omega)) (by rw [ad.seq]; decide) (addr := t.sq.ea)
      (act := fun d w => rd d (w.setDATA d)) (by
        intro u h _ _
        have h1 : ¬ t.sq.cyc < accessCycle m false := by rw [ad.cyc]; omega
        have h2 : (canCross m && t.sq.cross && t.sq.cyc == accessCycle m false) = false := by
          rw [hcr, hx]; rfl
        simp only [Sequence.micro, readCycle, h, h1, h2, if_false, Bool.false_eq_true])
      (fun d u => (Stays.mk rfl rfl : Stays u (u.setDATA d)).trans (hrd d _))
    refine ⟨v, u, ?_, ?_, ?_, ?_, ?_, ?_, ?_, ?_⟩
    · rw [e0]; congr 1; rw [h7]; exact e1.trans (by rw [hn]; exact e2)
    · have h := (k0.trans k1).trans k2
      have ht : readTicks m false = 1 + k + 1 := by simp [readTicks]; omega
      rw [ht]; exact h
    · rw [p2, hpc]
    · rw [b2, hea2]; exact List.suffix_append _ _
    · intro hd
      rw [hea2] at v2
      have hm2 := (k0.trans k1).mem
      have hdv : t.isStored (s.operandAddr i) = true := by
        rw [(k0.trans k1).isStored]; exact hd
      rw [v2 hdv]; simp only [State.peek, hm2]; rfl
    · rw [q2, ad.ichg, q0]
    · rw [q2, ad.vec, q0]
    · rw [q2, ad.brkb, q0]
  · -- a crossing: one dummy read, then the access
    rw [hx, Bool.and_eq_true] at hcr
    obtain ⟨hcc, htc⟩ := hcr
    obtain ⟨d1, w, e2, k2, p2, q2, _, _⟩ := runSeq_latch_read (.given ((encode i).getD 0 0) (operand1 i) (operand2 i))
      (.read m rd) (5 - k + 1) (s := t) (hct.mono (by omega)) (by rw [ad.seq]; decide) (addr := t.sq.ea)
      (act := fun d w => ((w.setDATA d).fixEA).nextCycle)
      (l := fun d => { t.sq with data := d, ea := t.sq.ea + 256, cyc := accessCycle m false + 1 }) (by
        intro u h _ _
        have h1 : ¬ t.sq.cyc < accessCycle m false := by rw [ad.cyc]; omega
        have h2 : (canCross m && t.sq.cross && t.sq.cyc == accessCycle m false) = true := by
          rw [hcc, htc, ad.cyc]; simp
        simp only [Sequence.micro, readCycle, h, h1, h2, if_false, if_true])
      (by
        intro d u h _ _ _
        simp only [State.setDATA, State.fixEA, State.setEA, State.nextCycle, h, htc, if_true, ad.cyc])
      (by intro d; simp only [ad.seq]; decide)
    have hct2 : Calm 1 w := k2.calm (hct.mono (by omega) : Calm (1 + 1) t)
    have hea2 : w.sq.ea = s.operandAddr i := by
      rw [q2, ← hea]
      simp only
      rw [ad.ea, hcc]
      simp only [Bool.not_false, Bool.and_true, if_true]
      rw [unfixed_add_of_crosses (by rw [← ad.cross hcc]; exact htc), State.effectiveAddress_indexed _ hcc]
    obtain ⟨v, u, e3, k3, p3, q3, b3, v3⟩ := runSeq_final_read (.given ((encode i).getD 0 0) (operand1 i) (operand2 i))
      (.read m rd) (5 - k) (s := w) (hct2.mono (by omega)) (by rw [q2]; simp only [ad.seq]; decide) (addr := w.sq.ea)
      (act := fun d w => rd d (w.setDATA d)) (by
        intro u h _ _
        have hw : w.sq.cyc = accessCycle m false + 1 := by rw [q2]
        have h1 : ¬ w.sq.cyc < accessCycle m false := by rw [hw]; omega
        have h2 : (canCross m && w.sq.cross && w.sq.cyc == accessCycle m false) = false := by
          rw [hw]; simp
        simp only [Sequence.micro, readCycle, h, h1, h2, if_false, Bool.false_eq_true])
      (fun d u => (Stays.mk rfl rfl : Stays u (u.setDATA d)).trans (hrd d _))
    refine ⟨v, u, ?_, ?_, ?_, ?_, ?_, ?_, ?_, ?_⟩
    · rw [e0]; congr 1; rw [h7]; exact e1.trans (by rw [hn]; exact e2.trans e3)
    · have h := ((k0.trans k1).trans k2).trans k3
      have ht : readTicks m true = 1 + k + 1 + 1 := by simp [readTicks, hcc]; omega
      rw [ht]; exact h
    · rw [p3, p2, hpc]
    · rw [b3, hea2]; exact List.suffix_append _ _
    · intro hd
      rw [hea2] at v3
      have hm2 := ((k0.trans k1).trans k2).mem
      have hdv : w.isStored (s.operandAddr i) = true := by
        rw [((k0.trans k1).trans k2).isStored]; exact hd
      rw [v3 hdv]; simp only [State.peek, hm2]; rfl
    · rw [q3, q2]; simp only; rw [ad.ichg, q0]
    · rw [q3, q2]; simp only; rw [ad.vec, q0]
    · rw [q3, q2]; simp only; rw [ad.brkb, q0]

/-- Immediate operand (R160): the operation runs on the operand byte of the instruction. -/
theorem imm_class (i : Instr) (him : i.mode = .imm) (rd : Byte → State → State) (hrd : ∀ v u, Stays u (rd v u))
    {s : State} (hc : Calm 8 s) :
    ∃ u : State,
      runInstr i (.read .imm rd) s =
        (State.endTick (State.finish (rd (operand1 i) (u.setDATA (operand1 i)))) .executed).outcome ∧
      Kept s.clearLogs (u.endTick .executed) 2 ∧ u.cpu.pc = s.nextPC i ∧
      u.sq.ichg = false ∧ u.sq.vec = s.sq.vec ∧ u.sq.brkb = s.sq.brkb := by
  obtain ⟨t0, e0, k0, p0, q0⟩ := runInstr_start i (.read .imm rd) hc
  have hc8 : Calm 8 s.clearLogs := ⟨hc.running, hc.lines, hc.hold, hc.quiet, hc.pages⟩
  have hc0 : Calm 7 t0 := k0.calm (n := 7) hc8
  obtain ⟨d, u, e1, k1, p1, q1, _⟩ := runSeq_final_fetch (Feed.ofInstr i) (.read .imm rd) 6 (s := t0)
    (hc0.mono (by omega)) (by rw [q0]; simp) (slot := .first) (act := fun v t => rd v (t.setDATA v))
    (by intro u _ _ _; rfl) (fun d u => (Stays.mk rfl rfl : Stays u (u.setDATA d)).trans (hrd d _))
  refine ⟨u, ?_, k0.trans k1, ?_, ?_, ?_, ?_⟩
  · rw [e0]; congr 1
  · rw [p1, p0, State.nextPC, Instr.length, him, BitVec.add_assoc]; rfl
  · rw [q1]; simp only [State.keepOperand, q0]
  · rw [q1]; simp only [State.keepOperand, q0]
  · rw [q1]; simp only [State.keepOperand, q0]

/-- Implied and accumulator operands (R159). -/
theorem implied_class (i : Instr) (op : State → State) (hop : ∀ u, Stays u (op u)) {s : State} (hc : Calm 8 s) :
    ∃ u : State,
      runInstr i (.implied op) s = (State.endTick (State.finish (op u)) .executed).outcome ∧
      Kept s.clearLogs (u.endTick .executed) 2 ∧ u.cpu.pc = s.cpu.pc + 1 ∧
      u.sq.ichg = false ∧ u.sq.vec = s.sq.vec ∧ u.sq.brkb = s.sq.brkb := by
  obtain ⟨t0, e0, k0, p0, q0⟩ := runInstr_start i (.implied op) hc
  have hc8 : Calm 8 s.clearLogs := ⟨hc.running, hc.lines, hc.hold, hc.quiet, hc.pages⟩
  have hc0 : Calm 7 t0 := k0.calm (n := 7) hc8
  obtain ⟨d, u, e1, k1, p1, q1, _⟩ := runSeq_final_read (Feed.ofInstr i) (.implied op) 6 (s := t0)
    (hc0.mono (by omega)) (by rw [q0]; simp) (addr := t0.cpu.pc) (act := fun _ t => op t)
    (by intro u _ hp _; simp only [Sequence.micro, MicroOp.discard, hp]) (fun _ u => hop u)
  refine ⟨u, ?_, k0.trans k1, ?_, ?_, ?_, ?_⟩
  · rw [e0]; congr 1
  · rw [p1, p0]
  · rw [q1, q0]
  · rw [q1, q0]
  · rw [q1, q0]

/-- What the address cycles of an instruction leave, with the terminal fetch before them. -/
structure Ready2 (i : Instr) (s t : State) (m : Mode) (k : Nat) : Prop where
  kept : Kept s.clearLogs t k
  calm : Calm 2 t
  pc : t.cpu.pc = s.nextPC i
  seq : t.sq.seq = .op
  cyc : t.sq.cyc = accessCycle m true
  ea : t.sq.ea = s.operandAddr i
  cross : canCross m = true → t.sq.cross = s.pageCross i
  bah : canCross m = true → t.sq.bah = hi (s.indexBase m (operand1 i) (operand2 i))
  ichg : t.sq.ichg = false
  shstall : t.sq.shstall = false
  vec : t.sq.vec = s.sq.vec
  brkb : t.sq.brkb = s.sq.brkb

/-- The fetch and the address cycles of a class that always spends the fix-up cycle (write, read-modify-write). -/
theorem address_always (i : Instr) (m : Mode) (hm : memoryMode m = true) (him : i.mode = m) (q : Sequence)
    (hq : Follows q m true) {s : State} (hc : Calm 8 s) (hu : s.mayUse (indexSources m) = true) :
    ∃ t, Ready2 i s t m (accessCycle m true - 1) ∧
      runInstr i q s = (runSeq (Feed.ofInstr i) q (9 - accessCycle m true) t).outcome := by
  obtain ⟨t0, e0, k0, p0, q0⟩ := runInstr_start i q hc
  have hc8 : Calm 8 s.clearLogs := ⟨hc.running, hc.lines, hc.hold, hc.quiet, hc.pages⟩
  have hc0 : Calm 7 t0 := k0.calm (n := 7) hc8
  have hk2 : accessCycle m true ≤ 6 := by cases m <;> decide
  have hk3 : 2 ≤ accessCycle m true := by cases m <;> decide
  obtain ⟨t, e1, k1, p1, ad⟩ := address_phase ((encode i).getD 0 0) (operand1 i) (operand2 i) q m true hm
    (s := t0) (hc0.mono (by omega)) (by rw [q0]) (by rw [q0]) hq (k0.mayUse hu) (9 - accessCycle m true)
  have hbase : t0.indexBase m (operand1 i) (operand2 i) = s.indexBase m (operand1 i) (operand2 i) := by
    cases m <;> simp only [State.indexBase, State.zpPointer, State.peek, k0.mem] <;> rfl
  have hidx : t0.index m = s.index m := by
    cases m <;> simp only [State.index, k0.x, k0.y] <;> rfl
  refine ⟨t, ⟨?_, ?_, ?_, ad.seq, ad.cyc, ?_, ?_, ?_, ?_, ?_, ?_, ?_⟩, ?_⟩
  · have h := k0.trans k1
    have : accessCycle m true - 1 = 1 + (accessCycle m true - 2) := by omega
    rw [this]; exact h
  · exact k1.calm (hc0.mono (by omega))
  · rw [p1, p0, State.nextPC, Instr.length, him]; exact length_ofMemoryMode hm _
  · rw [ad.ea]
    simp only [Bool.not_true, Bool.and_false, Bool.false_eq_true, if_false]
    rw [k0.effectiveAddress _ _ hm, State.operandAddr, him]; rfl
  · intro h; rw [ad.cross h, hbase, hidx, State.pageCross_eq, him, h, Bool.true_and]
  · intro h; rw [ad.bah h, hbase]
  · rw [ad.ichg, q0]
  · rw [ad.shstall, q0]
  · rw [ad.vec, q0]
  · rw [ad.brkb, q0]
  · rw [e0]
    have : 7 = (9 - accessCycle m true) + (accessCycle m true - 2) := by omega
    rw [this]
    exact congrArg _ e1

/-- The state after a final write: what `s` kept, with memory as the write left it. -/
theorem final_write_moved {s u w : State} {a : Word} {v : Byte} (hu : Dev { s with half := .phi2 } u)
    (hw : (u.isRam a = true ∧ w = u.poke a v) ∨ (u.isRam a = false ∧ Dev u w)) :
    Moved s (State.endTick (w.logBus (.write a v)) .executed) 1 ∧ w.sq = s.sq ∧ w.cpu.pc = s.cpu.pc ∧
      w.mem = s.afterWrites [(a, v)] ∧ w.bus = s.bus := by
  rcases hw with ⟨hd, hw⟩ | ⟨hd, hw⟩
  · subst hw
    have hk := hu.kept (.write a v) u.cpu.pc u.sq
    have hd' : s.isRam a = true := by rw [← hd]; exact (hu.isRam a).symm
    have hm : u.mem = s.mem := hu.mem
    refine ⟨⟨⟨hk.params, hk.agenda, hk.hold, hk.nmiCount, hk.nmiPending, hk.rstPending, hk.written, hk.sound, hk.tick, rfl,
      hk.bus⟩, hk.a, hk.x, hk.y, hk.sp, hk.n, hk.u, hk.b, hk.d, hk.i, hk.z, hk.c, hk.v⟩, hu.sq, hu.cpu_pc, ?_, hu.bus⟩
    simp [State.afterWrites, hd', hm]
  · have h := hu.trans hw
    have hk := h.kept (.write a v) w.cpu.pc w.sq
    have hd' : s.isRam a = false := by rw [← hd]; exact (hu.isRam a).symm
    have hm : w.mem = s.mem := h.mem
    refine ⟨hk.toMoved, h.sq, h.cpu_pc, ?_, h.bus⟩
    simp only [State.afterWrites, List.foldl, hd', Bool.false_eq_true, if_false, hm]

/-- Write class: the value is computed in the tick of the write (R156), from registers that are as they were. -/
theorem write_class (i : Instr) (m : Mode) (hm : memoryMode m = true) (him : i.mode = m) (l : List Source)
    (value : State → Byte) {v : Byte} {s : State}
    (hv : ∀ u : State, u.cpu.a = s.cpu.a → u.cpu.x = s.cpu.x → u.cpu.y = s.cpu.y → value u = v)
    (hc : Calm 8 s) (hu : s.mayUse (indexSources m) = true) (hl : s.mayUse l = true) :
    ∃ t, runInstr i (.write m l value) s = t.outcome ∧ Moved s.clearLogs t (accessCycle m true) ∧
      t.cpu.pc = s.nextPC i ∧ t.mem = s.afterWrites [(s.operandAddr i, v)] ∧
      [.write (s.operandAddr i) v] <:+ t.bus ∧ t.sq.seq = .boundary ∧ t.sq.ichg = false ∧ t.sq.vec = s.sq.vec ∧
      t.sq.brkb = s.sq.brkb := by
  have hfol : Follows (.write m l value) m true := by
    intro u hu
    simp only [Sequence.micro, writeCycle, hu, if_true]
  obtain ⟨t, r, e⟩ := address_always i m hm him (.write m l value) hfol hc hu
  have hk2 : accessCycle m true ≤ 6 := by cases m <;> decide
  have hk3 : 2 ≤ accessCycle m true := by cases m <;> decide
  have hn : 9 - accessCycle m true = (8 - accessCycle m true) + 1 := by omega
  obtain ⟨u, w, hu, hw, e1⟩ := runSeq_final_write (Feed.ofInstr i) (.write m l value) (8 - accessCycle m true) (s := t)
    (r.calm.mono (by omega)) (by rw [r.seq]; decide) (pre := fun t => t.uses l) (addr := fun t => t.sq.ea) (value := value) (by
      intro u h _ _
      have h1 : ¬ u.sq.cyc < accessCycle m true := by rw [h, r.cyc]; omega
      simp only [Sequence.micro, writeCycle, h1, if_false])
    (fun u hu => by
      rw [State.uses_eq (hu.mayUse (r.kept.mayUse hl))]
      exact ⟨Stays.refl u, hu.sound ⟨r.calm.running, r.calm.lines⟩⟩)
  have hpu : u.uses l = u := State.uses_eq (hu.mayUse (r.kept.mayUse hl))
  have hus : u.sq.ea = s.operandAddr i := by rw [hu.sq]; exact r.ea
  have hval : value u = v := hv u (hu.cpu_a.trans r.kept.a) (hu.cpu_x.trans r.kept.x) (hu.cpu_y.trans r.kept.y)
  simp only [hpu, hus, hval] at hw e1
  obtain ⟨hmv, h2, h3, h4, h5⟩ := final_write_moved hu hw
  have hall := r.kept.toMoved.trans hmv
  have hlen : accessCycle m true - 1 + 1 = accessCycle m true := by omega
  rw [hlen] at hall
  refine ⟨State.endTick (State.finish (w.logBus (.write (s.operandAddr i) v))) .executed, by rw [e, hn, e1],
    ⟨⟨hall.params, hall.agenda, hall.hold, hall.nmiCount, hall.nmiPending, hall.rstPending,
    hall.written, hall.sound, hall.tick, rfl, hall.bus⟩, hall.a, hall.x, hall.y, hall.sp, hall.n, hall.u, hall.b, hall.d, hall.i,
    hall.z, hall.c, hall.v⟩, ?_, ?_, ?_, rfl, ?_, ?_, ?_⟩
  · show w.cpu.pc = _
    rw [h3, r.pc]
  · show w.mem = _
    rw [h4]
    simp only [State.afterWrites, r.kept.isRam, r.kept.mem]; rfl
  · exact List.suffix_append _ _
  · show w.sq.ichg = _
    rw [h2, r.ichg]
  · show w.sq.vec = _
    rw [h2, r.vec]
  · show w.sq.brkb = _
    rw [h2, r.brkb]

/-! ### What an operation may change -/

/-- `w` differs from `u` in registers and flags, and in what the V hook lets the devices do (R45): nothing else. -/
structure OpFrame (u w : State) : Prop where
  pc : w.cpu.pc = u.cpu.pc
  sq : w.sq = u.sq
  mem : w.mem = u.mem
  params : w.params = u.params
  agenda : w.agenda = u.agenda
  hold : w.busHold = u.busHold
  nmiCount : w.irq.nmiCount = u.irq.nmiCount
  nmiPending : w.irq.nmiPending = u.irq.nmiPending
  rstPending : w.irq.rstPending = u.irq.rstPending
  tick : w.tick = u.tick
  half : w.half = u.half
  bus : w.bus = u.bus
  written : WrittenKept u w
  sound : u.sound → w.sound

theorem OpFrame.refl (u : State) : OpFrame u u :=
  ⟨rfl, rfl, rfl, rfl, rfl, rfl, rfl, rfl, rfl, rfl, rfl, rfl, WrittenKept.refl u, id⟩

theorem OpFrame.trans {u w x : State} (h : OpFrame u w) (g : OpFrame w x) : OpFrame u x :=
  ⟨g.pc.trans h.pc, g.sq.trans h.sq, g.mem.trans h.mem, g.params.trans h.params, g.agenda.trans h.agenda,
    g.hold.trans h.hold, g.nmiCount.trans h.nmiCount, g.nmiPending.trans h.nmiPending, g.rstPending.trans h.rstPending,
    g.tick.trans h.tick, g.half.trans h.half, g.bus.trans h.bus, h.written.trans g.written,
    fun hs => g.sound (h.sound hs)⟩

theorem Dev.opFrame {u w : State} (h : Dev u w) : OpFrame u w :=
  ⟨h.cpu_pc, h.sq, h.mem, h.params, h.agenda, h.busHold, h.irq_nmiCount, h.irq_nmiPending, h.irq_rstPending, h.tick,
    h.half, h.bus, h.written, h.sound⟩

theorem OpFrame.stays {u w : State} (h : OpFrame u w) : Stays u w := ⟨h.agenda, h.tick⟩

/-- A change of registers and flags that leaves PC alone. -/
theorem OpFrame.cpu (u : State) (c : Cpu) (h : c.pc = u.cpu.pc) (hw : WrittenKept u { u with cpu := c }) :
    OpFrame u { u with cpu := c } :=
  ⟨h, rfl, rfl, rfl, rfl, rfl, rfl, rfl, rfl, rfl, rfl, rfl, hw, id⟩

theorem OpFrame.setNZ (u : State) (v : Byte) : OpFrame u (u.setNZ v) := OpFrame.cpu u _ rfl (State.setNZ_written u v)

theorem OpFrame.compare (u : State) (r v : Byte) : OpFrame u (u.compare r v) :=
  OpFrame.cpu u _ rfl (State.compare_written u r v)

theorem OpFrame.writeV (u : State) (v : Bool) : OpFrame u (u.writeV v) :=
  (Dev.onVAccess u).opFrame.trans (OpFrame.cpu _ _ rfl (State.setV_written _ v))

/-- ADC, SBC and ARR write A and four flags, V through the hook (R45, R264, R265, R422). -/
theorem State.setAlu_spec (u : State) (r : AluResult) :
    (u.setAlu r).cpu.a = r.value ∧ (u.setAlu r).cpu.x = u.cpu.x ∧ (u.setAlu r).cpu.y = u.cpu.y ∧
      (u.setAlu r).cpu.s = u.cpu.s ∧ (u.setAlu r).cpu.p.n = r.n ∧ (u.setAlu r).cpu.p.v = r.v ∧
      (u.setAlu r).cpu.p.u = u.cpu.p.u ∧ (u.setAlu r).cpu.p.b = u.cpu.p.b ∧ (u.setAlu r).cpu.p.d = u.cpu.p.d ∧
      (u.setAlu r).cpu.p.i = u.cpu.p.i ∧ (u.setAlu r).cpu.p.z = r.z ∧ (u.setAlu r).cpu.p.c = r.c ∧
      OpFrame u (u.setAlu r) := by
  have h := Dev.onVAccess ((u.setA r.value).setC r.c)
  have hf : OpFrame u (u.setAlu r) :=
    ((OpFrame.cpu u ((u.setA r.value).setC r.c).cpu rfl
      ((State.setA_written u _).trans (State.setC_written _ _))).trans h.opFrame).trans
      (OpFrame.cpu _ _ rfl (((State.setV_written _ _).trans (State.setN_written _ _)).trans (State.setZ_written _ _)))
  exact ⟨h.cpu_a, h.cpu_x, h.cpu_y, h.cpu_s, rfl, rfl, h.cpu_p_u, h.cpu_p_b, h.cpu_p_d, h.cpu_p_i, rfl, h.cpu_p_c, hf⟩

theorem OpFrame.setAlu (u : State) (r : AluResult) : OpFrame u (u.setAlu r) :=
  (State.setAlu_spec u r).2.2.2.2.2.2.2.2.2.2.2.2

/-- A state that differs from a moved one in registers and flags only has moved too, as far as its environment goes. -/
theorem OpFrame.passed {s u w : State} {k : Nat} (h : OpFrame u w) (g : Passed s (u.endTick .executed) k) :
    Passed s (w.endTick .executed) k :=
  ⟨h.params.trans g.params, h.agenda.trans g.agenda, h.hold.trans g.hold, h.nmiCount.trans g.nmiCount,
    h.nmiPending.trans g.nmiPending, h.rstPending.trans g.rstPending, g.written.trans h.written, fun hs => h.sound (g.sound hs), by
      have := g.tick; simp only [State.endTick_tick, h.tick] at this ⊢; exact this, rfl, by
      have := g.bus; simp only [State.endTick_bus, h.bus] at this ⊢; exact this⟩

/-- Read-modify-write class: the byte is read and written back, the operation runs in the tick of that dummy write (R156), and
its result is written in the last tick. `u` is the state in which the operation runs, `x` the one it leaves. -/
theorem rmw_class (i : Instr) (m : Mode) (hm : memoryMode m = true) (him : i.mode = m)
    (f : Byte → State → Byte × State) (hst : ∀ v u, Stays u (f v u).2) {s : State}
    (hf : ∀ v u, (∀ l, s.mayUse l = true → u.mayUse l = true) → OpFrame u (f v u).2)
    (hc : Calm 8 s) (hu : s.mayUse (indexSources m) = true) :
    ∃ (v : Byte) (u t : State), runInstr i (.rmw m f) s = t.outcome ∧
      Moved s.clearLogs (u.endTick .executed) (accessCycle m true + 1) ∧
      u.mem = s.afterWrites [(s.operandAddr i, v)] ∧ (s.isStored (s.operandAddr i) = true → v = s.peek (s.operandAddr i)) ∧
      Moved ((f v u).2.endTick .executed) t 1 ∧ Passed s.clearLogs t (accessCycle m true + 2) ∧
      t.cpu.pc = s.nextPC i ∧ OperandModified s i t v (f v u).1 ∧ t.sq.seq = .boundary ∧ t.sq.ichg = false ∧
      t.sq.vec = s.sq.vec ∧ t.sq.brkb = s.sq.brkb := by
  have hfol : Follows (.rmw m f) m true := by
    intro u hu
    simp only [Sequence.micro, rmwCycle, hu, if_true]
  obtain ⟨t, r, e⟩ := address_always i m hm him (.rmw m f) hfol hc hu
  have hk2 : accessCycle m true ≤ 6 := by cases m <;> decide
  have hk3 : 2 ≤ accessCycle m true := by cases m <;> decide
  generalize hk : accessCycle m true = k at hk2 hk3
  have hr := r.cyc
  rw [hk] at hr
  have hkept := r.kept
  rw [hk] at e hkept
  have hc8 : Calm 8 s.clearLogs := ⟨hc.running, hc.lines, hc.hold, hc.quiet, hc.pages⟩
  have hct : Calm 3 t := (hkept.calm (n := 9 - k) (by
    have : 9 - k + (k - 1) = 8 := by omega
    rw [this]; exact hc8)).mono (by omega)
  have hn : 9 - k = (6 - k) + 1 + 1 + 1 := by omega
  -- the read
  obtain ⟨v, t1, e1, k1, p1, q1, b1, v1⟩ := runSeq_latch_read (Feed.ofInstr i) (.rmw m f) (6 - k + 1 + 1) (s := t)
    (hct.mono (by omega)) (by rw [r.seq]; simp) (addr := t.sq.ea) (act := fun d w => (w.setDATA d).nextCycle)
    (l := fun d => { t.sq with data := d, cyc := k + 1 }) (by
      intro u h _ _
      have h1 : ¬ u.sq.cyc < accessCycle m true := by rw [h, hr, hk]; omega
      have h2 : u.sq.cyc = accessCycle m true := by rw [h, hr, hk]
      simp only [Sequence.micro, rmwCycle]
      rw [if_neg h1, if_pos h2, h])
    (by intro d u h _ _ _; simp only [State.setDATA, State.nextCycle, h, hr])
    (by intro d; simp only [r.seq]; simp)
  have hct1 : Calm 2 t1 := k1.calm (hct : Calm (2 + 1) t)
  have hea1 : t1.sq.ea = s.operandAddr i := by rw [q1]; exact r.ea
  have hkt1 := hkept.trans k1
  have hv : s.isStored (s.operandAddr i) = true → v = s.peek (s.operandAddr i) := by
    intro hd
    rw [r.ea] at v1
    have hdv : t.isStored (s.operandAddr i) = true := by rw [hkept.isStored]; exact hd
    rw [v1 hdv]; simp only [State.peek, hkept.mem]; rfl
  -- the dummy write, with the operation
  obtain ⟨u0, w, hu, hw, e2⟩ := runSeq_write (Feed.ofInstr i) (.rmw m f) (6 - k + 1) (s := t1)
    (hct1.mono (by omega)) (by rw [q1]; simp only [r.seq]; simp) (pre := id) (addr := fun t => t.sq.ea)
    (value := fun t => t.sq.data)
    (post := fun t => State.nextCycle ((f t.sq.data t).2.setDATA (f t.sq.data t).1)) (by
      intro u h _ _
      have h0 : u.sq.cyc = k + 1 := by rw [h, q1]
      have h1 : ¬ u.sq.cyc < accessCycle m true := by rw [h0, hk]; omega
      have h2 : ¬ u.sq.cyc = accessCycle m true := by rw [h0, hk]; omega
      have h3 : u.sq.cyc = accessCycle m true + 1 := by rw [h0, hk]
      simp only [Sequence.micro, rmwCycle]
      rw [if_neg h1, if_neg h2, if_pos h3])
    (fun u hu => ⟨Stays.refl u, hu.sound ⟨hct1.running, hct1.lines⟩⟩)
    (fun w => (hst w.sq.data w).trans ⟨rfl, rfl⟩)
  have hus : u0.sq.ea = s.operandAddr i := by rw [hu.sq]; exact hea1
  have hdat : u0.sq.data = v := by rw [hu.sq]; show t1.sq.data = v; rw [q1]
  simp only [id, hus, hdat] at hw e2
  obtain ⟨hmv, w1, w2, w3, w4⟩ := final_write_moved hu hw
  -- u is the state in which the operation runs
  generalize hudef : w.logBus (.write (s.operandAddr i) v) = u at hmv e2
  have hudat : u.sq.data = v := by rw [← hudef]; show w.sq.data = v; rw [w1, q1]
  rw [hudat] at e2
  have hO := hf v u (by
    intro l hl
    have h1 : u0.mayUse l = true := hu.mayUse (hkt1.mayUse hl)
    rcases hw with ⟨_, h2⟩ | ⟨_, h2⟩
    · rw [← hudef, h2]; exact h1
    · rw [← hudef]; exact h2.mayUse h1)
  have hum := hkt1.toMoved.trans hmv
  have hlen : k - 1 + 1 + 1 = k + 1 := by omega
  rw [hlen] at hum
  have hxp : Passed s.clearLogs ((f v u).2.endTick .executed) (k + 1) := hO.passed hum.toPassed
  -- x is the state after that tick
  generalize hxdef : State.endTick (State.nextCycle ((f v u).2.setDATA (f v u).1)) Lat.executed = x at e2
  have hxP : Passed s.clearLogs x (k + 1) := by
    rw [← hxdef]
    exact ⟨hxp.params, hxp.agenda, hxp.hold, hxp.nmiCount, hxp.nmiPending, hxp.rstPending, hxp.written, hxp.sound, hxp.tick, rfl,
      hxp.bus⟩
  have hxc : Calm 0 x := (hxP.calm (n := 7 - k) (by
    have : 7 - k + (k + 1) = 8 := by omega
    rw [this]; exact hc8)).mono (by omega)
  have hxsq : x.sq = { u.sq with data := (f v u).1, cyc := u.sq.cyc + 1 } := by
    rw [← hxdef]
    simp only [State.nextCycle, State.setDATA, State.endTick_sq, hO.sq]
  have husq : u.sq = t1.sq := by rw [← hudef]; exact w1
  have hxseq : x.sq.seq = .op := by rw [hxsq, husq, q1]; exact r.seq
  have hxea : x.sq.ea = s.operandAddr i := by rw [hxsq, husq]; exact hea1
  have hxcyc : x.sq.cyc = k + 2 := by rw [hxsq, husq, q1]
  have hxdata : x.sq.data = (f v u).1 := by rw [hxsq]
  have hxset : x.settled = false := State.not_settled hxc.running (by rw [hxseq]; simp)
  -- the last write
  obtain ⟨y, z, hy, hz, e3⟩ := runSeq_final_write (Feed.ofInstr i) (.rmw m f) (6 - k) (s := x) hxc
    (by rw [hxseq]; simp) (pre := id) (addr := fun t => t.sq.ea) (value := fun t => t.sq.data) (by
      intro u h _ _
      have h0 : u.sq.cyc = k + 2 := by rw [h, hxcyc]
      have h1 : ¬ u.sq.cyc < accessCycle m true := by rw [h0, hk]; omega
      have h2 : ¬ u.sq.cyc = accessCycle m true := by rw [h0, hk]; omega
      have h3 : ¬ u.sq.cyc = accessCycle m true + 1 := by rw [h0, hk]; omega
      simp only [Sequence.micro, rmwCycle]
      rw [if_neg h1, if_neg h2, if_neg h3])
    (fun u hu => ⟨Stays.refl u, hu.sound ⟨hxc.running, hxc.lines⟩⟩)
  have hys : y.sq.ea = s.operandAddr i := by rw [hy.sq]; exact hxea
  have hyd : y.sq.data = (f v u).1 := by rw [hy.sq]; exact hxdata
  simp only [id, hys, hyd] at hz e3
  obtain ⟨hmz, z1, z2, z3, z4⟩ := final_write_moved hy hz
  have hfin : Passed s.clearLogs ((z.logBus (.write (s.operandAddr i) (f v u).1)).endTick .executed) (k + 2) :=
    hxP.trans hmz.toPassed
  have hxcpu : x.cpu = ((f v u).2.endTick .executed).cpu := by rw [← hxdef]; rfl
  refine ⟨v, u, State.endTick (State.finish (z.logBus (.write (s.operandAddr i) (f v u).1))) .executed,
    ?_, hum, ?_, hv, ?_, ?_, ?_, ⟨?_, hv, ?_⟩, rfl, ?_, ?_, ?_⟩
  · rw [e, hn, e1, e2, hxset]
    simp only [Bool.false_eq_true, if_false]
    rw [e3]
  · rw [← hudef]
    show w.mem = _
    rw [w3]
    simp only [State.afterWrites, hkt1.isRam, hkt1.mem]; rfl
  · have hx2 : Moved x (State.endTick (State.finish (z.logBus (.write (s.operandAddr i) (f v u).1))) .executed) 1 :=
      ⟨⟨hmz.params, hmz.agenda, hmz.hold, hmz.nmiCount, hmz.nmiPending, hmz.rstPending, hmz.written, hmz.sound, hmz.tick, rfl,
        hmz.bus⟩, hmz.a, hmz.x, hmz.y, hmz.sp, hmz.n, hmz.u, hmz.b, hmz.d, hmz.i, hmz.z, hmz.c, hmz.v⟩
    rw [← hxdef] at hx2
    exact ⟨⟨hx2.params, hx2.agenda, hx2.hold, hx2.nmiCount, hx2.nmiPending, hx2.rstPending, hx2.written, hx2.sound, hx2.tick, rfl,
      hx2.bus⟩, hx2.a, hx2.x, hx2.y, hx2.sp, hx2.n, hx2.u, hx2.b, hx2.d, hx2.i, hx2.z, hx2.c, hx2.v⟩
  · exact ⟨hfin.params, hfin.agenda, hfin.hold, hfin.nmiCount, hfin.nmiPending, hfin.rstPending, hfin.written, hfin.sound, hfin.tick,
      rfl, hfin.bus⟩
  · show z.cpu.pc = _
    rw [z2, hxcpu]
    show (f v u).2.cpu.pc = _
    rw [hO.pc, ← hudef]
    show w.cpu.pc = _
    rw [w2, p1, r.pc]
  · have hxb : x.bus = t.bus ++ [.read (s.operandAddr i) v] ++ [.write (s.operandAddr i) v] := by
      rw [← hxdef]
      show (f v u).2.bus = _
      rw [hO.bus, ← hudef]
      show w.bus ++ _ = _
      rw [w4, b1, r.ea]
    show _ <:+ z.bus ++ _
    rw [z4, hxb]
    simp only [List.append_assoc, List.cons_append, List.nil_append]
    exact List.suffix_append _ _
  · show z.mem = _
    rw [z3]
    have hxm : x.mem = s.afterWrites [(s.operandAddr i, v)] := by
      rw [← hxdef]
      show (f v u).2.mem = _
      rw [hO.mem, ← hudef]
      show w.mem = _
      rw [w3]
      simp only [State.afterWrites, hkt1.isRam, hkt1.mem]; rfl
    have hxd : ∀ a, x.isRam a = s.isRam a := fun a => hxP.isRam a
    simp only [State.afterWrites, List.foldl, hxm, hxd]
  · show z.sq.ichg = _
    rw [z1, hxsq, husq, q1]; exact r.ichg
  · show z.sq.vec = _
    rw [z1, hxsq, husq, q1]; exact r.vec
  · show z.sq.brkb = _
    rw [z1, hxsq, husq, q1]; exact r.brkb


/-- SHA, SHS, SHX, SHY (R431): `src` is the byte that the instruction combines with the high byte of the base plus 1. -/
theorem sh_class (i : Instr) (m : Mode) (hm : memoryMode m = true) (hcm : canCross m = true) (him : i.mode = m)
    (prep : State → State) (src : State → Byte) {v : Byte} {s : State}
    (hprep : (∀ u : State, (∀ l, s.mayUse l = true → u.mayUse l = true) → prep u = u) ∨
      (∀ u : State, (∀ l, s.mayUse l = true → u.mayUse l = true) → prep u = u.setS (u.cpu.a &&& u.cpu.x)))
    (hsrc : ∀ u : State, (∀ l, s.mayUse l = true → u.mayUse l = true) → u.cpu.a = s.cpu.a → u.cpu.x = s.cpu.x →
      u.cpu.y = s.cpu.y → src (prep u) = v)
    (hc : Calm 8 s) (hu : s.mayUse (indexSources m) = true) :
    ∃ t, runInstr i (.sh m prep src) s = t.outcome ∧ Passed s.clearLogs t (accessCycle m true) ∧
      t.regs = { s.regs with s := (prep s).cpu.s, pc := s.nextPC i } ∧ VKept s t ∧
      t.mem = s.afterWrites [(s.shTarget i (s.shStored i v), s.shStored i v)] ∧
      [.write (s.shTarget i (s.shStored i v)) (s.shStored i v)] <:+ t.bus ∧ t.sq.seq = .boundary ∧ t.sq.ichg = false ∧
      t.sq.vec = s.sq.vec ∧ t.sq.brkb = s.sq.brkb := by
  have hfol : Follows (.sh m prep src) m true := by
    intro u hu
    simp only [Sequence.micro, shCycle, hu, if_true]
  obtain ⟨t, r, e⟩ := address_always i m hm him (.sh m prep src) hfol hc hu
  have hk2 : accessCycle m true ≤ 6 := by cases m <;> decide
  have hk3 : 2 ≤ accessCycle m true := by cases m <;> decide
  have hn : 9 - accessCycle m true = (8 - accessCycle m true) + 1 := by omega
  obtain ⟨u, w, hu, hw, e1⟩ := runSeq_final_write (Feed.ofInstr i) (.sh m prep src) (8 - accessCycle m true) (s := t)
    (r.calm.mono (by omega)) (by rw [r.seq]; simp) (pre := prep) (addr := shAddr src) (value := shValue src) (by
      intro u h _ _
      have h1 : ¬ u.sq.cyc < accessCycle m true := by rw [h, r.cyc]; omega
      simp only [Sequence.micro, shCycle, h1, if_false])
    (fun u hu => by
      have hus := hu.sound ⟨r.calm.running, r.calm.lines⟩
      rcases hprep with h | h <;> rw [h u (fun l hl => hu.mayUse (r.kept.mayUse hl))]
      · exact ⟨Stays.refl u, hus⟩
      · exact ⟨⟨rfl, rfl⟩, hus⟩)
  have hmu : ∀ l, s.mayUse l = true → u.mayUse l = true := fun l hl => hu.mayUse (r.kept.mayUse hl)
  have hpsq : (prep u).sq = t.sq := by
    have h : u.sq = t.sq := hu.sq
    rcases hprep with hp | hp <;> rw [hp u hmu]
    · exact h
    · exact h
  have hsv : src (prep u) = v := hsrc u hmu (hu.cpu_a.trans r.kept.a) (hu.cpu_x.trans r.kept.x) (hu.cpu_y.trans r.kept.y)
  have hbah : t.sq.bah = hi (s.operandBase i) := by rw [r.bah hcm, State.operandBase, him]
  have hval : shValue src (prep u) = s.shStored i v := by
    simp only [shValue, hpsq, r.shstall, Bool.and_false, Bool.false_eq_true, if_false, hsv, hbah, State.shStored]
  have hadr : shAddr src (prep u) = s.shTarget i (s.shStored i v) := by
    simp only [shAddr, hval, hpsq, r.cross hcm, r.ea, State.shTarget]
  rw [hval, hadr] at hw e1
  -- the state before the write, with S as the instruction leaves it
  have hp : ∃ b : Byte, prep u = u.setS b ∧ b = (prep s).cpu.s := by
    have h1 : u.cpu.s = t.cpu.s := hu.cpu_s
    have h2 : u.cpu.a = t.cpu.a := hu.cpu_a
    have h3 : u.cpu.x = t.cpu.x := hu.cpu_x
    rcases hprep with hp | hp
    · refine ⟨u.cpu.s, hp u hmu, ?_⟩
      rw [hp s (fun _ h => h), h1, r.kept.sp]; rfl
    · refine ⟨u.cpu.a &&& u.cpu.x, hp u hmu, ?_⟩
      rw [hp s (fun _ h => h), h2, h3, r.kept.a, r.kept.x]; rfl
  obtain ⟨b, hpu, hb⟩ := hp
  have hu2 : Dev { (t.setS b) with half := .phi2 } (u.setS b) :=
    ⟨by
      have := hu.bare
      have h : (u.setS b).bare = (u.bare).setS b := rfl
      rw [h, this]; rfl, hu.half, hu.v, hu.written, hu.sound⟩
  rw [hpu] at hw
  obtain ⟨hmv, w1, w2, w3, w4⟩ := final_write_moved (s := t.setS b) hu2 hw
  have hk := r.kept
  generalize hA : s.shTarget i (s.shStored i v) = A at *
  generalize hV : s.shStored i v = V at *
  refine ⟨State.endTick (State.finish (w.logBus (.write A V))) .executed, by rw [e, hn, e1], ?_, ?_, ?_, ?_, ?_, rfl,
    ?_, ?_, ?_⟩
  · have h : Passed t (State.endTick (w.logBus (.write A V)) .executed) 1 :=
      ⟨hmv.params, hmv.agenda, hmv.hold, hmv.nmiCount, hmv.nmiPending, hmv.rstPending, hmv.written, hmv.sound, hmv.tick,
        rfl, hmv.bus⟩
    have h2 := hk.toPassed.trans h
    have hlen : accessCycle m true - 1 + 1 = accessCycle m true := by omega
    rw [hlen] at h2
    exact ⟨h2.params, h2.agenda, h2.hold, h2.nmiCount, h2.nmiPending, h2.rstPending, h2.written, h2.sound, h2.tick, rfl, h2.bus⟩
  · have ha : w.cpu.a = s.cpu.a := hmv.a.trans hk.a
    have hx : w.cpu.x = s.cpu.x := hmv.x.trans hk.x
    have hy : w.cpu.y = s.cpu.y := hmv.y.trans hk.y
    have hs : w.cpu.s = b := hmv.sp
    have hn : w.cpu.p.n = s.cpu.p.n := hmv.n.trans hk.n
    have hu' : w.cpu.p.u = s.cpu.p.u := hmv.u.trans hk.u
    have hb' : w.cpu.p.b = s.cpu.p.b := hmv.b.trans hk.b
    have hd : w.cpu.p.d = s.cpu.p.d := hmv.d.trans hk.d
    have hi' : w.cpu.p.i = s.cpu.p.i := hmv.i.trans hk.i
    have hz : w.cpu.p.z = s.cpu.p.z := hmv.z.trans hk.z
    have hc' : w.cpu.p.c = s.cpu.p.c := hmv.c.trans hk.c
    have hpc : w.cpu.pc = s.nextPC i := by rw [w2]; exact r.pc
    show State.regs w = _
    simp only [State.regs, ha, hx, hy, hs, hn, hu', hb', hd, hi', hz, hc', hpc, hb]
  · have h1 : VKept s t := hk.v
    have h2 : VKept t (State.endTick (w.logBus (.write A V)) .executed) := hmv.v
    exact h1.trans hk.params h2
  · show w.mem = _
    rw [w3]
    simp only [State.afterWrites, State.isRam_of_params (s := t) (t := t.setS b) rfl, State.setS_mem, hk.isRam, hk.mem]; rfl
  · exact List.suffix_append _ _
  · show w.sq.ichg = _
    rw [w1]; exact r.ichg
  · show w.sq.vec = _
    rw [w1]; exact r.vec
  · show w.sq.brkb = _
    rw [w1]; exact r.brkb

end Sys2Proof.Machine
end

