-- ==== Sys2Proof/Laws/Operations.lean ====
section
/-! SUPPORT. What the operations of the instructions can do (R221 to R440): each leaves the agenda and the tick alone, and where it
may use the registers it reads (R46) it changes registers and flags only, and no `written` bit is cleared. -/

namespace Sys2Proof.Machine

/-- An operation that reads the registers `l`. -/
structure OpSpec (l : List Source) (op : State → State) : Prop where
  stays : ∀ u, Stays u (op u)
  frame : ∀ u, u.mayUse l = true → OpFrame u (op u)

/-- Fewer registers are read. -/
theorem OpSpec.mono {l m : List Source} {op : State → State} (h : OpSpec l op) (hs : ∀ r ∈ l, r ∈ m) : OpSpec m op where
  stays := h.stays
  frame := fun u hu => h.frame u (by
    simp only [State.mayUse, Bool.or_eq_true, List.all_eq_true] at hu ⊢
    exact hu.imp_right fun g r hr => g r (hs r hr))

/-- An operation that always runs. -/
theorem OpSpec.of_frame {op : State → State} (h : ∀ u, OpFrame u (op u)) : OpSpec [] op :=
  ⟨fun u => (h u).stays, fun u _ => h u⟩

/-- One operation after another. -/
theorem OpSpec.comp {l : List Source} {f g : State → State} (hf : OpSpec l f) (hg : OpSpec l g) :
    OpSpec l (fun u => g (f u)) where
  stays := fun u => (hf.stays u).trans (hg.stays _)
  frame := fun u hu => (hf.frame u hu).trans (hg.frame _ ((hf.frame u hu).written.mayUse (hf.frame u hu).params hu))

/-- The guard of R46 around an operation. -/
theorem OpSpec.using {l m : List Source} {k : State → State → State}
    (hs : ∀ u, Stays u (k u u)) (hk : ∀ u, u.mayUse l = true → OpFrame u (k u u)) (hm : ∀ r ∈ m, r ∈ l) :
    OpSpec l (fun u => u.using m (k u)) where
  stays := fun u => Stays.using (hs u)
  frame := fun u hu => by
    rw [State.using_eq]
    · exact hk u hu
    · simp only [State.mayUse, Bool.or_eq_true, List.all_eq_true] at hu ⊢
      exact hu.imp_right fun g r hr => g r (hm r hr)

/-- The guard around an operation that always runs. -/
theorem OpSpec.guard (l : List Source) {k : State → State → State} (hk : ∀ u, OpFrame u (k u u)) :
    OpSpec l (fun u => u.using l (k u)) := OpSpec.using (fun u => (hk u).stays) (fun u _ => hk u) (fun _ h => h)

theorem OpFrame.setC (u : State) (b : Bool) : OpFrame u (u.setC b) :=
  OpFrame.cpu u (u.setC b).cpu rfl (State.setC_written u b)

/-! ### Read class -/

theorem readLda_spec (v : Byte) : OpSpec [] (readLda v) :=
  OpSpec.of_frame fun u => OpFrame.cpu u _ rfl fun r hr => by cases r <;> first | rfl | exact hr

theorem readLdx_spec (v : Byte) : OpSpec [] (readLdx v) :=
  OpSpec.of_frame fun u => OpFrame.cpu u _ rfl fun r hr => by cases r <;> first | rfl | exact hr

theorem readLdy_spec (v : Byte) : OpSpec [] (readLdy v) :=
  OpSpec.of_frame fun u => OpFrame.cpu u _ rfl fun r hr => by cases r <;> first | rfl | exact hr

theorem readLax_spec (v : Byte) : OpSpec [] (readLax v) :=
  OpSpec.of_frame fun u => OpFrame.cpu u _ rfl fun r hr => by cases r <;> first | rfl | exact hr

theorem readLas_spec (v : Byte) : OpSpec [] (readLas v) :=
  OpSpec.of_frame fun u => OpFrame.cpu u _ rfl fun r hr => by cases r <;> first | rfl | exact hr

theorem readNop_spec (v : Byte) : OpSpec [] (readNop v) :=
  OpSpec.of_frame fun u => OpFrame.cpu u _ rfl fun r hr => by cases r <;> first | rfl | exact hr

theorem readAnd_spec (v : Byte) : OpSpec [.a] (readAnd v) :=
  OpSpec.guard _ fun u => OpFrame.cpu u _ rfl fun r hr => by cases r <;> first | rfl | exact hr

theorem readOra_spec (v : Byte) : OpSpec [.a] (readOra v) :=
  OpSpec.guard _ fun u => OpFrame.cpu u _ rfl fun r hr => by cases r <;> first | rfl | exact hr

theorem readEor_spec (v : Byte) : OpSpec [.a] (readEor v) :=
  OpSpec.guard _ fun u => OpFrame.cpu u _ rfl fun r hr => by cases r <;> first | rfl | exact hr

theorem readCmp_spec (v : Byte) : OpSpec [.a] (readCmp v) :=
  OpSpec.guard _ fun u => OpFrame.cpu u _ rfl fun r hr => by cases r <;> first | rfl | exact hr

theorem readCpx_spec (v : Byte) : OpSpec [.x] (readCpx v) :=
  OpSpec.guard _ fun u => OpFrame.cpu u _ rfl fun r hr => by cases r <;> first | rfl | exact hr

theorem readCpy_spec (v : Byte) : OpSpec [.y] (readCpy v) :=
  OpSpec.guard _ fun u => OpFrame.cpu u _ rfl fun r hr => by cases r <;> first | rfl | exact hr

theorem readAnc_spec (v : Byte) : OpSpec [.a] (readAnc v) :=
  OpSpec.using (fun u => ((readAnd_spec v).stays u).trans ⟨rfl, rfl⟩)
    (fun u hu => ((readAnd_spec v).frame u hu).trans (OpFrame.cpu _ _ rfl (State.setC_written _ _))) (fun _ h => h)

theorem readAlr_spec (v : Byte) : OpSpec [.a] (readAlr v) :=
  OpSpec.guard _ (k := fun u s => ((s.setA (lsrByte (u.cpu.a &&& v)).1).setC (lsrByte (u.cpu.a &&& v)).2).setNZ
    (lsrByte (u.cpu.a &&& v)).1) fun u => OpFrame.cpu u _ rfl fun r hr => by cases r <;> first | rfl | exact hr

theorem readSbx_spec (v : Byte) : OpSpec [.a, .x] (readSbx v) :=
  OpSpec.guard _ (k := fun u s => (s.compare (u.cpu.a &&& u.cpu.x) v).setX ((u.cpu.a &&& u.cpu.x) - v)) fun u => OpFrame.cpu u _ rfl fun r hr => by cases r <;> first | rfl | exact hr

theorem readLxa_spec (v : Byte) : OpSpec [.a] (readLxa v) :=
  OpSpec.guard _ (k := fun u s => ((s.setA ((u.cpu.a ||| u.params.magic) &&& v)).setX
    ((u.cpu.a ||| u.params.magic) &&& v)).setNZ ((u.cpu.a ||| u.params.magic) &&& v)) fun u => OpFrame.cpu u _ rfl fun r hr => by cases r <;> first | rfl | exact hr

theorem readAne_spec (v : Byte) : OpSpec [.a, .x] (readAne v) :=
  OpSpec.guard _ (k := fun u s => (s.setA ((u.cpu.a ||| u.params.magic) &&& u.cpu.x &&& v)).setNZ
    ((u.cpu.a ||| u.params.magic) &&& u.cpu.x &&& v)) fun u => OpFrame.cpu u _ rfl fun r hr => by cases r <;> first | rfl | exact hr

theorem readAdc_spec (v : Byte) : OpSpec [.a, .c, .d] (readAdc v) :=
  OpSpec.guard _ fun u => OpFrame.setAlu u _

theorem readSbc_spec (v : Byte) : OpSpec [.a, .c, .d] (readSbc v) :=
  OpSpec.guard _ fun u => OpFrame.setAlu u _

theorem readUsbc_spec (v : Byte) : OpSpec [.a, .c, .d] (readUsbc v) := readSbc_spec v

theorem readArr_spec (v : Byte) : OpSpec [.a, .c, .d] (readArr v) :=
  OpSpec.guard _ fun u => OpFrame.setAlu u _

theorem readBit_spec (v : Byte) : OpSpec [.a] (readBit v) :=
  OpSpec.guard _ fun u =>
    ((OpFrame.cpu u (u.setN (v.getLsbD 7)).cpu rfl (State.setN_written u _)).trans (OpFrame.writeV _ _)).trans
      (OpFrame.cpu _ _ rfl (State.setZ_written _ _))

/-! ### Implied and accumulator operands -/

theorem opTax_spec : OpSpec [.a] opTax :=
  OpSpec.guard _ fun u => OpFrame.cpu u _ rfl fun r hr => by cases r <;> first | rfl | exact hr

theorem opTay_spec : OpSpec [.a] opTay :=
  OpSpec.guard _ fun u => OpFrame.cpu u _ rfl fun r hr => by cases r <;> first | rfl | exact hr

theorem opTxa_spec : OpSpec [.x] opTxa :=
  OpSpec.guard _ fun u => OpFrame.cpu u _ rfl fun r hr => by cases r <;> first | rfl | exact hr

theorem opTya_spec : OpSpec [.y] opTya :=
  OpSpec.guard _ fun u => OpFrame.cpu u _ rfl fun r hr => by cases r <;> first | rfl | exact hr

theorem opTxs_spec : OpSpec [.x] opTxs :=
  OpSpec.guard _ fun u => OpFrame.cpu u _ rfl fun r hr => by cases r <;> first | rfl | exact hr

theorem opInx_spec : OpSpec [.x] opInx :=
  OpSpec.guard _ fun u => OpFrame.cpu u _ rfl fun r hr => by cases r <;> first | rfl | exact hr

theorem opIny_spec : OpSpec [.y] opIny :=
  OpSpec.guard _ fun u => OpFrame.cpu u _ rfl fun r hr => by cases r <;> first | rfl | exact hr

theorem opDex_spec : OpSpec [.x] opDex :=
  OpSpec.guard _ fun u => OpFrame.cpu u _ rfl fun r hr => by cases r <;> first | rfl | exact hr

theorem opDey_spec : OpSpec [.y] opDey :=
  OpSpec.guard _ fun u => OpFrame.cpu u _ rfl fun r hr => by cases r <;> first | rfl | exact hr

theorem opTsx_spec : OpSpec [] opTsx :=
  OpSpec.of_frame fun u => OpFrame.cpu u _ rfl fun r hr => by cases r <;> first | rfl | exact hr

theorem opClc_spec : OpSpec [] opClc :=
  OpSpec.of_frame fun u => OpFrame.cpu u _ rfl fun r hr => by cases r <;> first | rfl | exact hr

theorem opSec_spec : OpSpec [] opSec :=
  OpSpec.of_frame fun u => OpFrame.cpu u _ rfl fun r hr => by cases r <;> first | rfl | exact hr

theorem opCld_spec : OpSpec [] opCld :=
  OpSpec.of_frame fun u => OpFrame.cpu u _ rfl fun r hr => by cases r <;> first | rfl | exact hr

theorem opSed_spec : OpSpec [] opSed :=
  OpSpec.of_frame fun u => OpFrame.cpu u _ rfl fun r hr => by cases r <;> first | rfl | exact hr

theorem opNop_spec : OpSpec [] opNop := OpSpec.of_frame OpFrame.refl

theorem opClv_spec : OpSpec [] opClv := OpSpec.of_frame fun u => OpFrame.writeV u false

/-! ### Read-modify-write class -/

theorem modifyAsl_spec (v : Byte) : OpSpec [] (fun u => (modifyAsl v u).2) :=
  OpSpec.of_frame fun u => OpFrame.cpu u _ rfl fun r hr => by cases r <;> first | rfl | exact hr

theorem modifyLsr_spec (v : Byte) : OpSpec [] (fun u => (modifyLsr v u).2) :=
  OpSpec.of_frame fun u => OpFrame.cpu u _ rfl fun r hr => by cases r <;> first | rfl | exact hr

theorem modifyInc_spec (v : Byte) : OpSpec [] (fun u => (modifyInc v u).2) :=
  OpSpec.of_frame fun u => OpFrame.cpu u _ rfl fun r hr => by cases r <;> first | rfl | exact hr

theorem modifyDec_spec (v : Byte) : OpSpec [] (fun u => (modifyDec v u).2) :=
  OpSpec.of_frame fun u => OpFrame.cpu u _ rfl fun r hr => by cases r <;> first | rfl | exact hr

theorem modifyRol_spec (v : Byte) : OpSpec [.c] (fun u => (modifyRol v u).2) :=
  OpSpec.guard _ (k := fun u s => (shiftWith (rolByte v u.cpu.p.c) s).2) fun u => OpFrame.cpu u _ rfl fun r hr => by cases r <;> first | rfl | exact hr

theorem modifyRor_spec (v : Byte) : OpSpec [.c] (fun u => (modifyRor v u).2) :=
  OpSpec.guard _ (k := fun u s => (shiftWith (rorByte v u.cpu.p.c) s).2) fun u => OpFrame.cpu u _ rfl fun r hr => by cases r <;> first | rfl | exact hr

theorem modifySlo_spec (v : Byte) : OpSpec [.a] (fun u => (modifySlo v u).2) :=
  OpSpec.comp (f := fun u => u.setC (aslByte v).2) ((OpSpec.of_frame fun u => OpFrame.setC u _).mono
    (by simp)) (readOra_spec (aslByte v).1)

theorem modifySre_spec (v : Byte) : OpSpec [.a] (fun u => (modifySre v u).2) :=
  OpSpec.comp (f := fun u => u.setC (lsrByte v).2) ((OpSpec.of_frame fun u => OpFrame.setC u _).mono
    (by simp)) (readEor_spec (lsrByte v).1)

theorem modifyRla_spec (v : Byte) : OpSpec [.a, .c] (fun u => (modifyRla v u).2) :=
  OpSpec.using (k := fun u s => readAnd (rolByte v u.cpu.p.c).1 (s.setC (rolByte v u.cpu.p.c).2))
    (fun u => (Stays.mk rfl rfl : Stays u (u.setC _)).trans ((readAnd_spec _).stays _))
    (fun u hu => (OpFrame.setC u _).trans (((readAnd_spec _).mono (by simp)).frame _
      ((State.setC_written u _).mayUse rfl hu)))
    (by simp)

theorem modifyRra_spec (v : Byte) : OpSpec [.a, .c, .d] (fun u => (modifyRra v u).2) :=
  OpSpec.using (k := fun u s => readAdc (rorByte v u.cpu.p.c).1 (s.setC (rorByte v u.cpu.p.c).2))
    (fun u => (Stays.mk rfl rfl : Stays u (u.setC _)).trans ((readAdc_spec _).stays _))
    (fun u hu => (OpFrame.setC u _).trans ((readAdc_spec _).frame _
      ((State.setC_written u _).mayUse rfl hu)))
    (by simp)

theorem modifyDcp_spec (v : Byte) : OpSpec [.a] (fun u => (modifyDcp v u).2) := readCmp_spec (v - 1)

theorem modifyIsb_spec (v : Byte) : OpSpec [.a, .c, .d] (fun u => (modifyIsb v u).2) := readSbc_spec (v + 1)

/-- The accumulator form of a shift or rotate. -/
theorem onAccumulator_spec {l : List Source} {f : Byte → State → Byte × State}
    (h : ∀ v, OpSpec l (fun u => (f v u).2)) : OpSpec (.a :: l) (onAccumulator f) :=
  OpSpec.using (k := fun _ s => (f s.cpu.a s).2.setA (f s.cpu.a s).1)
    (fun u => ((h u.cpu.a).stays u).trans ⟨rfl, rfl⟩)
    (fun u hu => (((h u.cpu.a).mono (fun _ hr => List.mem_cons_of_mem _ hr)).frame u hu).trans (OpFrame.cpu _ _ rfl (State.setA_written _ _)))
    (by simp)

/-! ### The reads of `pack` -/

/-- Where the flags may be read, `pack`'s reads are the V hook alone (R37, R45, R46). -/
theorem State.packAccess_dev {u : State} (h : u.mayUse statusSources = true) : Dev u u.packAccess := by
  unfold State.packAccess
  rw [State.uses_eq ((Dev.onVAccess u).mayUse h)]
  exact Dev.onVAccess u

/-! ### By mnemonic -/

/-- The operation of a read class instruction reads what `mnemSources` lists (R46). -/
theorem readOp_spec {n : Mnem} {m k : Mode} {rd : Byte → State → State} (h : mnemSequence n m = .read k rd) (v : Byte) :
    k = m ∧ OpSpec (mnemSources n) (rd v) := by
  cases n <;> simp only [mnemSequence, reduceCtorEq, Sequence.read.injEq] at h <;>
    first
    | exact absurd h id
    | (obtain ⟨rfl, rfl⟩ := h
       refine ⟨rfl, ?_⟩
       first
       | exact readLda_spec v | exact readLdx_spec v | exact readLdy_spec v | exact readLax_spec v | exact readLas_spec v
       | exact readAnd_spec v | exact readOra_spec v | exact readEor_spec v | exact readCmp_spec v | exact readCpx_spec v
       | exact readCpy_spec v | exact readAnc_spec v | exact readAlr_spec v | exact readSbx_spec v | exact readLxa_spec v
       | exact readAne_spec v | exact readAdc_spec v | exact readSbc_spec v | exact readUsbc_spec v | exact readArr_spec v
       | exact readBit_spec v)
    | (split at h
       · simp only [reduceCtorEq] at h
       · first
         | (simp only [Sequence.read.injEq] at h
            obtain ⟨rfl, rfl⟩ := h
            exact ⟨rfl, readNop_spec v⟩)
         | simp only [reduceCtorEq] at h)

/-- The operation of a read-modify-write instruction reads what `mnemSources` lists (R46). -/
theorem modifyOp_spec {n : Mnem} {m k : Mode} {f : Byte → State → Byte × State} (h : mnemSequence n m = .rmw k f) (v : Byte) :
    k = m ∧ OpSpec (mnemSources n) (fun u => (f v u).2) := by
  cases n <;> simp only [mnemSequence, reduceCtorEq, Sequence.rmw.injEq] at h <;>
    first
    | exact absurd h id
    | (obtain ⟨rfl, rfl⟩ := h
       refine ⟨rfl, ?_⟩
       first
       | exact modifyInc_spec v | exact modifyDec_spec v | exact modifySlo_spec v | exact modifyRla_spec v
       | exact modifySre_spec v | exact modifyRra_spec v | exact modifyDcp_spec v | exact modifyIsb_spec v)
    | (split at h
       · simp only [reduceCtorEq] at h
       · first
         | (simp only [Sequence.rmw.injEq] at h
            obtain ⟨rfl, rfl⟩ := h
            refine ⟨rfl, ?_⟩
            first
            | exact modifyAsl_spec v | exact modifyLsr_spec v | exact modifyRol_spec v | exact modifyRor_spec v)
         | simp only [reduceCtorEq] at h)

/-- The operation of an implied or accumulator instruction but CLI and SEI reads what `usesOf` lists (R46). -/
theorem impliedOp_spec {n : Mnem} {m : Mode} {op : State → State} (h : mnemSequence n m = .implied op) (hc : n ≠ .cli)
    (hs : n ≠ .sei) : OpSpec ((if m = .acc then [.a] else []) ++ mnemSources n) op := by
  cases n <;> simp only [mnemSequence, reduceCtorEq, Sequence.implied.injEq] at h <;>
    first
    | exact absurd h id
    | exact absurd rfl hc
    | exact absurd rfl hs
    | (subst h
       first
       | exact (opTax_spec.mono (by simp [mnemSources])) | exact (opTay_spec.mono (by simp [mnemSources]))
       | exact (opTxa_spec.mono (by simp [mnemSources])) | exact (opTya_spec.mono (by simp [mnemSources]))
       | exact (opTxs_spec.mono (by simp [mnemSources])) | exact (opTsx_spec.mono (by simp [mnemSources]))
       | exact (opInx_spec.mono (by simp [mnemSources])) | exact (opIny_spec.mono (by simp [mnemSources]))
       | exact (opDex_spec.mono (by simp [mnemSources])) | exact (opDey_spec.mono (by simp [mnemSources]))
       | exact (opClc_spec.mono (by simp [mnemSources])) | exact (opSec_spec.mono (by simp [mnemSources]))
       | exact (opCld_spec.mono (by simp [mnemSources])) | exact (opSed_spec.mono (by simp [mnemSources]))
       | exact (opClv_spec.mono (by simp [mnemSources])))
    | (split at h
       · simp only [Sequence.implied.injEq] at h
         subst h
         first
         | exact (opNop_spec.mono (by simp))
         | (rename_i hm
            simp only [hm, if_true]
            first
            | exact onAccumulator_spec modifyAsl_spec | exact onAccumulator_spec modifyLsr_spec
            | exact onAccumulator_spec modifyRol_spec | exact onAccumulator_spec modifyRor_spec)
       · simp only [reduceCtorEq] at h)
    | (split at h <;> simp only [reduceCtorEq] at h)

end Sys2Proof.Machine
end

