-- ==== Sys2Proof/Laws/Outside.lean ====
section
/-! SUPPORT. What anything outside the CPU can do to it, host calls included (R40, R95, R158), and what holds through a run of
ticks because every tick keeps it. -/

namespace Sys2Proof.Machine

/-- `t` comes from `s` by device activity and host calls alone: of the CPU's side only V can have changed, unless a forced jump
has moved PC and ended the sequence. -/
structure Outside (s t : State) : Prop where
  a : t.cpu.a = s.cpu.a
  x : t.cpu.x = s.cpu.x
  y : t.cpu.y = s.cpu.y
  sp : t.cpu.s = s.cpu.s
  n : t.cpu.p.n = s.cpu.p.n
  u : t.cpu.p.u = s.cpu.p.u
  b : t.cpu.p.b = s.cpu.p.b
  d : t.cpu.p.d = s.cpu.p.d
  i : t.cpu.p.i = s.cpu.p.i
  z : t.cpu.p.z = s.cpu.p.z
  c : t.cpu.p.c = s.cpu.p.c
  v : s.cpu.p.v = true → t.cpu.p.v = true
  written : WrittenKept s t
  mem : t.mem = s.mem
  params : t.params = s.params
  tick : t.tick = s.tick
  bus : t.bus = s.bus
  latches : t.sq = { s.sq with seq := t.sq.seq }
  jump : (t.cpu.pc = s.cpu.pc ∧ t.sq.seq = s.sq.seq) ∨ t.sq.seq = .boundary

theorem Outside.refl (s : State) : Outside s s :=
  ⟨rfl, rfl, rfl, rfl, rfl, rfl, rfl, rfl, rfl, rfl, rfl, id, WrittenKept.refl s, rfl, rfl, rfl, rfl, rfl, .inl ⟨rfl, rfl⟩⟩

theorem Outside.trans {s t u : State} (h : Outside s t) (g : Outside t u) : Outside s u where
  a := g.a.trans h.a
  x := g.x.trans h.x
  y := g.y.trans h.y
  sp := g.sp.trans h.sp
  n := g.n.trans h.n
  u := g.u.trans h.u
  b := g.b.trans h.b
  d := g.d.trans h.d
  i := g.i.trans h.i
  z := g.z.trans h.z
  c := g.c.trans h.c
  v := fun hv => g.v (h.v hv)
  written := h.written.trans g.written
  mem := g.mem.trans h.mem
  params := g.params.trans h.params
  tick := g.tick.trans h.tick
  bus := g.bus.trans h.bus
  latches := by
    rw [g.latches, h.latches]
  jump := by
    rcases g.jump with ⟨g1, g2⟩ | g1
    · rcases h.jump with ⟨h1, h2⟩ | h1
      · exact .inl ⟨g1.trans h1, g2.trans h2⟩
      · exact .inr (g2.trans h1)
    · exact .inr g1

theorem Dev.outside {s t : State} (h : Dev s t) : Outside s t :=
  ⟨h.cpu_a, h.cpu_x, h.cpu_y, h.cpu_s, h.cpu_p_n, h.cpu_p_u, h.cpu_p_b, h.cpu_p_d, h.cpu_p_i, h.cpu_p_z, h.cpu_p_c,
    by
      intro hv
      rcases h.v with h1 | h1
      · rw [h1]; exact hv
      · exact h1.1,
    h.written, h.mem, h.params, h.tick, h.bus, by rw [h.sq], .inl ⟨h.cpu_pc, by rw [h.sq]⟩⟩

theorem Dev.viaReset (s : State) (k : ViaId) : Dev s (s.viaReset k) := by
  unfold State.viaReset
  have h := (Dev.mapVia s k Via.resetFields (fun _ => rfl)).trans (Dev.checkInterrupts _ k)
  refine h.trans (State.unlessStopped_keeps (Dev.refl _) ?_)
  cases k
  · exact Dev.portBEffect _ .via1
  · unfold State.resetEffect
    simp only
    exact Dev.trans ((Dev.rot _ _).trans (Dev.mech _ _)) (Dev.setWriting _ _)

/-- A change of device fields and interrupt lines leaves the CPU's side alone. -/
theorem Outside.of_cpu {s t : State} (h1 : t.cpu = s.cpu) (h2 : t.mem = s.mem) (h3 : t.params = s.params)
    (h4 : t.tick = s.tick) (h5 : t.bus = s.bus) (h6 : t.sq = s.sq) : Outside s t := by
  refine ⟨by rw [h1], by rw [h1], by rw [h1], by rw [h1], by rw [h1], by rw [h1], by rw [h1], by rw [h1], by rw [h1],
    by rw [h1], by rw [h1], by rw [h1]; exact id, WrittenKept.of_cpu (by rw [h1]), h2, h3, h4, h5, by rw [h6], .inl ⟨by rw [h1], by rw [h6]⟩⟩

theorem Outside.apply (s : State) (c : HostCall) : Outside s (s.apply c) := by
  cases c with
  | triggerIRQ => exact Outside.of_cpu rfl rfl rfl rfl rfl rfl
  | clearIRQ =>
    show Outside s s.clearIRQ
    unfold State.clearIRQ
    split <;> exact Outside.of_cpu rfl rfl rfl rfl rfl rfl
  | triggerNMI => exact Outside.of_cpu rfl rfl rfl rfl rfl rfl
  | clearNMI =>
    show Outside s s.clearNMI
    unfold State.clearNMI
    split <;> exact Outside.of_cpu rfl rfl rfl rfl rfl rfl
  | triggerRST => exact Outside.of_cpu rfl rfl rfl rfl rfl rfl
  | setBusHold l => exact Outside.of_cpu rfl rfl rfl rfl rfl rfl
  | forcedJump a =>
    exact ⟨rfl, rfl, rfl, rfl, rfl, rfl, rfl, rfl, rfl, rfl, rfl, id, WrittenKept.refl _, rfl, rfl, rfl, rfl, rfl, .inr rfl⟩
  | setOverflow =>
    exact ⟨rfl, rfl, rfl, rfl, rfl, rfl, rfl, rfl, rfl, rfl, rfl, fun _ => rfl, State.setV_written s true, rfl, rfl, rfl, rfl,
      rfl, .inl ⟨rfl, rfl⟩⟩
  | signal k l e => exact (Dev.signal s k l e).outside
  | driveReset =>
    have h : Outside s s.triggerRST := Outside.of_cpu rfl rfl rfl rfl rfl rfl
    have h1 := Dev.viaReset s.triggerRST .via1
    exact h.trans (State.unlessStopped_keeps (k := fun t => t.viaReset .via2) h1 (h1.trans (Dev.viaReset _ .via2))).outside
  | insert tracks wp =>
    show Outside s (s.insertDisk tracks wp)
    unfold State.insertDisk
    simp only
    split
    · exact Outside.of_cpu rfl rfl rfl rfl rfl rfl
    · split <;> exact Outside.of_cpu rfl rfl rfl rfl rfl rfl
  | eject => exact Outside.of_cpu rfl rfl rfl rfl rfl rfl
  | setTrack h bytes =>
    show Outside s (s.setTrack h bytes)
    unfold State.setTrack
    split
    · exact Outside.of_cpu rfl rfl rfl rfl rfl rfl
    · simp only
      split <;> exact Outside.of_cpu rfl rfl rfl rfl rfl rfl

theorem Outside.applyAll (l : List Due) (s : State) : Outside s (s.applyAll l) := by
  induction l generalizing s with
  | nil => exact Outside.refl s
  | cons d rest ih =>
    simp only [State.applyAll]
    exact State.unlessStopped_keeps (Outside.refl s) ((Outside.apply s d.call).trans (ih _))

/-- The host calls of one place in a tick. -/
theorem Outside.hostCalls (s : State) (m : Moment) : Outside s (s.hostCalls m) :=
  Outside.trans (t := { s with agenda := s.agenda.filter (fun d => !d.isDue s.tick m) })
    (Outside.of_cpu rfl rfl rfl rfl rfl rfl) (Outside.applyAll _ _)

/-- PHI1 of a tick, whatever is due in it. -/
theorem Outside.phi1 (s : State) : Outside s s.phi1 := by
  have place : ∀ (u v : State) (m : Moment), Outside s u → Dev (u.hostCalls m).attachDue v → Outside s v :=
    fun u v m hu hv => (hu.trans (Outside.hostCalls u m)).trans ((Dev.attachDue _).trans hv).outside
  have h1 := place s _ .beforeVia1 (Outside.refl s) (Dev.viaStep _ .via1)
  have h2 := place _ _ .beforeVia2 h1 (Dev.viaStep _ .via2)
  have h3 := place _ _ .beforeRotation h2 (Dev.rotationStep _)
  have h4 : Outside s s.phi1Events := h3.trans (Outside.hostCalls _ _)
  unfold State.phi1
  cases s.half with
  | phi2 => exact Outside.refl s
  | phi1 => exact h4.trans (Outside.of_cpu rfl rfl rfl rfl rfl rfl)

/-- What every half of a tick keeps holds after any run of ticks of a sequence. -/
theorem runSeq_keeps (P : State → Prop) (feed : Feed) (q : Sequence) (hphi : ∀ s, P s → P s.phi1)
    (hlate : ∀ s, P s → P (s.hostCalls .afterCpu)) (hend : ∀ s f, P s → P (s.endTick f)) (hmark : ∀ s, P s → P (q.markStall s))
    (hperf : ∀ s, P s → P ((q.micro s).perform feed s)) (n : Nat) (s : State) (h : P s) : P (runSeq feed q n s) := by
  induction n generalizing s with
  | zero => exact h
  | succ n ih =>
    have ht : P (q.tick feed s).1 := by
      unfold Sequence.tick
      simp only
      split
      · exact hphi s h
      · split
        · exact hend _ _ (hlate _ (hmark _ (hphi s h)))
        · exact hend _ _ (hlate _ (hperf _ (hphi s h)))
    simp only [runSeq]
    split
    · exact ih _ ht
    · exact ht

/-- What every half of a tick keeps holds after an instruction that answers a next state. -/
theorem runInstr_keeps (P : State → Prop) (i : Instr) (q : Sequence) (hphi : ∀ s, P s → P s.phi1)
    (hlate : ∀ s, P s → P (s.hostCalls .afterCpu)) (hend : ∀ s f, P s → P (s.endTick f)) (hmark : ∀ s, P s → P (q.markStall s))
    (hfetch : ∀ s, P s → P (terminalFetch.perform (Feed.ofInstr i) s))
    (hperf : ∀ s, P s → P ((q.micro s).perform (Feed.ofInstr i) s)) {s t : State} (h : P s.clearLogs)
    (he : runInstr i q s = .next t) : P t := by
  have hout : ∀ u : State, u.outcome = .next t → P u → P t := by
    intro u hu hp
    unfold State.outcome at hu
    cases hs : u.stopped with
    | some f => rw [hs] at hu; exact absurd hu (by simp)
    | none =>
      rw [hs] at hu
      simp only [Host.Outcome.next.injEq] at hu
      rw [← hu]
      exact hp
  unfold runInstr at he
  simp only at he
  split at he
  · exact hout _ he (hphi _ h)
  · split at he
    · exact hout _ he (hend _ _ (hlate _ (hphi _ h)))
    · exact hout _ he (runSeq_keeps P _ q hphi hlate hend hmark hperf 7 _ (hend _ _ (hlate _ (hfetch _ (hphi _ h)))))

end Sys2Proof.Machine
end

