-- ==== Sys2Proof/Tests/Slice0.lean ====
section
/-! SUPPORT. Our own tests: ill-formed rows refused, words of the spec's opcode map, single steps with the values of
95_test_vectors.md, and a named witness for the hypotheses of every statement. -/

namespace Sys2Proof.Machine

/-! ### Helpers -/

/-- The start state of 95_test_vectors.md §0: a bare core at $0800 with S = $FD, P = $24, no request pending. -/
def testState (mem : List Host.Cell) : State :=
  { State.reset with
    cpu := { State.reset.cpu with s := 0xFD, pc := 0x0800, p := ⟨false, false, true, false, false, true, false, false⟩ }
    irq := { State.reset.irq with rstPending := false }
    params := { State.reset.params with platform := .core }
    mem := mem }

/-- The same with the drive attached. -/
def testDrive (mem : List Host.Cell) : State :=
  { testState mem with params := State.reset.params }

/-- The start state with UNINIT_AS_DRAW false, as R9's default has it, every register and flag being written or none. -/
def testWritten (all : Bool) (mem : List Host.Cell) : State :=
  { testState mem with
    cpu := { (testState mem).cpu with written := ⟨all, all, all, all, all, all, all, all, all⟩ }
    params := { (testState mem).params with uninitAsDraw := false } }

/-- A memory map with ROM from $C000 and nothing from $2000 to $2FFF. -/
def testMap (mem : List Host.Cell) : State :=
  { testState mem with params := { (testState mem).params with regions := [⟨0xC000, 0x4000, .rom⟩, ⟨0x2000, 0x1000, .unmapped⟩] } }

/-- A check of the next state that an outcome answers. -/
def nextHas (o : Host.Outcome State Fault Refusal) (check : State → Bool) : Bool :=
  match o with
  | .next t => check t
  | _ => false

theorem exists_next {o : Host.Outcome State Fault Refusal} {check : State → Bool} (h : nextHas o check = true) :
    ∃ t, o = .next t ∧ check t = true := by
  cases o with
  | next t => exact ⟨t, rfl, h⟩
  | fault f => exact absurd h (by simp [nextHas])
  | refused r => exact absurd h (by simp [nextHas])

/-- The fault that an outcome is. -/
def faultOf (o : Host.Outcome State Fault Refusal) : Option Fault :=
  match o with
  | .fault f => some f
  | _ => none

/-- An outcome is the fault UNINIT_REG. -/
def stopsUnwritten (o : Host.Outcome State Fault Refusal) : Bool := faultOf o == some .uninitReg

/-- The flags N V D I Z C. -/
def testFlags (t : State) : List Bool := [t.cpu.p.n, t.cpu.p.v, t.cpu.p.d, t.cpu.p.i, t.cpu.p.z, t.cpu.p.c]

/-! ### WellFormed: an ill-formed row for each check -/

/-- R157: a write cannot be immediate. -/
theorem test_wf_write_immediate : Row.wellFormed ⟨0x89, .sta, .imm, .write, 2⟩ = false := by decide

/-- R157: a read-modify-write cannot be indexed by Y in page 0. -/
theorem test_wf_rmw_zpy : Row.wellFormed ⟨0x06, .asl, .zpy, .rmw, 6⟩ = false := by decide

/-- R157: an implied row belongs to no class but `special`. -/
theorem test_wf_read_implied : Row.wellFormed ⟨0xEA, .nop, .imp, .read, 2⟩ = false := by decide

/-- R157: a special row has no indexed mode. -/
theorem test_wf_special_indexed : Row.wellFormed ⟨0x20, .jsr, .abx, .special, 6⟩ = false := by decide

/-- R161: a zero-page read takes 3 cycles. -/
theorem test_wf_read_cycles : Row.wellFormed ⟨0xA5, .lda, .zp, .read, 4⟩ = false := by decide

/-- R171: an indexed write always takes 5 cycles. -/
theorem test_wf_write_cycles : Row.wellFormed ⟨0x9D, .sta, .abx, .write, 4⟩ = false := by decide

/-- R178: an RMW through (zp),Y takes 8 cycles. -/
theorem test_wf_rmw_cycles : Row.wellFormed ⟨0x13, .slo, .izy, .rmw, 6⟩ = false := by decide

/-- R690: no special row takes 8 cycles. -/
theorem test_wf_special_cycles : Row.wellFormed ⟨0x00, .brk, .imp, .special, 8⟩ = false := by decide

/-! ### Decoding: words written out from the opcode map (R114) -/

/-- LDA #$05 is A9 05 (R114, Scenario A). -/
theorem test_decode_load : decode [0b10101001, 0b00000101] = .ok (.ldaImm 0x05, []) := rfl

/-- STX $20,Y is 96 20 (row 9, column 6). -/
theorem test_decode_store : decode [0b10010110, 0b00100000] = .ok (.stxZpY 0x20, []) := rfl

/-- SBC $1234,Y is F9 34 12 (row F, column 9). -/
theorem test_decode_alu : decode [0b11111001, 0b00110100, 0b00010010] = .ok (.sbcAbsY 0x1234, []) := rfl

/-- ROR $40 is 66 40 (row 6, column 6). -/
theorem test_decode_shift : decode [0b01100110, 0b01000000, 0xFF] = .ok (.rorZp 0x40, [0xFF]) := rfl

/-- JMP ($30FF) is 6C FF 30 (row 6, column C). -/
theorem test_decode_jump : decode [0b01101100, 0b11111111, 0b00110000] = .ok (.jmpInd 0x30FF, []) := rfl

/-- BVS -2 is 70 FE (row 7, column 0). -/
theorem test_decode_branch : decode [0b01110000, 0b11111110] = .ok (.bvs 0xFE, []) := rfl

/-- PLP is 28 (row 2, column 8). -/
theorem test_decode_stack : decode [0b00101000] = .ok (.plp, []) := rfl

/-- LAX ($10,X) is A3 10 (row A, column 3). -/
theorem test_decode_unofficial : decode [0b10100011, 0b00010000] = .ok (.laxIndX 0x10, []) := rfl

/-- JAM is F2 (row F, column 2). -/
theorem test_decode_jam : decode [0b11110010] = .ok (.jamF2, []) := rfl

/-- An instruction cut short is refused by name (R110). -/
theorem test_decode_truncated : (decode [0x4C, 0x00]).toOption = none := rfl

/-- No bytes are refused (R110). -/
theorem test_decode_empty : (decode []).toOption = none := rfl

/-- The table numbers the bits of later bytes upward: LDA $1234. -/
theorem test_decode_table_word : decodeTableWord 24 0x1234AD = some (.ldaAbs 0x1234) := by decide

/-- `step` runs the instruction that `withFetchWord` places, as the first after power-on (log 22). -/
theorem test_step_runs_placed :
    nextHas (step (State.reset.withFetchWord 16 0x05A9)) (fun t => t.cpu.a == 5 && t.tick == 2) = true := by decide

/-! ### Single steps, from 95_test_vectors.md -/

/-- §2: LDA abs,X with a page cross takes 5 cycles. -/
theorem test_lda_page_cross :
    nextHas (exec (.ldaAbsX 0x20FF) { testState [(0x2100, 0x33)] with cpu := { (testState []).cpu with x := 1 } })
      (fun t => t.cpu.a == 0x33 && t.tick == 5 && t.cpu.pc == 0x0803) = true := by decide

/-- §2: LDA (zp,X) wraps its pointer in page 0. -/
theorem test_lda_pointer_wrap :
    nextHas (exec (.ldaIndX 0xFE)
        { testState [(0, 0x30), (0x3000, 0x99)] with cpu := { (testState []).cpu with x := 1 } })
      (fun t => t.cpu.a == 0x99 && testFlags t == [true, false, false, true, false, false]) = true := by decide

/-- §2: STA abs,Y across a page. -/
theorem test_sta_cross :
    nextHas (exec (.staAbsY 0x2001) { testState [] with cpu := { (testState []).cpu with a := 0xAB, y := 0xFF } })
      (fun t => t.mem == [(0x2100, 0xAB)] && t.tick == 5) = true := by decide

/-- §2: TXS sets no flag. -/
theorem test_txs :
    nextHas (exec .txs (testState [])) (fun t => t.cpu.s == 0 && !t.cpu.p.z) = true := by decide

/-- §2: ADC decimal, 58 + 46 + 1. -/
theorem test_adc_decimal :
    nextHas (exec (.adcImm 0x46) { testState [] with cpu := { (testState []).cpu with
        a := 0x58, p := { (testState []).cpu.p with d := true, c := true } } })
      (fun t => t.cpu.a == 0x05 && testFlags t == [true, true, true, true, false, true]) = true := by decide

/-- §2: ADC, signed overflow of two negative numbers. -/
theorem test_adc_overflow :
    nextHas (exec (.adcImm 0xFF) { testState [] with cpu := { (testState []).cpu with a := 0x80 } })
      (fun t => t.cpu.a == 0x7F && testFlags t == [false, true, false, true, false, true]) = true := by decide

/-- §1 S1: INC zp,X takes 6 cycles. -/
theorem test_inc :
    nextHas (exec (.incZpX 0x20) { testState [(0x21, 0x7F)] with cpu := { (testState []).cpu with x := 1 } })
      (fun t => t.mem == [(0x21, 0x80)] && t.cpu.p.n && t.tick == 6) = true := by decide

/-- §1 S1: JSR pushes $0802. -/
theorem test_jsr :
    nextHas (exec (.jsr 0xC000) { testState [] with cpu := { (testState []).cpu with s := 0xFF } })
      (fun t => t.cpu.s == 0xFD && t.cpu.pc == 0xC000 && t.mem == [(0x1FE, 2), (0x1FF, 8)] && t.tick == 6) = true := by
  decide

/-- R350: the pointer of JMP ($30FF) takes its high byte from $3000. -/
theorem test_jmp_page_bug :
    nextHas (exec (.jmpInd 0x30FF) (testState [(0x3000, 0x12), (0x30FF, 0x34)])) (fun t => t.cpu.pc == 0x1234) = true := by
  decide

/-- R440: JAM stays at its address. -/
theorem test_jam : nextHas (exec .jam02 (testState [])) (fun t => t.cpu.pc == 0x0800 && t.tick == 2) = true := by decide

/-- §1 S3: an NMI before c4 takes BRK over: the status is pushed with b = 1, the NMI's vector is taken. -/
theorem test_brk_hijacked :
    nextHas (exec .brk { testState [(0xFFFB, 0xC0), (0xFFFF, 0xD0)] with
        irq := { (testState []).irq with nmiPending := true, nmiCount := 1 } })
      (fun t => t.cpu.pc == 0xC000 && t.peek 0x01FB == 0x34 && !t.irq.nmiPending && t.tick == 7) = true := by decide

/-- §1 S6: power-on, then the reset sequence of seven ticks. -/
theorem test_power_on :
    nextHas (step { State.reset with mem := [(0xFFFD, 0x08)] })
      (fun t => t.cpu.pc == 0x0800 && t.cpu.p.i && t.tick == 7 && t.bus.length == 7) = true := by decide

/-- §1 S3: an NMI that arises in tick 0, before or after the CPU's micro-op, is served at tick 2, one of tick 1 is not. -/
theorem test_nmi_latency :
    ([(0, Moment.beforeVia1), (0, .afterCpu), (1, .beforeVia1)].map (fun d =>
      nextHas (step { testState [(0x0800, 0xEA)] with agenda := [⟨d.1, d.2, .triggerNMI⟩] })
        (fun t => t.tick == 2 && t.decided == some .nmi))) = [true, true, false] := by decide

/-- R431: SHX stores X AND (high byte + 1). -/
theorem test_shx :
    nextHas (exec (.shxAbsY 0x4000) { testState [] with cpu := { (testState []).cpu with x := 0xFF } })
      (fun t => t.mem == [(0x4000, 0x41)]) = true := by decide

/-- R434: the same store after a stalled dummy read, with SH_RDY_QUIRK: X unmasked. -/
theorem test_shx_stalled :
    nextHas (step { testState [] with
        cpu := { (testState []).cpu with x := 0xFF }
        sq := { Latches.powerOn with seq := .op, ir := 0x9E, cyc := 5, ea := 0x4000, bah := 0x40, shstall := true }
        params := { (testState []).params with shRdyQuirk := true } })
      (fun t => t.mem == [(0x4000, 0xFF)] && t.tick == 1) = true := by decide

/-- R422: the two examples of ARR, binary and decimal. -/
theorem test_arr :
    nextHas (exec (.arrImm 0x80) { testState [] with cpu := { (testState []).cpu with a := 0xFF } })
        (fun t => t.cpu.a == 0x40 && testFlags t == [false, true, false, true, false, true]) = true ∧
      nextHas (exec (.arrImm 0xFF) { testState [] with cpu := { (testState []).cpu with
          a := 0x99, p := { (testState []).cpu.p with d := true, c := true } } })
        (fun t => t.cpu.a == 0x22 && testFlags t == [true, true, true, true, false, true]) = true := by decide

/-- R46: with UNINIT_AS_DRAW false, TXA after power-on stops and LDA does not. -/
theorem test_unwritten :
    stopsUnwritten (exec .txa (testWritten false [])) = true ∧
      nextHas (exec (.ldaImm 5) (testWritten false [])) (fun t => t.cpu.a == 5 && t.cpu.written.a && !t.cpu.written.x) = true := by
  decide

/-- R80: ROM keeps its byte, and RAM beside it takes the new one. -/
theorem test_rom :
    nextHas (exec (.staAbs 0xC000) (testMap [(0xC000, 0x12)])) (fun t => t.mem == [(0xC000, 0x12)] && t.tick == 4) = true ∧
      nextHas (exec (.incAbs 0xBFFF) (testMap [])) (fun t => t.mem == [(0xBFFF, 1)]) = true := by decide

/-- R95: of two calls of one tick listed behind a later one, both come in that tick, in the agenda's order. -/
theorem test_agenda_order :
    nextHas (exec .nop { testState [] with agenda :=
        [⟨100, .beforeCpu, .triggerRST⟩, ⟨1, .afterCpu, .setBusHold true⟩, ⟨1, .afterCpu, .setBusHold false⟩] })
      (fun t => !t.busHold && t.agenda == [⟨100, .beforeCpu, .triggerRST⟩]) = true := by decide

/-- R625, R650: an ejection listed after the CPU's micro-op comes before the rotation step of that tick; one whose tick has gone
by waits for the next VIA1 step and is not taken before the CPU's micro-op. -/
theorem test_eject_order :
    [Moment.beforeVia2, .beforeRotation].map (fun m =>
        ({ testDrive [] with agenda := [⟨0, .afterCpu, .eject⟩] }.hostCalls m).agenda.length) = [1, 0] ∧
      [Moment.beforeCpu, .afterCpu, .beforeVia1].map (fun m =>
        ({ testDrive [] with tick := 1, agenda := [⟨0, .afterCpu, .eject⟩] }.hostCalls m).agenda.length) = [1, 1, 0] := by
  decide

/-- R672: a drive reset listed after the CPU's micro-op comes before it. -/
theorem test_drive_reset_order :
    [Moment.beforeRotation, .beforeCpu].map (fun m =>
      ({ testDrive [] with agenda := [⟨0, .afterCpu, .driveReset⟩] }.hostCalls m).irq.rstPending) = [false, true] := by decide

/-- R655: the header of track 18, sector 0, ID "AB" encodes to these ten bytes. -/
theorem test_gcr_header :
    enc (headerBlock 18 0 0x41 0x42 0) = [0x52, 0x56, 0xB5, 0x29, 0x72, 0x74, 0x9C, 0xB5, 0x55, 0x55] := by decide

/-! ### Witnesses for the hypotheses of the statements -/

theorem test_witness_DecodedBytesAreTheEncoding : decode [0xEA, 0x01] = .ok (.nop, [0x01]) := rfl

/-- Code in plain storage: NOP at $0800, and JSR away from the stack for the last hypothesis. -/
theorem test_witness_StepRunsTheDecodedInstruction :
    (let s := testState [(0x0800, 0x20), (0x0802, 0xC0)]
     s.ready && s.sq.seq == .boundary && s.decided == none && s.pollable && s.plainCode s.cpu.pc &&
      decodeBytes (s.peek s.cpu.pc) (s.peek (s.cpu.pc + 1)) (s.peek (s.cpu.pc + 2)) == .jsr 0xC000 &&
      s.cpu.pc + 2 != stackAt s.cpu.s && s.cpu.pc + 2 != stackAt (s.cpu.s - 1)) = true := by decide

/-- Of StepKeepsMemoryForm, StepKeepsIrqOutputs, StepKeepsPortBWiring, StepKeepsHeadAndCounters, StepKeepsParamsAndTime and
StepIsARunOfHalfTicks: a step from a state that meets every invariant. -/
theorem test_witness_StepKeeps :
    let s := testState [(0x0800, 0xEA)]
    (∃ t, step s = .next t ∧ true = true) ∧ Memory.wf s.mem = true ∧ s.irqOutputs ∧ s.portBWired ∧ s.rotationBounds ∧
      s.headInBuffer ∧ s.tracksFit ∧ s.bitPosOnTrack :=
  ⟨exists_next (check := fun _ => true) (by decide), by decide, ⟨rfl, rfl⟩, ⟨rfl, rfl, rfl⟩,
    ⟨by decide, by decide, by decide, by decide⟩, (by unfold State.headInBuffer; decide), rfl, .inl rfl⟩

/-- Of StepKeepsParamsAndTime: a register that has been written beside others that have not, and every one written. -/
theorem test_witness_Written :
    (let s := { testWritten false [(0x0800, 0xA9)] with cpu := { (testWritten false []).cpu with
       written := { (testWritten false []).cpu.written with a := true } } }
     s.cpu.written.has .a && !s.cpu.written.has .x && nextHas (step s) (fun t => t.cpu.written.has .a)) = true ∧
      ∀ r ∈ [Source.a, .x, .y, .n, .v, .d, .i, .z, .c], (testWritten true []).cpu.written.has r = true := by decide

/-- At power-on, and with R9's default of UNINIT_AS_DRAW once every register has been written. -/
theorem test_witness_StepNeverFaults :
    (∀ s ∈ [State.reset, testWritten true []],
      s.running = true ∧ s.linesOk = true ∧ s.noClears = true ∧ s.readable = true) ∧
      (testWritten false []).readable = false := by decide

/-- Of BusHold, its first clause: a held machine at a terminal. -/
theorem test_witness_BusHold_read :
    (let s := { testState [] with busHold := true }
     s.running && s.linesOk && s.quietFor 0 && s.busHold && !(s.currentSequence.micro s).stealImmune) = true := by decide

/-- Of BusHold: SHSTALL is set at the dummy read of SHX and at no other cycle. -/
theorem test_witness_BusHold_latch :
    [3, 4].map (fun c => nextHas (step { testState [] with
        busHold := true
        sq := { Latches.powerOn with seq := .op, ir := 0x9E, cyc := c }
        params := { (testState []).params with shRdyQuirk := true } }) (fun t => t.sq.shstall)) = [false, true] := by decide

/-- Of BusHold: Timer A's flag raises the IRQ line in the stalled tick, and the latency starts. -/
theorem test_witness_BusHold_line :
    let s : State := { testDrive [] with
      busHold := true
      irq := { (testDrive []).irq with irqLat := .two }
      via1 := { Via.powerOn with t1armed := true, ier := 0x40 } }
    s.irqOutputs ∧ s.irq.irqCount = 0 ∧ nextHas (step s) (fun t => t.irq.irqCount == 1 && t.irq.irqLat == .one) = true :=
  ⟨⟨rfl, rfl⟩, rfl, by decide⟩

/-- A held machine at the write of STA zp. -/
def testHeldWrite : State :=
  { testState [] with busHold := true, sq := { Latches.powerOn with seq := .op, ir := 0x85, cyc := 3 } }

/-- Of BusHold, its second clause. -/
theorem test_witness_BusHold_write :
    (testHeldWrite.running && testHeldWrite.linesOk && testHeldWrite.quietFor 0 && testHeldWrite.busHold &&
        testHeldWrite.noClears && testHeldWrite.readable) = true ∧
      ∃ pre addr value post, testHeldWrite.clearLogs.phi1.currentSequence.micro testHeldWrite.clearLogs.phi1 =
        .write pre addr value post :=
  ⟨by decide, _, _, _, _, rfl⟩

/-- Of InterruptLines, the decision: RST wins, then NMI, then IRQ, then none. -/
theorem test_witness_Decision :
    let s := testState []
    State.decision { s with irq := ⟨1, 1, true, true, .two, .two, .two⟩ } = some .rst ∧
      State.decision { s with irq := ⟨1, 1, true, false, .two, .two, .two⟩ } = some .nmi ∧
      State.decision { s with
        cpu := { s.cpu with p := { s.cpu.p with i := false } }, irq := ⟨1, 0, false, true, .two, .two, .one⟩ } = some .irq ∧
      State.decision s = none := by decide

/-- R503: the fault raised first stays. A VIA asserts the line whose count a host call has taken to 0; the read of its T1C-L
clears the flag and so the line, and C, which ADC would read next, has never been written. Without the VIA, C's fault is
answered. -/
theorem test_first_fault_stays :
    let s := { testWritten false [] with params := { State.reset.params with uninitAsDraw := false, regions := [] } }
    faultOf (exec (.adcAbs 0x1804) { s with via1 := { s.via1 with ifr := 0x40, ier := 0x40, irqOut := true } }) =
        some .clearNeverRaised ∧
      faultOf (exec (.adcAbs 0x1804) s) = some .uninitReg := by decide

/-- Of InterruptLines, its last clause but one: a state in which a fault has been raised. -/
theorem test_witness_stopped :
    (testState []).clearIRQ.stopped = some .clearNeverRaised ∧ (testState []).clearNMI.clearIRQ.stopped.isSome = true ∧
      (testState []).uninitFault.clearIRQ.stopped = some .uninitReg ∧
      faultOf (step (testState []).uninitFault) = some .uninitReg := by decide

/-- Of InterruptLines: lines with no source, with one, and with a request pending. -/
theorem test_witness_InterruptLines :
    (testState []).irq.irqCount = 0 ∧ (testState []).irq.nmiCount = 0 ∧ (testState []).irq.nmiPending = false ∧
      (testState []).triggerIRQ.irq.irqCount ≠ 0 ∧ (testState []).triggerNMI.irq.nmiCount ≠ 0 ∧
      (testState []).triggerNMI.irq.nmiPending = true := by decide

/-- A state whose terminal takes an IRQ, with an NMI pending that is not served yet when `nmi` holds. -/
def testIrqState (nmi : Bool) : State :=
  { testState [] with
    cpu := { (testState []).cpu with p := { (testState []).cpu.p with i := false } }
    irq := ⟨1, 0, nmi, false, .two, .zero, .zero⟩ }

/-- Of TakesIrq, with and without a hijack (R485). -/
theorem test_witness_TakesIrq :
    ([false, true].all (fun b => (testIrqState b).ready && (testIrqState b).sq.seq == .boundary &&
      (testIrqState b).decided == some .irq && (testIrqState b).mayUse statusSources && (testIrqState b).pollable)) = true := by decide

theorem test_witness_TakesNmi :
    (let s := { testState [] with irq := ⟨0, 1, true, false, .zero, .two, .zero⟩ }
     s.ready && s.sq.seq == .boundary && s.decided == some .nmi && s.mayUse statusSources) = true := by decide

theorem test_witness_TakesReset :
    (State.reset.ready && State.reset.sq.seq == .boundary && State.reset.decided == some .rst) = true := by decide

theorem test_witness_InterruptReturnRestores :
    let s := testIrqState false
    Memory.wf s.mem = true ∧ s.ready = true ∧ s.quietFor 15 = true ∧ s.sq.seq = .boundary ∧ s.decided = some .irq ∧
      ∃ t, step s = .next t ∧ nextHas (exec .rti t) (fun _ => true) = true :=
  ⟨by decide, by decide, by decide, rfl, by decide, exists_next (by decide)⟩

/-- Of UnwrittenRegisters, its first clause: ADC with nothing written, and with all but D. -/
theorem test_witness_UnwrittenRegisters_exec :
    ((testWritten false []).ready && (usesOf (.adcImm 0)).any (fun r => !(testWritten false []).mayUse [r])) = true ∧
      (let s := { testWritten true [] with cpu := { (testWritten true []).cpu with
         written := { (testWritten true []).cpu.written with d := false } } }
       s.ready && !s.mayUse [.d] && (usesOf (.adcImm 0)).contains .d && stopsUnwritten (exec (.adcImm 0) s)) = true := by decide

/-- Of UnwrittenRegisters, its second clause: an IRQ source is active at a terminal that polls an unwritten I, or IPREV with an
unwritten one. -/
theorem test_witness_UnwrittenRegisters_poll :
    ([false, true].all (fun b =>
      let s := { testWritten b [] with
        irq := ⟨1, 0, false, false, .zero, .zero, .zero⟩, sq := { Latches.powerOn with ichg := b } }
      let u := s.clearLogs.phi1
      s.ready && s.sq.seq == .boundary && !u.irq.rstPending && !u.irq.nmiPending && decide (0 < u.irq.irqCount) &&
        !u.params.uninitAsDraw && !(if u.params.iFlagDelay && u.sq.ichg then u.sq.iprevKnown else u.cpu.written.i) &&
        stopsUnwritten (step s))) = true := by decide

/-- R386, R476: CLI runs with an unwritten I, which it writes; the poll of the I from before it stops if a source is active. -/
theorem test_cli_unwritten :
    nextHas (exec .cli (testWritten false []))
      (fun t => t.cpu.written.i && t.sq.ichg && !stopsUnwritten (step { t with mem := [(0x0801, 0xA9)] }) &&
        stopsUnwritten (step { t with irq := { t.irq with irqCount := 1 } })) = true := by decide

/-- Of FrameOfSpecialState: a NOP clears ICHG and IPREV at its terminal; one that stalls there does not. -/
theorem test_witness_FrameOfSpecialState :
    [false, true].map (fun hold => nextHas (exec .nop { testState [] with
        busHold := hold, sq := { Latches.powerOn with ichg := true, iprev := true } })
      (fun t => t.bus.isEmpty == hold && t.sq.ichg == hold && t.sq.iprev == hold)) = [true, true] := by decide

/-- Of UnwrittenRegisters, its third clause: an NMI, and an IRQ with I written and 0. -/
theorem test_witness_UnwrittenRegisters_entry :
    (let s := { testWritten false [] with irq := ⟨0, 1, true, false, .zero, .two, .zero⟩ }
     let c := (testWritten false []).cpu
     let q := { testWritten false [] with
       cpu := { c with p := { c.p with i := false }, written := { c.written with i := true } }
       irq := ⟨1, 0, false, false, .two, .zero, .zero⟩ }
     s.ready && s.sq.seq == .boundary && s.decided == some .nmi && !s.mayUse [.n] &&
      q.ready && q.decided == some .irq && !q.mayUse [.n]) = true := by decide

/-- Of ForcedJump: a jump one tick after the fetch, and one in the step's first tick in the middle of a sequence. -/
theorem test_witness_ForcedJump :
    (let s := { testState [] with agenda := [⟨1, .beforeCpu, .forcedJump 0x0900⟩] }
     s.running && s.linesOk && !s.busHold && nextHas (exec .nop s) (fun t => t.cpu.pc == 0x0900 && t.half == .phi2)) = true ∧
    (let s := { testState [(0x0900, 0xE8)] with
       agenda := [⟨0, .beforeVia1, .forcedJump 0x0900⟩], sq := { Latches.powerOn with seq := .op, ir := 0x20, cyc := 4 } }
     s.running && s.linesOk && !s.busHold && s.plainPages && s.half == .phi1 && s.decided == none && s.pollable &&
      s.plainCode 0x0900 && decodeBytes (s.peek 0x0900) (s.peek 0x0901) (s.peek 0x0902) == .inx &&
      nextHas (step s) (fun t => t.cpu.pc == 0x0901 && t.cpu.x == 1)) = true := by decide

/-- A ready state that may use every register is ready for every instruction. -/
theorem readyFor_of_readable {s : State} (hr : s.ready = true) (h : s.params.uninitAsDraw = true) (i : Instr) :
    s.readyFor i = true := by
  simp [State.readyFor, State.mayUse, hr, h]

/-- Of every statement about one instruction: the state is ready for each, on the bare core and on the drive. -/
theorem test_witness_readyFor (i : Instr) : (testState []).readyFor i = true ∧ (testDrive []).readyFor i = true :=
  ⟨readyFor_of_readable (by decide) rfl i, readyFor_of_readable (by decide) rfl i⟩

/-- The same with R9's default of UNINIT_AS_DRAW, once the registers are written. -/
theorem test_witness_readyFor_written :
    (∀ i ∈ [Instr.adcImm 0, .staIndY 0, .bvc 0, .php, .brk, .cli, .shaAbsY 0], (testWritten true []).readyFor i = true) ∧
      (testWritten false []).readyFor (.ldaImm 0) = true ∧ (testWritten false []).readyFor .tax = false := by decide

theorem test_witness_CycleCounts : (Instr.ldaAbsX 0x20FF).mode ≠ .rel := by decide

theorem test_witness_Loads :
    ∀ i ∈ [Instr.ldaImm 0, .ldxZpY 0xFF, .ldyAbsX 0xFFFF, .laxIndY 0xFF], i.mnem ∈ [Mnem.lda, .ldx, .ldy, .lax] := by decide

theorem test_witness_Stores :
    ∀ i ∈ [Instr.staAbsX 0xFFFF, .stxZp 0, .styZpX 0xFF, .saxIndX 0xFF], i.mnem ∈ [Mnem.sta, .stx, .sty, .sax] := by decide

theorem test_witness_Transfers :
    ∀ i ∈ [Instr.tax, .tay, .txa, .tya, .tsx, .txs], i.mnem ∈ [Mnem.tax, .tay, .txa, .tya, .tsx, .txs] := by decide

theorem test_witness_AddSubtract :
    ∀ i ∈ [Instr.adcImm 0xFF, .sbcAbs 0, .usbcImm 0], i.mnem ∈ [Mnem.adc, .sbc, .usbc] := by decide

theorem test_witness_Logic :
    ∀ i ∈ [Instr.andImm 0xFF, .oraZp 0, .eorIndY 0xFF], i.mnem ∈ [Mnem.and, .ora, .eor] := by decide

/-- The boundary of the carry: a register compared with its own value. -/
theorem test_witness_Compares :
    (∀ i ∈ [Instr.cmpImm 0, .cpxZp 0, .cpyAbs 0], i.mnem ∈ [Mnem.cmp, .cpx, .cpy]) ∧
      nextHas (exec (.cmpImm 0) (testState [])) (fun t => t.cpu.p.c && t.cpu.p.z) = true := by decide

theorem test_witness_BitTest : (Instr.bitZp 0xFF).mnem = .bit := by decide

theorem test_witness_MemoryModify :
    ∀ i ∈ [Instr.aslZp 0, .lsrAbs 0, .rolAbsX 0xFFFF, .rorZpX 0xFF, .incZp 0, .decAbs 0],
      i.row.cls = .rmw ∧ i.mnem ∈ [Mnem.asl, .lsr, .rol, .ror, .inc, .dec] := by decide

theorem test_witness_RegisterModify :
    (∀ i ∈ [Instr.aslA, .lsrA, .rolA, .rorA], i.mode = .acc) ∧
      ∀ i ∈ [Instr.inx, .iny, .dex, .dey], i.mnem ∈ [Mnem.inx, .iny, .dex, .dey] := by decide

/-- A branch not taken, one within the page and one that leaves it: 2, 3 and 4 ticks. -/
theorem test_witness_Branches :
    (Instr.bne 0).mode = .rel ∧ (testState []).branchTicks (.bne 0) false = 2 ∧
      (testState []).branchTicks (.bne 0x7F) true = 3 ∧ (testState []).branchTicks (.bne 0xFD) true = 4 := by decide

theorem test_witness_Jumps :
    (testState []).ready = true ∧ (testState []).isStored 0x30FF = true ∧ (testDrive []).isStored 0x1800 = false ∧
      (testMap []).ready = true ∧ (testMap []).isStored 0xC000 = true ∧ (testMap []).isStored 0x2FFF = false := by decide

theorem test_witness_CallThenReturn :
    Memory.wf (testState []).mem = true ∧ (testState []).ready = true ∧ (testState []).quietFor 14 = true ∧ ∃ t, exec (.jsr 0xC000) (testState []) = .next t ∧ true = true :=
  ⟨by decide, by decide, by decide, exists_next (check := fun _ => true) (by decide)⟩

/-- Of Subroutines, Break, ReturnFromInterrupt and PushesAndPulls: S at the ends of its range. -/
theorem test_witness_Stack :
    ∀ v ∈ [0x00, 0xFF], State.ready { testState [] with cpu := { (testState []).cpu with s := v } } = true := by decide

theorem test_witness_FlagInstructions :
    (∀ i ∈ [Instr.clc, .sec, .cli, .sei, .cld, .sed], i.mnem ∈ [Mnem.clc, .sec, .cli, .sei, .cld, .sed]) ∧
      Instr.clv.mnem = .clv := by decide

/-- Of InterruptPollDelay: after CLI the poll still sees I = 1, after NOP it sees the I that stands. -/
theorem test_witness_InterruptPollDelay :
    nextHas (exec .cli (testState [])) (fun t => t.polledI && !t.cpu.p.i) = true ∧
      nextHas (exec .nop (testState [])) (fun t => t.polledI == t.cpu.p.i) = true := by decide

theorem test_witness_NoOperationsAndJam :
    (∀ i ∈ [Instr.nop, .nopZp04 0, .nopAbsX1C 0xFFFF], i.mnem = .nop) ∧ Instr.jam02.mnem = .jam := by decide

theorem test_witness_ShiftThenLogic :
    ∀ i ∈ [Instr.sloZp 0, .rlaAbs 0, .sreIndY 0xFF], i.mnem ∈ [Mnem.slo, .rla, .sre] := by decide

theorem test_witness_ModifyThenArithmetic :
    (Instr.rraZp 0).mnem = .rra ∧ (Instr.isbZp 0).mnem = .isb ∧ (Instr.dcpZp 0).mnem = .dcp := by decide

theorem test_witness_UnofficialReads :
    (Instr.lasAbsY 0).mnem = .las ∧ (Instr.ancImm0B 0).mnem = .anc ∧ (Instr.alrImm 0).mnem = .alr ∧
      (Instr.arrImm 0).mnem = .arr ∧ (Instr.sbxImm 0).mnem = .sbx ∧ (Instr.lxaImm 0).mnem = .lxa ∧
      (Instr.aneImm 0).mnem = .ane := by decide

/-- Of MaskedStores: one that crosses a page and one that does not. -/
theorem test_witness_MaskedStores :
    let s : State := { testState [] with cpu := { (testState []).cpu with x := 1, y := 1 } }
    (∀ i ∈ [Instr.shaAbsY 0, .shsAbsY 0, .shxAbsY 0, .shyAbsX 0], i.mnem ∈ [Mnem.sha, .shs, .shx, .shy]) ∧
      s.pageCross (.shxAbsY 0x40FF) = true ∧ s.pageCross (.shxAbsY 0x40FE) = false := by decide

/-- Of StalledMaskedStores: SHX at its store, the dummy read stalled or not, and SHA (zp),Y, whose store is a cycle later. -/
theorem test_witness_StalledMaskedStores :
    ([((0x9E : Byte), 5, true), (0x9E, 5, false), (0x93, 6, true)].all (fun d =>
      let s := { testState [] with
        sq := { Latches.powerOn with seq := .op, ir := d.1, cyc := d.2.1, shstall := d.2.2 }
        params := { (testState []).params with shRdyQuirk := true } }
      let i := decodeBytes s.sq.ir 0 0
      s.running && s.linesOk && s.quietFor 0 && s.sq.seq == .op && [Mnem.sha, .shs, .shx, .shy].contains i.mnem &&
        s.sq.cyc == accessCycle i.mode true && s.mayUse (mnemSources i.mnem))) = true := by decide

/-- Of the frames: an instruction that answers a next state, writes none of the registers and stores to no address but one. -/
theorem test_witness_Frames :
    (∃ t, exec (.staZp 0x10) (testState []) = .next t ∧ true = true) ∧ writesA (.staZp 0x10) = false ∧
      writesX (.staZp 0x10) = false ∧ writesY (.staZp 0x10) = false ∧ writesS (.staZp 0x10) = false ∧
      writesNZ (.staZp 0x10) = false ∧ writesC (.staZp 0x10) = false ∧ writesV (.staZp 0x10) = false ∧
      writesD (.staZp 0x10) = false ∧ writesI (.staZp 0x10) = false ∧ (0x11 : Word) ∉ (testState []).storeAddrs (.staZp 0x10) ∧
      (testState []).plainPages = true ∧ (testMap []).plainPages = true :=
  ⟨exists_next (check := fun _ => true) (by decide), by decide⟩

theorem test_witness_FrameOfDeviceRegisters :
    (testDrive []).agenda = [] ∧ ∃ t, exec .nop (testDrive []) = .next t ∧
      t.bus.all (fun b => match b with | .write _ _ => false | .read _ _ => true) = true :=
  ⟨rfl, exists_next (by decide)⟩

theorem test_witness_BareCoreHasNoDevices :
    (testState []).params.platform = .core ∧ (testState []).agenda = [] ∧
      (testState []).params.regions.all (fun r => r.kind != .unmapped) = true ∧ ∃ t, step (testState []) = .next t ∧ true = true :=
  ⟨rfl, rfl, by decide, exists_next (check := fun _ => true) (by decide)⟩

/-- Of MemoryEnvironment: RAM, ROM and nothing at the edges of the two regions of a map, an address in none, the VIAs' windows, a
map without a region, and memory in canonical form. -/
theorem test_witness_MemoryEnvironment :
    [0x1FFF, 0x2000, 0x2FFF, 0x3000, 0xBFFF, 0xC000].map (testMap []).regionAt = [.ram, .unmapped, .unmapped, .ram, .ram, .rom] ∧
      [0x17FF, 0x1800, 0x1BFF, 0x1C00, 0x1FFF, 0x2000].map (testDrive []).deviceAt =
        [none, some .via1, some .via1, some .via2, some .via2, none] ∧
      (testState []).params.regions = [] ∧ (testState []).deviceAt 0x1800 = none ∧
      Memory.wf (testMap [(3, 7), (5, 1)]).mem = true ∧ (testMap [(3, 7), (5, 1)]).isRam 3 = true := by decide

/-- Of ShiftHelpers: the carry may be used, by UNINIT_AS_DRAW or because it has been written. -/
theorem test_witness_ShiftHelpers :
    (testState []).mayUse [.c] = true ∧ (testWritten true []).mayUse [.c] = true ∧ (testWritten false []).mayUse [.c] = false := by
  decide

/-- Of DecimalArithmetic: both ends of valid BCD, and a byte that is not. -/
theorem test_witness_DecimalArithmetic :
    validBcd 0x00 = true ∧ validBcd 0x99 = true ∧ decimal 0x99 = 99 ∧ validBcd 0x0A = false ∧ (adcDec 0x0A 0 false).value = 0x10 := by
  decide

theorem test_witness_ViaRegistersAndInterrupt :
    State.linesOk { testDrive [] with via1 := { Via.powerOn with ifr := 0x40, ier := 0x40 } } = true := by decide

/-- Of TimerATiming: latch $0002, armed and about to load, in free-running and in one-shot mode. -/
theorem test_witness_TimerATiming :
    ([0x40, 0x00].all (fun acr =>
      let v : Via := { Via.powerOn with t1load := true, t1armed := true, t1ll := 2, acr := acr }
      v.t1load && v.t1armed && !v.ifr.getLsbD 6 && (joinBytes v.t1lh v.t1ll).toNat == 2 &&
        v.acr.getLsbD 6 == (acr == 0x40))) = true ∧
      Via.powerOn.acr.getLsbD 6 = false ∧ Via.powerOn.t1armed = false := by decide

/-- Of TimerBTiming: the same, after the time-out, and in pulse-counting mode. -/
theorem test_witness_TimerBTiming :
    (let v : Via := { Via.powerOn with t2load := true, t2armed := true, t2ll := 2 }
     v.t2load && v.t2armed && !v.ifr.getLsbD 5 && !v.acr.getLsbD 5 && (joinBytes v.t2lh v.t2ll).toNat == 2) = true ∧
      Via.powerOn.acr.getLsbD 5 = false ∧ Via.powerOn.t2load = false ∧ Via.powerOn.t2armed = false ∧
      (0x20 : Byte).getLsbD 5 = true := by decide

theorem test_witness_SectorRoundTrip : (List.replicate 256 (0 : Byte)).length = 256 ∧ ((27 : Nat) = 0 ∨ (27 : Nat) = 27) :=
  ⟨List.length_replicate, .inr rfl⟩

theorem test_witness_ClockRecovery :
    let s : State := { State.reset with disk := ⟨[⟨33, [0, 0]⟩], 0, true, false, [], []⟩ }
    s.params.noiseEnabled = false ∧ s.rot.writing = false ∧ s.rot.zc = 0 ∧ s.rot.bitCounter = 0 ∧
      ∀ t ∈ s.disk.tracks, ∀ b ∈ t.bytes, b = 0 := by decide

end Sys2Proof.Machine
end

namespace Sys2Proof.Machine

/-! ### What a micro-op keeps when its acts keep it -/

theorem MicroOp.perform_read (addr : Word) (act : Byte → State → State) (f : Feed) (s : State) :
    (MicroOp.read addr act).perform f s = (s.busRead addr).2.unlessStopped (act (s.busRead addr).1) := rfl

theorem MicroOp.perform_fetch (slot : Slot) (act : Byte → State → State) (f : Feed) (s : State) :
    (MicroOp.fetch slot act).perform f s = (s.busRead s.cpu.pc).2.unlessStopped (fun t =>
      act (f.pick slot (s.busRead s.cpu.pc).1) (t.incPC.keepOperand slot (f.pick slot (s.busRead s.cpu.pc).1))) := rfl

theorem MicroOp.perform_write (pre : State → State) (addr : State → Word) (value : State → Byte) (post : State → State)
    (f : Feed) (s : State) :
    (MicroOp.write pre addr value post).perform f s =
      (pre s).unlessStopped (fun t => (t.busWrite (addr t) (value t)).unlessStopped post) := rfl

/-- Every act of a micro-op, its bus access apart, goes from a state to one that `R` relates to it. -/
def MicroOp.Acts (R : State → State → Prop) : MicroOp → Prop
  | .read _ act => ∀ d s, R s (act d s)
  | .fetch _ act => ∀ d s, R s (act d s)
  | .write pre _ _ post => (∀ s, R s (pre s)) ∧ ∀ s, R s (post s)

/-- A transitive relation on states that holds across every bus access. -/
structure BusClosed (R : State → State → Prop) : Prop where
  trans : ∀ {s t u}, R s t → R t u → R s u
  read : ∀ s a, R s (s.busRead a).2
  write : ∀ s a v, R s (s.busWrite a v)

/-- Such a relation holds across a micro-op when it holds across its acts and across the fetch of an operand byte. -/
theorem MicroOp.perform_keeps {R : State → State → Prop} (hR : BusClosed R) {m : MicroOp} (h : m.Acts R)
    (hfetch : ∀ slot act, m = .fetch slot act → ∀ s v, R s (s.incPC.keepOperand slot v)) (f : Feed) (s : State) :
    R s (m.perform f s) := by
  cases m with
  | read addr act =>
    rw [MicroOp.perform_read]
    exact State.unlessStopped_keeps (hR.read s addr) (hR.trans (hR.read s addr) (h _ _))
  | fetch slot act =>
    rw [MicroOp.perform_fetch]
    have hread := hR.read s s.cpu.pc
    exact State.unlessStopped_keeps hread (hR.trans (hR.trans hread (hfetch slot act rfl _ _)) (h _ _))
  | write pre addr value post =>
    rw [MicroOp.perform_write]
    obtain ⟨hpre, hpost⟩ := h
    have hwrite := hR.trans (hpre s) (hR.write (pre s) (addr (pre s)) (value (pre s)))
    exact State.unlessStopped_keeps (hpre s) (State.unlessStopped_keeps (P := R s) hwrite (hR.trans hwrite (hpost _)))

/-! ### The arguments, the time, the `written` bits and the log of the bus -/

/-- `t` comes after `s`: no argument of the model has changed, time has not gone back, no `written` bit is cleared (R46), and the
bus accesses of `s` are still logged. -/
structure Onward (s t : State) : Prop where
  params : t.params = s.params
  tick : s.tick ≤ t.tick
  written : WrittenKept s t
  bus : s.bus <+: t.bus

theorem Onward.refl (s : State) : Onward s s := ⟨rfl, Nat.le_refl _, WrittenKept.refl s, List.prefix_rfl⟩

theorem Onward.trans {s t u : State} (h : Onward s t) (g : Onward t u) : Onward s u :=
  ⟨g.params.trans h.params, h.tick.trans g.tick, h.written.trans g.written, h.bus.trans g.bus⟩

theorem Outside.onward {s t : State} (h : Outside s t) : Onward s t :=
  ⟨h.params, Nat.le_of_eq h.tick.symm, h.written, by rw [h.bus]⟩

theorem Onward.endTick (s : State) (f : Lat → Lat) : Onward s (s.endTick f) :=
  ⟨rfl, Nat.le_succ _, WrittenKept.refl s, List.prefix_rfl⟩

/-- A change of latches and interrupt requests, of S and PC, leaves all that alone. -/
theorem Onward.of_eq {s t : State} (hp : t.params = s.params) (ht : t.tick = s.tick)
    (hw : t.cpu.written = s.cpu.written) (hb : t.bus = s.bus) : Onward s t :=
  ⟨hp, Nat.le_of_eq ht.symm, WrittenKept.of_cpu hw, by rw [hb]⟩

theorem Onward.busClosed : BusClosed Onward where
  trans := Onward.trans
  read s a := by
    obtain ⟨t, ht, hd, -⟩ := s.busRead_dev a
    rw [ht]
    exact hd.outside.onward.trans ⟨rfl, Nat.le_refl _, WrittenKept.refl t, List.prefix_append _ _⟩
  write s a v := by
    obtain ⟨t, ht, hd⟩ := s.busWrite_dev a v
    have hst : Onward s t := by
      rcases hd with ⟨-, hd⟩ | ⟨-, hd⟩
      · rw [hd]; exact Onward.of_eq rfl rfl rfl rfl
      · exact hd.outside.onward
    rw [ht]
    exact hst.trans ⟨rfl, Nat.le_refl _, WrittenKept.refl t, List.prefix_append _ _⟩

/-! ### What a sequence keeps besides -/

/-- `t` comes after `s` in a sequence: the opcode is the same, the sequence is the same or has ended, and the cycle has not gone
back. VEC and BRKB are as they were unless `v`, ICHG and IPREV unless `i`. -/
structure Ran (v i : Bool) (s t : State) : Prop extends Onward s t where
  ir : t.sq.ir = s.sq.ir
  seq : t.sq.seq = s.sq.seq ∨ t.sq.seq = .boundary
  cyc : s.sq.cyc ≤ t.sq.cyc
  vec : v = false → t.sq.vec = s.sq.vec ∧ t.sq.brkb = s.sq.brkb
  ichg : i = false → t.sq.ichg = s.sq.ichg ∧ t.sq.iprev = s.sq.iprev

/-- Besides, the operand bytes that have been fetched are the same: true of the acts of a micro-op, the fetch apart. -/
structure Acted (v i : Bool) (s t : State) : Prop extends Ran v i s t where
  op1 : t.sq.op1 = s.sq.op1
  op2 : t.sq.op2 = s.sq.op2

theorem Ran.trans {v i : Bool} {s t u : State} (h : Ran v i s t) (g : Ran v i t u) : Ran v i s u where
  toOnward := h.toOnward.trans g.toOnward
  ir := g.ir.trans h.ir
  seq := by
    rcases g.seq with hg | hg
    · rw [hg]; exact h.seq
    · exact .inr hg
  cyc := h.cyc.trans g.cyc
  vec hv := ⟨(g.vec hv).1.trans (h.vec hv).1, (g.vec hv).2.trans (h.vec hv).2⟩
  ichg hi := ⟨(g.ichg hi).1.trans (h.ichg hi).1, (g.ichg hi).2.trans (h.ichg hi).2⟩

theorem Acted.trans {v i : Bool} {s t u : State} (h : Acted v i s t) (g : Acted v i t u) : Acted v i s u :=
  ⟨h.toRan.trans g.toRan, g.op1.trans h.op1, g.op2.trans h.op2⟩

/-- Where the latches named are the same, the rest of a change is `Onward`. -/
theorem Onward.ran {v i : Bool} {s t : State} (h : Onward s t) (hsq : t.sq = s.sq) : Ran v i s t :=
  ⟨h, by rw [hsq], .inl (by rw [hsq]), by rw [hsq], fun _ => by rw [hsq]; exact ⟨rfl, rfl⟩,
    fun _ => by rw [hsq]; exact ⟨rfl, rfl⟩⟩

theorem Onward.acted {v i : Bool} {s t : State} (h : Onward s t) (hsq : t.sq = s.sq) : Acted v i s t :=
  ⟨h.ran hsq, by rw [hsq], by rw [hsq]⟩

theorem Acted.refl {v i : Bool} (s : State) : Acted v i s s := (Onward.refl s).acted rfl

theorem OpFrame.acted {v i : Bool} {s t : State} (h : OpFrame s t) : Acted v i s t :=
  Onward.acted ⟨h.params, Nat.le_of_eq h.tick.symm, h.written, by rw [h.bus]⟩ h.sq

theorem Acted.fault {v i : Bool} (s : State) : Acted v i s s.uninitFault :=
  Onward.acted (Onward.of_eq rfl rfl rfl rfl) rfl

theorem Acted.using {v i : Bool} {s : State} {l : List Source} {k : State → State} (h : Acted v i s (k s)) :
    Acted v i s (s.using l k) := State.using_keeps (P := Acted v i s) h (Acted.fault s)

/-- Registers without a `written` bit and the latches of the address cycles may change, the cycle go on and the sequence end. -/
theorem Acted.latches {v i : Bool} {s t : State} (h : Onward s t)
    (hsq : t.sq = { s.sq with
      seq := t.sq.seq, cyc := t.sq.cyc, ea := t.sq.ea, ptr := t.sq.ptr, data := t.sq.data, bah := t.sq.bah
      cross := t.sq.cross, off := t.sq.off, lo := t.sq.lo })
    (hs : t.sq.seq = s.sq.seq ∨ t.sq.seq = .boundary) (hc : s.sq.cyc ≤ t.sq.cyc) : Acted v i s t := by
  refine ⟨⟨h, ?_, hs, hc, fun _ => ?_, fun _ => ?_⟩, ?_, ?_⟩ <;> rw [hsq]
  · exact ⟨rfl, rfl⟩
  · exact ⟨rfl, rfl⟩

theorem Acted.nextCycle {v i : Bool} (s : State) : Acted v i s s.nextCycle :=
  Acted.latches (Onward.of_eq rfl rfl rfl rfl) rfl (.inl rfl) (Nat.le_succ _)

theorem Acted.finish {v i : Bool} (s : State) : Acted v i s s.finish :=
  Acted.latches (Onward.of_eq rfl rfl rfl rfl) rfl (.inr rfl) (Nat.le_refl _)

/-- A change within one cycle of registers without a `written` bit and of the address latches. -/
theorem Acted.within {v i : Bool} {s t : State} (hp : t.params = s.params) (ht : t.tick = s.tick)
    (hw : t.cpu.written = s.cpu.written) (hb : t.bus = s.bus)
    (hsq : t.sq = { s.sq with
      ea := t.sq.ea, ptr := t.sq.ptr, data := t.sq.data, bah := t.sq.bah, cross := t.sq.cross, off := t.sq.off
      lo := t.sq.lo }) : Acted v i s t :=
  Acted.latches (Onward.of_eq hp ht hw hb) (by rw [hsq]) (.inl (by rw [hsq])) (by rw [hsq])

theorem Acted.setEA {v i : Bool} (s : State) (w : Word) : Acted v i s (s.setEA w) := Acted.within rfl rfl rfl rfl rfl

theorem Acted.setPTR {v i : Bool} (s : State) (b : Byte) : Acted v i s (s.setPTR b) := Acted.within rfl rfl rfl rfl rfl

theorem Acted.setDATA {v i : Bool} (s : State) (b : Byte) : Acted v i s (s.setDATA b) := Acted.within rfl rfl rfl rfl rfl

theorem Acted.setLo {v i : Bool} (s : State) (b : Byte) : Acted v i s (s.setLo b) := Acted.within rfl rfl rfl rfl rfl

theorem Acted.setPC {v i : Bool} (s : State) (w : Word) : Acted v i s (s.setPC w) := Acted.within rfl rfl rfl rfl rfl

theorem Acted.incS {v i : Bool} (s : State) : Acted v i s s.incS := Acted.within rfl rfl rfl rfl rfl

theorem Acted.decS {v i : Bool} (s : State) : Acted v i s s.decS := Acted.within rfl rfl rfl rfl rfl

theorem Acted.incPC {v i : Bool} (s : State) : Acted v i s s.incPC := Acted.within rfl rfl rfl rfl rfl

theorem Acted.latchIndexed {v i : Bool} (s : State) (w : Word) (b : Byte) : Acted v i s (s.latchIndexed w b) :=
  Acted.within rfl rfl rfl rfl rfl

/-- The same, and the cycle goes on. -/
theorem Acted.next {v i : Bool} {s t : State} (h : Acted v i s t) : Acted v i s t.nextCycle := h.trans (Acted.nextCycle t)

/-- The same, and the sequence ends. -/
theorem Acted.ends {v i : Bool} {s t : State} (h : Acted v i s t) : Acted v i s t.finish := h.trans (Acted.finish t)

theorem Acted.fixEA {v i : Bool} (s : State) : Acted v i s s.fixEA := by
  unfold State.fixEA
  split
  · exact Acted.within rfl rfl rfl rfl rfl
  · exact Acted.refl s

/-! ### The cycles of the sequences -/

theorem addressCycle_acts {v i : Bool} (m : Mode) (s : State) (c : Nat) : (addressCycle m s c).Acts (Acted v i) := by
  unfold addressCycle
  split
  case h_1 | h_11 | h_16 => exact fun _ t => (Acted.setEA t _).next
  case h_2 | h_3 | h_4 | h_5 => exact fun _ t => (Acted.setPTR t _).next
  case h_6 | h_7 => exact fun _ t => Acted.using (Acted.setEA t _).next
  case h_8 | h_9 | h_10 | h_15 | h_17 => exact fun _ t => (Acted.setLo t _).next
  case h_12 | h_13 | h_18 => exact fun _ t => Acted.using (Acted.latchIndexed t _ _).next
  case h_14 => exact fun _ t => Acted.using (Acted.setPTR t _).next
  case h_19 => exact fun _ t => (Acted.fixEA t).next

theorem readCycle_acts {v i : Bool} {rd : Byte → State → State} (h : ∀ d s, Acted v i s (rd d s)) (m : Mode) (s : State)
    (c : Nat) : (readCycle m rd s c).Acts (Acted v i) := by
  have hop : ∀ d t, Acted v i t (rd d (t.setDATA d)).finish := fun d t => ((Acted.setDATA t d).trans (h d _)).ends
  unfold readCycle
  split
  · exact hop
  · split
    · exact addressCycle_acts m s c
    · split
      · exact fun d t => ((Acted.setDATA t d).trans (Acted.fixEA _)).next
      · exact hop

theorem writeCycle_acts {v i : Bool} (m : Mode) (l : List Source) (value : State → Byte) (s : State) (c : Nat) :
    (writeCycle m l value s c).Acts (Acted v i) := by
  unfold writeCycle
  split
  · exact addressCycle_acts m s c
  · exact ⟨fun t => Acted.using (Acted.refl t), Acted.finish⟩

theorem rmwCycle_acts {v i : Bool} {f : Byte → State → Byte × State} (h : ∀ d s, Acted v i s (f d s).2) (m : Mode)
    (s : State) (c : Nat) : (rmwCycle m f s c).Acts (Acted v i) := by
  unfold rmwCycle
  split
  · exact addressCycle_acts m s c
  · split
    · exact fun d t => (Acted.setDATA t d).next
    · split
      · exact ⟨Acted.refl, fun t => ((h _ t).trans (Acted.setDATA _ _)).next⟩
      · exact ⟨Acted.refl, Acted.finish⟩

theorem shCycle_acts {v i : Bool} {prep : State → State} (h : ∀ s, Acted v i s (prep s)) (m : Mode) (src : State → Byte)
    (s : State) (c : Nat) : (shCycle m prep src s c).Acts (Acted v i) := by
  unfold shCycle
  split
  · exact addressCycle_acts m s c
  · exact ⟨h, Acted.finish⟩

theorem branchCycle_acts {v i : Bool} {cond : State → Bool × State} (h : ∀ s, Acted v i s (cond s).2) (s : State)
    (c : Nat) : (branchCycle cond s c).Acts (Acted v i) := by
  unfold branchCycle
  split
  · intro d t
    have hoff : Acted v i t { t with sq := { t.sq with off := d } } := Acted.within rfl rfl rfl rfl rfl
    dsimp only
    split
    · exact (hoff.trans (h _)).next
    · exact (hoff.trans (h _)).ends
  · intro d t
    have htarget : Acted v i t { t with sq := { t.sq with
        ea := t.cpu.pc + sext16 t.sq.off, cross := hi (t.cpu.pc + sext16 t.sq.off) != hi t.cpu.pc } } :=
      Acted.within rfl rfl rfl rfl rfl
    dsimp only [MicroOp.discard]
    split
    · exact (htarget.trans (Acted.setPC _ _)).next
    · exact (htarget.trans (Acted.setPC _ _)).ends
  · exact fun _ t => (Acted.setPC t _).ends

/-- A push that goes on to `post` (R33). -/
theorem MicroOp.push_acts {v i : Bool} {pre post : State → State} (value : State → Byte) (hpre : ∀ s, Acted v i s (pre s))
    (hpost : ∀ s, Acted v i s (post s)) : (MicroOp.push pre value post).Acts (Acted v i) :=
  ⟨hpre, fun t => (Acted.decS t).trans (hpost _)⟩

theorem pushCycle_acts {v i : Bool} {pre : State → State} (h : ∀ s, Acted v i s (pre s)) (value : State → Byte)
    (s : State) (c : Nat) : (pushCycle pre value s c).Acts (Acted v i) := by
  unfold pushCycle
  split
  · exact fun _ t => Acted.nextCycle t
  · exact MicroOp.push_acts value h Acted.finish

theorem pullCycle_acts {v i : Bool} {act : Byte → State → State} (h : ∀ d s, Acted v i s (act d s)) (s : State)
    (c : Nat) : (pullCycle act s c).Acts (Acted v i) := by
  unfold pullCycle
  split
  · exact fun _ t => Acted.nextCycle t
  · exact fun _ t => (Acted.incS t).next
  · exact fun d t => (h d t).ends

theorem jmpAbsCycle_acts {v i : Bool} (s : State) (c : Nat) : (jmpAbsCycle s c).Acts (Acted v i) := by
  unfold jmpAbsCycle
  split
  · exact fun d t => (Acted.setLo t d).next
  · exact fun _ t => (Acted.setPC t _).ends

theorem jmpIndCycle_acts {v i : Bool} (s : State) (c : Nat) : (jmpIndCycle s c).Acts (Acted v i) := by
  unfold jmpIndCycle
  split
  · exact fun d t => (Acted.setLo t d).next
  · exact fun _ t => (Acted.setEA t _).next
  · exact fun d t => (Acted.setDATA t d).next
  · exact fun _ t => (Acted.setPC t _).ends

theorem jsrCycle_acts {v i : Bool} (s : State) (c : Nat) : (jsrCycle s c).Acts (Acted v i) := by
  unfold jsrCycle
  split
  · exact fun d t => (Acted.setLo t d).next
  · exact fun _ t => Acted.nextCycle t
  · exact MicroOp.push_acts _ Acted.refl Acted.nextCycle
  · exact MicroOp.push_acts _ Acted.refl Acted.nextCycle
  · exact fun _ t => (Acted.setPC t _).ends

theorem rtsCycle_acts {v i : Bool} (s : State) (c : Nat) : (rtsCycle s c).Acts (Acted v i) := by
  unfold rtsCycle
  split
  · exact fun _ t => Acted.nextCycle t
  · exact fun _ t => (Acted.incS t).next
  · exact fun d t => ((Acted.setLo t d).trans (Acted.incS _)).next
  · exact fun _ t => (Acted.setPC t _).next
  · exact fun _ t => (Acted.incPC t).ends

theorem OpFrame.setN (s : State) (b : Bool) : OpFrame s (s.setN b) := OpFrame.cpu s (s.setN b).cpu rfl (State.setN_written s b)

theorem OpFrame.setUB (s : State) (u b : Bool) : OpFrame s (s.setUB u b) :=
  OpFrame.cpu s (s.setUB u b).cpu rfl (WrittenKept.refl s)

theorem OpFrame.setD (s : State) (b : Bool) : OpFrame s (s.setD b) := OpFrame.cpu s (s.setD b).cpu rfl (State.setD_written s b)

theorem OpFrame.setI (s : State) (b : Bool) : OpFrame s (s.setI b) := OpFrame.cpu s (s.setI b).cpu rfl (State.setI_written s b)

theorem OpFrame.setZ (s : State) (b : Bool) : OpFrame s (s.setZ b) := OpFrame.cpu s (s.setZ b).cpu rfl (State.setZ_written s b)

theorem OpFrame.unpack (s : State) (d : Byte) : OpFrame s (s.unpack d) :=
  (((((OpFrame.setN s _).trans (OpFrame.writeV _ _)).trans (OpFrame.setUB _ _ _)).trans (OpFrame.setD _ _)).trans
    (OpFrame.setI _ _)).trans ((OpFrame.setZ _ _).trans (OpFrame.setC _ _))

theorem returnFromInterrupt_acts {v i : Bool} (s : State) (c : Nat) : (returnFromInterrupt s c).Acts (Acted v i) := by
  unfold returnFromInterrupt
  split
  · exact fun _ t => Acted.nextCycle t
  · exact fun _ t => (Acted.incS t).next
  · exact fun d t => ((OpFrame.unpack t d).acted.trans (Acted.incS _)).next
  · exact fun d t => ((Acted.setLo t d).trans (Acted.incS _)).next
  · exact fun _ t => (Acted.setPC t _).ends

/-- A change of VEC and BRKB within one cycle. -/
theorem Acted.vector {i : Bool} {s t : State} (h : Onward s t)
    (hsq : t.sq = { s.sq with vec := t.sq.vec, brkb := t.sq.brkb }) : Acted true i s t :=
  ⟨⟨h, by rw [hsq], .inl (by rw [hsq]), by rw [hsq], fun hv => absurd hv (by decide),
    fun _ => by rw [hsq]; exact ⟨rfl, rfl⟩⟩, by rw [hsq], by rw [hsq]⟩

theorem Acted.selectVector {i : Bool} (s : State) : Acted true i s s.selectVector := by
  unfold State.selectVector
  split
  · exact Acted.vector (Onward.of_eq rfl rfl rfl rfl) rfl
  · exact Acted.refl s

theorem Acted.packAccess {v i : Bool} (s : State) : Acted v i s s.packAccess :=
  (Dev.onVAccess s).opFrame.acted.trans (Acted.using (Acted.refl _))

theorem vectorCycle_acts {i : Bool} (vec : Word) (c : Nat) : (vectorCycle vec c).Acts (Acted true i) := by
  unfold vectorCycle
  split
  · exact fun d t => ((Acted.setDATA t d).trans (OpFrame.setI _ true).acted).next
  · intro d t
    have hvec : Acted true i t { t.setPC (joinBytes d t.sq.data) with sq := { t.sq with brkb := false } } :=
      Acted.vector (Onward.of_eq rfl rfl rfl rfl) rfl
    exact hvec.ends

theorem takeInterrupt_acts {i : Bool} (hijackable : Bool) (s : State) (c : Nat) :
    (takeInterrupt hijackable s c).Acts (Acted true i) := by
  unfold takeInterrupt
  split
  · exact MicroOp.push_acts _ Acted.refl Acted.nextCycle
  · refine MicroOp.push_acts _ Acted.refl fun t => ?_
    cases hijackable
    · exact Acted.nextCycle t
    · exact (Acted.selectVector t).next
  · exact MicroOp.push_acts _ Acted.packAccess Acted.nextCycle
  · exact vectorCycle_acts _ _

theorem brkCycle_acts {i : Bool} (s : State) (c : Nat) : (brkCycle s c).Acts (Acted true i) := by
  unfold brkCycle
  split
  · intro _ t
    have hvec : Acted true i t { t.incPC with sq := { t.sq with brkb := true, vec := 0xFFFE } } :=
      Acted.vector (Onward.of_eq rfl rfl rfl rfl) rfl
    exact hvec.next
  · exact takeInterrupt_acts true s _

theorem takeReset_acts {i : Bool} (s : State) (c : Nat) : (takeReset s c).Acts (Acted true i) := by
  unfold takeReset
  split
  · exact fun _ t => (Acted.decS t).next
  · exact fun _ t => (Acted.decS t).next
  · exact fun _ t => (Acted.decS t).next
  · exact vectorCycle_acts _ _

theorem entryCycle_acts {i : Bool} (k : Entry) (s : State) (c : Nat) : (entryCycle k s c).Acts (Acted true i) := by
  unfold entryCycle
  split
  · exact fun _ t => Acted.nextCycle t
  · cases k
    · exact takeReset_acts s _
    · exact takeInterrupt_acts false s _
    · exact takeInterrupt_acts true s _

end Sys2Proof.Machine

namespace Sys2Proof.Machine

/-! ### What an operation does whether or not its registers are written (R46) -/

/-- The register or flag `r` may not be used in `s`, and nothing but the CPU can write it: on the drive V can be set meanwhile
(R45, R651). -/
def State.lacks (s : State) (r : Source) : Prop := s.mayUse [r] = false ∧ (r = .v → s.params.platform = .core)

theorem State.lacks_iff {s : State} {r : Source} :
    s.lacks r ↔ (s.params.uninitAsDraw = false ∧ s.cpu.written.has r = false) ∧ (r = .v → s.params.platform = .core) := by
  simp [State.lacks, State.mayUse]

theorem State.lacks.mayUse {s : State} {r : Source} {l : List Source} (h : s.lacks r) (hr : r ∈ l) : s.mayUse l = false := by
  obtain ⟨⟨hd, hw⟩, -⟩ := State.lacks_iff.mp h
  simp only [State.mayUse, hd, Bool.false_or, List.all_eq_false]
  exact ⟨r, hr, by simp [hw]⟩

/-- What `lacks` speaks of: the arguments and the `written` bit. -/
theorem State.lacks.of_eq {s t : State} {r : Source} (h : s.lacks r) (hp : t.params = s.params)
    (hw : t.cpu.written.has r = s.cpu.written.has r) : t.lacks r := by
  rw [State.lacks_iff] at h ⊢
  rwa [hp, hw]

/-- In a sound machine the fault of an unwritten register is the first (R46, R503). -/
theorem State.sound.fault {s : State} (h : s.sound) : s.uninitFault.stopped = some .uninitReg := by
  simp [h.1]

/-- An operation that uses the registers and flags `l`: it changes registers and flags, and ICHG and IPREV where `i` allows it;
and one of `l` that nothing has written stops the sound machine. -/
structure Reads (i : Bool) (l : List Source) (op : State → State) : Prop where
  acted : ∀ u, Acted false i u (op u)
  stops : ∀ r ∈ l, ∀ u : State, u.sound → u.lacks r → (op u).stopped = some .uninitReg

/-- An operation that uses nothing. -/
theorem Reads.of_acted {i : Bool} {op : State → State} (h : ∀ u, Acted false i u (op u)) : Reads i [] op :=
  ⟨h, fun _ hr => absurd hr (List.not_mem_nil)⟩

theorem OpSpec.reads {i : Bool} {op : State → State} (h : OpSpec [] op) : Reads i [] op :=
  Reads.of_acted fun u => (h.frame u u.mayUse_nil).acted

/-- An operation behind the guard of R46. -/
theorem OpSpec.guarded {i : Bool} {l : List Source} {op : State → State} (h : OpSpec l op)
    (hfault : ∀ u, u.mayUse l = false → op u = u.uninitFault) : Reads i l op where
  acted u := by
    cases hu : u.mayUse l with
    | true => exact (h.frame u hu).acted
    | false =>
      rw [hfault u hu]
      exact Acted.fault u
  stops r hr u hs hu := by
    rw [hfault u (hu.mayUse hr)]
    exact hs.fault

/-- The guard of R46 around an operation that uses registers of its own. -/
theorem Reads.using {i : Bool} {l m : List Source} {k : State → State → State} (h : ∀ u, Reads i m (k u)) :
    Reads i (l ++ m) (fun u => u.using l (k u)) where
  acted u := Acted.using ((h u).acted u)
  stops r hr u hs hu := by
    cases hl : u.mayUse l with
    | false => rw [State.using_fault hl]; exact hs.fault
    | true =>
      have hm : r ∉ l := fun hrl => by simp [hu.mayUse hrl] at hl
      rw [State.using_eq hl]
      exact (h u).stops r ((List.mem_append.mp hr).resolve_left hm) u hs hu

/-- An operation that uses `m` uses what is in `m`. -/
theorem Reads.mono {i : Bool} {l m : List Source} {op : State → State} (h : Reads i m op) (hl : ∀ r ∈ l, r ∈ m) :
    Reads i l op := ⟨h.acted, fun r hr => h.stops r (hl r hr)⟩

/-- A shift writes C before the operation that it is combined with. -/
theorem Reads.after_setC {i : Bool} {l : List Source} {op : State → State} (h : Reads i l op) (hc : Source.c ∉ l) (b : Bool) :
    Reads i l (fun u => op (u.setC b)) where
  acted u := (OpFrame.setC u b).acted.trans (h.acted _)
  stops r hr u hs hu := by
    refine h.stops r hr (u.setC b) hs (hu.of_eq rfl ?_)
    cases r <;> first | rfl | exact absurd hr hc

theorem modifySlo_reads {i : Bool} (v : Byte) : Reads i [.a] (fun u => (modifySlo v u).2) :=
  ((readOra_spec (aslByte v).1).guarded fun _ h => State.using_fault h _).after_setC (by decide) (aslByte v).2

theorem modifySre_reads {i : Bool} (v : Byte) : Reads i [.a] (fun u => (modifySre v u).2) :=
  ((readEor_spec (lsrByte v).1).guarded fun _ h => State.using_fault h _).after_setC (by decide) (lsrByte v).2

theorem modifyRla_reads {i : Bool} (v : Byte) : Reads i [.a, .c] (fun u => (modifyRla v u).2) :=
  (Reads.using (l := [.c]) (m := [.a]) (k := fun u s => readAnd (rolByte v u.cpu.p.c).1 (s.setC (rolByte v u.cpu.p.c).2))
    fun _ => ((readAnd_spec _).guarded fun _ h => State.using_fault h _).after_setC (by decide) _).mono (by decide)

theorem modifyRra_reads {i : Bool} (v : Byte) : Reads i [.a, .c, .d] (fun u => (modifyRra v u).2) :=
  (Reads.using (l := [.c]) (m := [.a, .d]) (k := fun u s => readAdc (rorByte v u.cpu.p.c).1 (s.setC (rorByte v u.cpu.p.c).2))
    fun _ => (((readAdc_spec _).guarded fun _ h => State.using_fault h _).mono (by decide)).after_setC (by decide) _).mono
      (by decide)

theorem modifyRol_reads {i : Bool} (v : Byte) : Reads i [.c] (fun u => (modifyRol v u).2) :=
  (modifyRol_spec v).guarded fun _ h => by simp only [modifyRol, rotateWith, State.using_fault h]

theorem modifyRor_reads {i : Bool} (v : Byte) : Reads i [.c] (fun u => (modifyRor v u).2) :=
  (modifyRor_spec v).guarded fun _ h => by simp only [modifyRor, rotateWith, State.using_fault h]

theorem OpFrame.setA (s : State) (b : Byte) : OpFrame s (s.setA b) := OpFrame.cpu s (s.setA b).cpu rfl (State.setA_written s b)

/-- The accumulator form of a shift or rotate uses A besides. -/
theorem onAccumulator_reads {i : Bool} {l : List Source} {f : Byte → State → Byte × State}
    (h : ∀ v, Reads i l (fun u => (f v u).2)) : Reads i (.a :: l) (onAccumulator f) :=
  Reads.using (l := [.a]) (k := fun _ s => (f s.cpu.a s).2.setA (f s.cpu.a s).1) fun _ =>
    { acted := fun u => ((h u.cpu.a).acted u).trans (OpFrame.setA _ _).acted
      stops := fun r hr u hs hu => (h u.cpu.a).stops r hr u hs hu }

/-- CLI, SEI and PLP copy I to IPREV before they change it (R383, R386, R387). -/
theorem Acted.changingI (s : State) {change : State → State} (h : ∀ u, Acted false true u (change u)) :
    Acted false true s (changingI s change) := by
  have hcopy : Acted false true s { s with
      sq := { s.sq with iprev := s.cpu.p.i, iprevKnown := s.cpu.written.i, ichg := true } } :=
    ⟨⟨Onward.of_eq rfl rfl rfl rfl, rfl, .inl rfl, Nat.le_refl _, fun _ => ⟨rfl, rfl⟩, fun hi => absurd hi (by decide)⟩,
      rfl, rfl⟩
  exact hcopy.trans (h _)

/-- The device activity of the V hook lets no unwritten flag be read (R45, R46). -/
theorem State.lacks.dev {s t : State} {r : Source} (h : s.lacks r) (hd : Dev s t)
    (hv : s.params.platform = .core → t.cpu.written.v = s.cpu.written.v) : t.lacks r := by
  refine h.of_eq hd.params ?_
  have hw := congrArg (fun u => u.cpu.written.has r) hd.bare
  cases r with
  | v => exact hv (h.2 rfl)
  | _ => exact hw

theorem State.onVAccess_core {s : State} (h : s.params.platform = .core) : s.onVAccess = s := by
  simp [State.onVAccess, h]

theorem State.lacks.onVAccess {s : State} {r : Source} (h : s.lacks r) : s.onVAccess.lacks r :=
  h.dev (Dev.onVAccess s) fun hc => by rw [State.onVAccess_core hc]

/-- A read of the registers `l`. -/
theorem Reads.uses {i : Bool} (l : List Source) : Reads i l (fun u => u.uses l) where
  acted u := Acted.using (Acted.refl u)
  stops r hr u hs hu := by rw [State.uses, State.using_fault (hu.mayUse hr)]; exact hs.fault

/-- A read through the V hook (R45). -/
theorem Reads.hooked {i : Bool} {l : List Source} {op : State → State} (h : Reads i l op) :
    Reads i l (fun u => op u.onVAccess) where
  acted u := (Dev.onVAccess u).opFrame.acted.trans (h.acted _)
  stops r hr u hs hu := h.stops r hr _ ((Dev.onVAccess u).sound hs) hu.onVAccess

theorem packAccess_reads {i : Bool} : Reads i statusSources State.packAccess := (Reads.uses statusSources).hooked

theorem prepareShs_reads {i : Bool} : Reads i [.a, .x] prepareShs :=
  OpSpec.guarded
    (OpSpec.guard _ fun u => OpFrame.cpu u (u.setS (u.cpu.a &&& u.cpu.x)).cpu rfl (WrittenKept.refl u))
    fun _ h => State.using_fault h _

theorem OpFrame.pullPla (s : State) (d : Byte) : OpFrame s (pullPla d s) := (OpFrame.setA s d).trans (OpFrame.setNZ _ d)

/-! ### The operation of every sequence -/

/-- The operation of a sequence uses the registers and flags `l`; `i` says whether it may change ICHG and IPREV. -/
def Sequence.Operates (i : Bool) (l : List Source) : Sequence → Prop
  | .implied op => Reads i l op
  | .read _ rd => ∀ d, Reads i l (rd d)
  | .write _ uses _ => l = uses
  | .rmw _ f => ∀ d, Reads i l (fun u => (f d u).2)
  | .sh _ prep _ => Reads i l prep
  | .branch cond => Reads i l (fun u => (cond u).2)
  | .push pre _ => Reads i l pre
  | .pull act => l = [] ∧ ∀ d u, Acted false i u (act d u)
  | .brk => l = statusSources
  | .jmpAbs | .jmpInd | .jsr | .rts | .rti | .jam | .entry _ => l = []

/-- The mnemonics that change ICHG and IPREV (R383, R386, R387). -/
def changesI (n : Mnem) : Bool := [Mnem.cli, .sei, .plp].contains n

/-- The accumulator forms use A besides (R46). -/
theorem accumulator_operates {n : Mnem} (h : n ∈ [Mnem.asl, .lsr, .rol, .ror]) :
    (mnemSequence n .acc).Operates (changesI n) (.a :: mnemSources n) := by
  simp only [List.mem_cons, List.not_mem_nil, or_false] at h
  rcases h with rfl | rfl | rfl | rfl
  · exact onAccumulator_reads fun v => (modifyAsl_spec v).reads
  · exact onAccumulator_reads fun v => (modifyLsr_spec v).reads
  · exact onAccumulator_reads modifyRol_reads
  · exact onAccumulator_reads modifyRor_reads

/-- An instruction with an accumulator form, in any mode. -/
theorem shift_operates {n : Mnem} {m : Mode} {f : Byte → State → Byte × State} (h : n ∈ [Mnem.asl, .lsr, .rol, .ror])
    (hn : m ≠ .acc → mnemSequence n m = .rmw m f) (hf : ∀ v, Reads (changesI n) (mnemSources n) (fun u => (f v u).2)) :
    (mnemSequence n m).Operates (changesI n) (mnemSources n) := by
  by_cases hm : m = .acc
  · subst hm
    have hacc := accumulator_operates h
    simp only [List.mem_cons, List.not_mem_nil, or_false] at h
    rcases h with rfl | rfl | rfl | rfl <;> exact hacc.mono fun _ hr => List.mem_cons_of_mem _ hr
  · rw [hn hm]
    exact hf

/-- The operation of every mnemonic uses what `mnemSources` lists (R46). -/
theorem mnemSequence_operates (n : Mnem) (m : Mode) : (mnemSequence n m).Operates (changesI n) (mnemSources n) := by
  cases n with
  | brk | sta | sax | sty | stx => exact rfl
  | jam | jsr | rti | rts => exact rfl
  | jmp => simp only [mnemSequence]; split <;> exact rfl
  | ora => exact fun v => (readOra_spec v).guarded fun _ h => State.using_fault h _
  | and => exact fun v => (readAnd_spec v).guarded fun _ h => State.using_fault h _
  | eor => exact fun v => (readEor_spec v).guarded fun _ h => State.using_fault h _
  | bit => exact fun v => (readBit_spec v).guarded fun _ h => State.using_fault h _
  | adc => exact fun v => (readAdc_spec v).guarded fun _ h => State.using_fault h _
  | sbc | usbc => exact fun v => (readSbc_spec v).guarded fun _ h => State.using_fault h _
  | cmp => exact fun v => (readCmp_spec v).guarded fun _ h => State.using_fault h _
  | cpx => exact fun v => (readCpx_spec v).guarded fun _ h => State.using_fault h _
  | cpy => exact fun v => (readCpy_spec v).guarded fun _ h => State.using_fault h _
  | lda => exact fun v => (readLda_spec v).reads
  | ldx => exact fun v => (readLdx_spec v).reads
  | ldy => exact fun v => (readLdy_spec v).reads
  | lax => exact fun v => (readLax_spec v).reads
  | las => exact fun v => (readLas_spec v).reads
  | anc => exact fun v => (readAnc_spec v).guarded fun _ h => State.using_fault h _
  | alr => exact fun v => (readAlr_spec v).guarded fun _ h => by simp only [readAlr, State.using_fault h]
  | arr => exact fun v => (readArr_spec v).guarded fun _ h => State.using_fault h _
  | sbx => exact fun v => (readSbx_spec v).guarded fun _ h => by simp only [readSbx, State.using_fault h]
  | lxa => exact fun v => (readLxa_spec v).guarded fun _ h => by simp only [readLxa, State.using_fault h]
  | ane => exact fun v => (readAne_spec v).guarded fun _ h => by simp only [readAne, State.using_fault h]
  | nop =>
    simp only [mnemSequence]
    split
    · exact opNop_spec.reads
    · exact fun v => (readNop_spec v).reads
  | asl => exact shift_operates (by decide) (fun h => if_neg h) fun v => (modifyAsl_spec v).reads
  | lsr => exact shift_operates (by decide) (fun h => if_neg h) fun v => (modifyLsr_spec v).reads
  | rol => exact shift_operates (by decide) (fun h => if_neg h) modifyRol_reads
  | ror => exact shift_operates (by decide) (fun h => if_neg h) modifyRor_reads
  | inc => exact fun v => (modifyInc_spec v).reads
  | dec => exact fun v => (modifyDec_spec v).reads
  | slo => exact modifySlo_reads
  | rla => exact modifyRla_reads
  | sre => exact modifySre_reads
  | rra => exact modifyRra_reads
  | dcp => exact fun v => (readCmp_spec (v - 1)).guarded fun _ h => State.using_fault h _
  | isb => exact fun v => (readSbc_spec (v + 1)).guarded fun _ h => State.using_fault h _
  | sha => exact Reads.uses _
  | shx => exact Reads.uses _
  | shy => exact Reads.uses _
  | shs => exact prepareShs_reads
  | bpl | bmi => exact Reads.uses [.n]
  | bvc | bvs => exact (Reads.uses [.v]).hooked
  | bcc | bcs => exact Reads.uses [.c]
  | bne | beq => exact Reads.uses [.z]
  | pha => exact Reads.uses _
  | php => exact packAccess_reads
  | pla => exact ⟨rfl, fun d u => (OpFrame.pullPla u d).acted⟩
  | plp => exact ⟨rfl, fun d u => Acted.changingI u fun w => (OpFrame.unpack w d).acted⟩
  | cli => exact Reads.of_acted fun u => Acted.changingI u fun w => (OpFrame.setI w false).acted
  | sei => exact Reads.of_acted fun u => Acted.changingI u fun w => (OpFrame.setI w true).acted
  | clc => exact opClc_spec.reads
  | sec => exact opSec_spec.reads
  | cld => exact opCld_spec.reads
  | sed => exact opSed_spec.reads
  | clv => exact opClv_spec.reads
  | tax => exact opTax_spec.guarded fun _ h => State.using_fault h _
  | tay => exact opTay_spec.guarded fun _ h => State.using_fault h _
  | txa => exact opTxa_spec.guarded fun _ h => State.using_fault h _
  | tya => exact opTya_spec.guarded fun _ h => State.using_fault h _
  | txs => exact opTxs_spec.guarded fun _ h => State.using_fault h _
  | tsx => exact opTsx_spec.reads
  | inx => exact opInx_spec.guarded fun _ h => State.using_fault h _
  | iny => exact opIny_spec.guarded fun _ h => State.using_fault h _
  | dex => exact opDex_spec.guarded fun _ h => State.using_fault h _
  | dey => exact opDey_spec.guarded fun _ h => State.using_fault h _

/-- The sequences that choose a vector: BRK and the entries (R484 to R486). -/
def Sequence.vectored : Sequence → Bool
  | .brk | .entry _ => true
  | _ => false

/-- Every micro-op of a sequence does what its operation allows. -/
theorem Sequence.micro_acts {q : Sequence} {i : Bool} {l : List Source} (h : q.Operates i l) (s : State) :
    (q.micro s).Acts (Acted q.vectored i) := by
  cases q with
  | implied op => exact fun _ t => (h.acted t).ends
  | read m rd => exact readCycle_acts (fun d => (h d).acted) m s _
  | write m uses value => exact writeCycle_acts m uses value s _
  | rmw m f => exact rmwCycle_acts (fun d => (h d).acted) m s _
  | sh m prep src => exact shCycle_acts h.acted m src s _
  | branch cond => exact branchCycle_acts h.acted s _
  | push pre value => exact pushCycle_acts h.acted value s _
  | pull act => exact pullCycle_acts h.2 s _
  | jmpAbs => exact jmpAbsCycle_acts s _
  | jmpInd => exact jmpIndCycle_acts s _
  | jsr => exact jsrCycle_acts s _
  | brk => exact brkCycle_acts s _
  | rts => exact rtsCycle_acts s _
  | rti => exact returnFromInterrupt_acts s _
  | jam => exact fun _ t => (Acted.setPC t _).ends
  | entry k => exact entryCycle_acts k s _

end Sys2Proof.Machine

namespace Sys2Proof.Machine

/-! ### Runs of ticks -/

theorem State.busRead_sq (s : State) (a : Word) : (s.busRead a).2.sq = s.sq := by
  obtain ⟨t, ht, hd, -⟩ := s.busRead_dev a
  rw [ht]
  exact hd.sq

theorem State.busWrite_sq (s : State) (a : Word) (v : Byte) : (s.busWrite a v).sq = s.sq := by
  obtain ⟨t, ht, ⟨-, hd⟩ | ⟨-, hd⟩⟩ := s.busWrite_dev a v
  · rw [ht, hd]; rfl
  · rw [ht]; exact hd.sq

theorem Ran.busClosed {v i : Bool} : BusClosed (Ran v i) where
  trans := Ran.trans
  read s a := (Onward.busClosed.read s a).ran (s.busRead_sq a)
  write s a b := (Onward.busClosed.write s a b).ran (s.busWrite_sq a b)

theorem MicroOp.Acts.mono {R S : State → State → Prop} (h : ∀ s t, R s t → S s t) {m : MicroOp} (hm : m.Acts R) :
    m.Acts S := by
  cases m with
  | read addr act => exact fun d s => h _ _ (hm d s)
  | fetch slot act => exact fun d s => h _ _ (hm d s)
  | write pre addr value post => exact ⟨fun s => h _ _ (hm.1 s), fun s => h _ _ (hm.2 s)⟩

theorem Ran.keepOperand {v i : Bool} (s : State) (slot : Slot) (b : Byte) : Ran v i s (s.incPC.keepOperand slot b) := by
  have h : Onward s (s.incPC.keepOperand slot b) := by cases slot <;> exact Onward.of_eq rfl rfl rfl rfl
  cases slot <;> exact ⟨h, rfl, .inl rfl, Nat.le_refl _, fun _ => ⟨rfl, rfl⟩, fun _ => ⟨rfl, rfl⟩⟩

/-- What the micro-op of a sequence keeps, its bus access included. -/
theorem MicroOp.perform_ran {v i : Bool} {m : MicroOp} (h : m.Acts (Acted v i)) (f : Feed) (s : State) :
    Ran v i s (m.perform f s) :=
  MicroOp.perform_keeps Ran.busClosed (h.mono fun _ _ h => h.toRan) (fun slot _ _ s b => Ran.keepOperand s slot b) f s

theorem Outside.ran {v i : Bool} {s t : State} (h : Outside s t) : Ran v i s t := by
  refine ⟨h.onward, ?_, h.jump.imp_left And.right, ?_, fun _ => ?_, fun _ => ?_⟩ <;> rw [h.latches]
  · exact ⟨rfl, rfl⟩
  · exact ⟨rfl, rfl⟩

theorem Ran.endTick {v i : Bool} (s : State) (f : Lat → Lat) : Ran v i s (s.endTick f) := (Onward.endTick s f).ran rfl

theorem Ran.markStall {v i : Bool} (q : Sequence) (s : State) : Ran v i s (q.markStall s) := by
  unfold Sequence.markStall
  split
  · split
    · exact ⟨Onward.of_eq rfl rfl rfl rfl, rfl, .inl rfl, Nat.le_refl _, fun _ => ⟨rfl, rfl⟩, fun _ => ⟨rfl, rfl⟩⟩
    · exact (Onward.refl s).ran rfl
  · exact (Onward.refl s).ran rfl

/-- What a run of ticks of a sequence keeps, whatever happens in it (R95, R151, R158). -/
theorem runSeq_ran {q : Sequence} {i : Bool} {l : List Source} (h : q.Operates i l) (f : Feed) (n : Nat) (s : State) :
    Ran q.vectored i s (runSeq f q n s) :=
  runSeq_keeps (Ran q.vectored i s) f q (fun _ g => g.trans (Outside.phi1 _).ran)
    (fun _ g => g.trans (Outside.hostCalls _ _).ran) (fun _ g hs => hs.trans (Ran.endTick _ g))
    (fun _ g => g.trans (Ran.markStall q _)) (fun _ g => g.trans (MicroOp.perform_ran (Sequence.micro_acts h _) f _)) n s
    ((Onward.refl s).ran rfl)

/-- The sequence of an instruction uses what its mnemonic lists (R46). -/
theorem sequenceOf_operates (i : Instr) : (sequenceOf i).Operates (changesI i.mnem) (mnemSources i.mnem) :=
  mnemSequence_operates i.mnem i.mode

/-- The sequence that SEQ names, whatever it is, is one whose operation is known. -/
theorem State.currentSequence_operates (s : State) : ∃ i l, s.currentSequence.Operates i l := by
  unfold State.currentSequence
  split
  · exact ⟨false, [], opNop_spec.reads⟩
  · exact ⟨_, _, sequenceOf_operates _⟩
  · exact ⟨false, [], rfl⟩

/-- A tick that executes a micro-op. -/
theorem Onward.executeTick {f : Feed} {s : State} {m : MicroOp} (h : Onward s (m.perform f s)) :
    Onward s (s.executeTick f m) :=
  (h.trans (Outside.hostCalls _ _).onward).trans (Onward.endTick _ _)

theorem Onward.stallTick (s : State) : Onward s s.stallTick := (Outside.hostCalls s _).onward.trans (Onward.endTick _ _)

/-- The terminal micro-ops (R152) are no part of a sequence: they start one. -/
theorem terminalFetch_onward (f : Feed) (s : State) : Onward s (terminalFetch.perform f s) := by
  have hacts : terminalFetch.Acts Onward := fun _ t => Onward.of_eq (s := t) rfl rfl rfl rfl
  exact MicroOp.perform_keeps Onward.busClosed hacts
    (fun slot _ _ s b => (Ran.keepOperand (v := true) (i := true) s slot b).toOnward) f s

theorem terminalEntry_onward (k : Entry) (u : State) (f : Feed) (s : State) : Onward s ((terminalEntry k u).perform f s) := by
  have hacts : (terminalEntry k u).Acts Onward := fun _ t => Onward.of_eq (s := t) rfl rfl rfl rfl
  exact MicroOp.perform_keeps Onward.busClosed hacts (fun _ _ h => by cases h) f s

/-! ### A machine that has stopped does nothing more (R503) -/

theorem State.unlessStopped_running {s : State} {k : State → State} (h : (s.unlessStopped k).stopped = none) :
    s.stopped = none ∧ s.unlessStopped k = k s := by
  cases hs : s.stopped with
  | none => exact ⟨rfl, State.unlessStopped_eq hs k⟩
  | some x =>
    rw [State.unlessStopped_stopped (by rw [hs]; rfl), hs] at h
    exact absurd h (by simp)

theorem State.applyAll_stopped {s : State} (h : s.stopped.isSome = true) (l : List Due) : s.applyAll l = s := by
  cases l with
  | nil => rfl
  | cons d rest => exact State.unlessStopped_stopped h _

theorem State.hostCalls_stopped {s : State} (h : s.stopped.isSome = true) (m : Moment) :
    (s.hostCalls m).stopped = s.stopped := by
  simp only [State.hostCalls]
  rw [State.applyAll_stopped (by exact h)]

theorem State.attachDue_stopped (s : State) : s.attachDue.stopped = s.stopped := by
  unfold State.attachDue
  split
  · split <;> rfl
  · rfl

theorem State.viaStep_stopped {s : State} (h : s.stopped.isSome = true) (k : ViaId) : s.viaStep k = s := by
  unfold State.viaStep
  split
  · rfl
  · exact State.unlessStopped_stopped h _

theorem State.rotationStep_stopped {s : State} (h : s.stopped.isSome = true) : s.rotationStep = s := by
  unfold State.rotationStep
  split
  · rfl
  · exact State.unlessStopped_stopped h _

theorem State.phi1_stopped {s : State} (h : s.stopped.isSome = true) : s.phi1.stopped.isSome = true := by
  have place : ∀ {u : State} (m : Moment), u.stopped.isSome = true → (u.hostCalls m).attachDue.stopped.isSome = true := by
    intro u m hu
    rwa [State.attachDue_stopped, State.hostCalls_stopped hu]
  unfold State.phi1
  split
  · exact h
  · have h1 := place .beforeVia1 h
    rw [← State.viaStep_stopped h1 .via1] at h1
    have h2 := place .beforeVia2 h1
    rw [← State.viaStep_stopped h2 .via2] at h2
    have h3 := place .beforeRotation h2
    rw [← State.rotationStep_stopped h3] at h3
    exact (congrArg Option.isSome (State.hostCalls_stopped h3 .beforeCpu)).trans h3

theorem runSeq_stopped (f : Feed) (q : Sequence) (n : Nat) {s : State} (h : s.stopped.isSome = true) :
    (runSeq f q n s).stopped.isSome = true := by
  cases n with
  | zero => exact h
  | succ n =>
    have hset : s.phi1.settled = true := by simp [State.settled, State.phi1_stopped h]
    simp only [runSeq, Sequence.tick, hset, if_true, Bool.false_eq_true, if_false]
    exact State.phi1_stopped h

/-- A tick that leaves the machine running executed its micro-op without a fault. -/
theorem State.executeTick_running {s : State} {f : Feed} {m : MicroOp} (h : (s.executeTick f m).stopped = none) :
    (m.perform f s).stopped = none := by
  cases hs : (m.perform f s).stopped with
  | none => rfl
  | some x =>
    have hk := State.hostCalls_stopped (s := m.perform f s) (by rw [hs]; rfl) .afterCpu
    rw [State.executeTick, State.endTick_stopped, hk, hs] at h
    exact absurd h (by simp)

theorem State.running_of_not_isSome {s : State} (h : ¬ s.stopped.isSome = true) : s.stopped = none := by
  simpa using h

theorem State.running_of_phi1 {s : State} (h : s.phi1.stopped = none) : s.stopped = none :=
  State.running_of_not_isSome fun hs => by simpa [h] using State.phi1_stopped hs

theorem running_of_runSeq {f : Feed} {q : Sequence} {n : Nat} {s : State} (h : (runSeq f q n s).stopped = none) :
    s.stopped = none :=
  State.running_of_not_isSome fun hs => by simpa [h] using runSeq_stopped f q n hs

/-! ### What an instruction and a step can do -/

/-- A state answers a next state where no fault has been raised. -/
theorem State.outcome_eq_next {u t : State} : u.outcome = .next t ↔ u = t ∧ t.stopped = none := by
  unfold State.outcome
  constructor
  · intro h
    cases hs : u.stopped with
    | some f => rw [hs] at h; exact absurd h (by simp)
    | none =>
      rw [hs] at h
      injection h with h
      exact ⟨h, h ▸ hs⟩
  · rintro ⟨rfl, h⟩
    rw [h]

/-- What an instruction does that answers a next state: it stalls at its terminal, or it is fetched and its sequence runs. -/
theorem exec_cases {i : Instr} {s t : State} (h : exec i s = .next t) :
    s.clearLogs.phi1.stopped = none ∧ t.stopped = none ∧
      (s.clearLogs.phi1.stalls terminalFetch = true ∧ t = s.clearLogs.phi1.stallTick ∨
        s.clearLogs.phi1.stalls terminalFetch = false ∧
          t = runSeq (Feed.ofInstr i) (sequenceOf i) 7 (s.clearLogs.phi1.executeTick (Feed.ofInstr i) terminalFetch)) := by
  rw [exec_eq] at h
  unfold runInstr at h
  simp only at h
  split at h
  · rename_i hs
    obtain ⟨rfl, hn⟩ := State.outcome_eq_next.mp h
    exact absurd hs (by simp [hn])
  · rename_i hs
    refine ⟨State.running_of_not_isSome hs, ?_⟩
    split at h <;> rename_i hstall <;> obtain ⟨rfl, hn⟩ := State.outcome_eq_next.mp h
    · exact ⟨hn, .inl ⟨hstall, rfl⟩⟩
    · exact ⟨hn, .inr ⟨by simpa using hstall, rfl⟩⟩

/-- What a step does that answers a next state, `u` being the state after PHI1 (log 9). -/
inductive StepCase (s u t : State) : Prop
  /-- a stall at a terminal (R153) -/
  | stall (hseq : u.sq.seq = .boundary) (hstall : u.stalls terminalFetch = true) (ht : t = u.stallTick)
  /-- an entry (R477) -/
  | enter (k : Entry) (hseq : u.sq.seq = .boundary) (hstall : u.stalls terminalFetch = false)
      (hpoll : u.pollFaults = false) (hk : u.decision = some k) (ht : t = u.enter k)
  /-- an instruction (R152) -/
  | fetch (hseq : u.sq.seq = .boundary) (hstall : u.stalls terminalFetch = false) (hpoll : u.pollFaults = false)
      (hk : u.decision = none) (ht : exec u.fetchedInstr s = .next t)
  /-- the rest of a sequence -/
  | resume (hseq : u.sq.seq ≠ .boundary) (ht : t = u.resume)

theorem step_cases {s t : State} (h : step s = .next t) :
    s.clearLogs.phi1.stopped = none ∧ t.stopped = none ∧ StepCase s s.clearLogs.phi1 t := by
  unfold step State.stepOnce at h
  simp only at h
  generalize hu : s.clearLogs.phi1 = u at h ⊢
  split at h
  · rename_i hs
    obtain ⟨rfl, hn⟩ := State.outcome_eq_next.mp h
    exact absurd hs (by simp [hn])
  · rename_i hs
    refine ⟨State.running_of_not_isSome hs, ?_⟩
    split at h
    · rename_i hseq
      rw [beq_iff_eq] at hseq
      split at h
      · rename_i hstall
        obtain ⟨rfl, hn⟩ := State.outcome_eq_next.mp h
        exact ⟨hn, .stall hseq hstall rfl⟩
      · rename_i hstall
        rw [Bool.not_eq_true] at hstall
        split at h
        · obtain ⟨rfl, hn⟩ := State.outcome_eq_next.mp h
          exact absurd hn (by simp)
        · rename_i hpoll
          rw [Bool.not_eq_true] at hpoll
          split at h
          · rename_i k hk
            obtain ⟨rfl, hn⟩ := State.outcome_eq_next.mp h
            exact ⟨hn, .enter k hseq hstall hpoll hk rfl⟩
          · rename_i hk
            exact ⟨(exec_cases h).2.1, .fetch hseq hstall hpoll hk h⟩
    · rename_i hseq
      obtain ⟨rfl, hn⟩ := State.outcome_eq_next.mp h
      exact ⟨hn, .resume (by simpa using hseq) rfl⟩

/-! ### O12 -/

theorem exec_onward {i : Instr} {s t : State} (h : exec i s = .next t) : Onward s.clearLogs t := by
  obtain ⟨-, -, ht⟩ := exec_cases h
  have hphi := (Outside.phi1 s.clearLogs).onward
  rcases ht with ⟨-, rfl⟩ | ⟨-, rfl⟩
  · exact hphi.trans (Onward.stallTick _)
  · exact (hphi.trans (terminalFetch_onward _ _).executeTick).trans (runSeq_ran (sequenceOf_operates i) _ _ _).toOnward

theorem State.accept_onward (s : State) (k : Entry) : Onward s (s.accept k) := by
  cases k <;> exact Onward.of_eq rfl rfl rfl rfl

theorem step_onward {s t : State} (h : step s = .next t) : Onward s.clearLogs t := by
  obtain ⟨-, -, hc⟩ := step_cases h
  have hphi := (Outside.phi1 s.clearLogs).onward
  cases hc with
  | stall _ _ ht =>
    rw [ht]
    exact hphi.trans (Onward.stallTick _)
  | enter k _ _ _ _ ht =>
    rw [ht]
    refine hphi.trans (Onward.trans ?_ (runSeq_ran (q := .entry k) (i := false) (l := []) rfl _ _ _).toOnward)
    exact (State.accept_onward _ k).trans (terminalEntry_onward k _ _ _).executeTick
  | fetch _ _ _ _ ht => exact exec_onward ht
  | resume _ ht =>
    obtain ⟨_, _, hq⟩ := s.clearLogs.phi1.currentSequence_operates
    rw [ht]
    exact hphi.trans (runSeq_ran hq _ _ _).toOnward

/-- Settles O12: every half of every tick keeps the arguments, the time and the `written` bits. -/
theorem stepKeepsParamsAndTime : Obligations.StepKeepsParamsAndTime := by
  intro s t h
  obtain ⟨hparams, htick, hwritten, -⟩ := step_onward h
  exact ⟨hparams, htick, hwritten⟩

/-! ### O49 -/

/-- What the terminal fetch has done when no fault came with its bus access (R152, R476). -/
theorem terminalFetch_perform {f : Feed} {s : State} (h : (terminalFetch.perform f s).stopped = none) :
    (terminalFetch.perform f s).sq =
        { s.sq with
          ir := f.pick .opcode (s.busRead s.cpu.pc).1, seq := .op, cyc := 2, ichg := false, iprev := false
          iprevKnown := false, shstall := false } ∧
      (terminalFetch.perform f s).bus ≠ [] := by
  obtain ⟨t, ht, -, -⟩ := s.busRead_dev s.cpu.pc
  unfold terminalFetch at h ⊢
  rw [MicroOp.perform_fetch] at h ⊢
  rw [(State.unlessStopped_running h).2]
  constructor
  · simp only [State.startSequence, State.keepOperand, State.incPC, State.setPC, State.busRead_sq]
  · rw [ht]
    exact List.append_ne_nil_of_right_ne_nil _ (List.cons_ne_nil _ _)

theorem vectored_sequenceOf {i : Instr} (h : i.mnem ≠ .brk) : (sequenceOf i).vectored = false := by
  cases i <;> first | rfl | exact absurd rfl h

/-- Settles O49: the terminal fetch clears ICHG and IPREV, and the sequence after it keeps the latches. -/
theorem frameOfSpecialState : Obligations.FrameOfSpecialState := by
  intro i s t h
  refine ⟨(exec_onward h).params, ?_⟩
  obtain ⟨-, hrun, ht⟩ := exec_cases h
  have hphi := Outside.phi1 s.clearLogs
  generalize s.clearLogs.phi1 = u at hphi ht
  rcases ht with ⟨-, rfl⟩ | ⟨-, rfl⟩
  · have hout := hphi.trans (Outside.hostCalls u .afterCpu)
    have hsq : u.stallTick.sq = { s.sq with seq := u.stallTick.sq.seq } := hout.latches
    have hbus : u.stallTick.bus = [] := hout.bus
    rw [hsq]
    exact ⟨fun _ => ⟨rfl, rfl⟩, fun _ => ⟨fun hb => absurd hbus hb, fun _ => ⟨rfl, rfl⟩⟩⟩
  · generalize hw : u.executeTick (Feed.ofInstr i) terminalFetch = w at hrun
    have hran := runSeq_ran (sequenceOf_operates i) (Feed.ofInstr i) 7 w
    subst hw
    obtain ⟨hsq, hbus⟩ := terminalFetch_perform (State.executeTick_running (running_of_runSeq hrun))
    have hlate := Outside.hostCalls (terminalFetch.perform (Feed.ofInstr i) u) .afterCpu
    have hlatch : (u.executeTick (Feed.ofInstr i) terminalFetch).sq = _ := hlate.latches
    have hlog : (u.executeTick (Feed.ofInstr i) terminalFetch).bus = _ := hlate.bus
    rw [hsq, hphi.latches] at hlatch
    refine ⟨fun hbrk => ?_, fun hi => ⟨fun _ => ?_, fun hb => ?_⟩⟩
    · have hvec := hran.vec (vectored_sequenceOf hbrk)
      rwa [hlatch] at hvec
    · have hichg := hran.ichg (by simpa [changesI] using hi)
      rwa [hlatch] at hichg
    · have hpre := hran.bus
      rw [hb, hlog] at hpre
      exact absurd (List.prefix_nil.mp hpre) hbus

end Sys2Proof.Machine

namespace Sys2Proof.Machine

/-! ### The decoder: what the opcode byte and the operand bytes decide (R110, R112, R114) -/

/-- The operand bytes of an instruction are `x` and `y`, as far as its mode has them. -/
def OperandBytes (x y : Byte) (i : Instr) : Prop := (1 < i.length → operand1 i = x) ∧ (2 < i.length → operand2 i = y)

theorem operandBytes_none {x y : Byte} {i : Instr} (h : i.length = 1) : OperandBytes x y i := by
  constructor <;> intro hl <;> omega

theorem operandBytes_one {x y : Byte} {i : Instr} (h : i.length = 2) (hx : operand1 i = x) : OperandBytes x y i :=
  ⟨fun _ => hx, fun hl => by omega⟩

theorem operandBytes_two {x y : Byte} {i : Instr} (hx : operand1 i = lo (joinBytes y x)) (hy : operand2 i = hi (joinBytes y x)) :
    OperandBytes x y i :=
  ⟨fun _ => hx.trans (lo_joinBytes y x), fun _ => hy.trans (hi_joinBytes y x)⟩

/-- A row of the opcode map chooses the instruction by the column alone and gives it the operand bytes. -/
def RowFaithful (f : Nat → Byte → Byte → Instr) : Prop :=
  ∀ c x y, (f c x y).row = (f c 0 0).row ∧ OperandBytes x y (f c x y)

theorem decodeRow0_faithful : RowFaithful decodeRow0 := by
  intro c x y
  unfold decodeRow0
  split <;> refine ⟨rfl, ?_⟩ <;>
    first | exact operandBytes_none rfl | exact operandBytes_one rfl rfl | exact operandBytes_two rfl rfl

theorem decodeRow1_faithful : RowFaithful decodeRow1 := by
  intro c x y
  unfold decodeRow1
  split <;> refine ⟨rfl, ?_⟩ <;>
    first | exact operandBytes_none rfl | exact operandBytes_one rfl rfl | exact operandBytes_two rfl rfl

theorem decodeRow2_faithful : RowFaithful decodeRow2 := by
  intro c x y
  unfold decodeRow2
  split <;> refine ⟨rfl, ?_⟩ <;>
    first | exact operandBytes_none rfl | exact operandBytes_one rfl rfl | exact operandBytes_two rfl rfl

theorem decodeRow3_faithful : RowFaithful decodeRow3 := by
  intro c x y
  unfold decodeRow3
  split <;> refine ⟨rfl, ?_⟩ <;>
    first | exact operandBytes_none rfl | exact operandBytes_one rfl rfl | exact operandBytes_two rfl rfl

theorem decodeRow4_faithful : RowFaithful decodeRow4 := by
  intro c x y
  unfold decodeRow4
  split <;> refine ⟨rfl, ?_⟩ <;>
    first | exact operandBytes_none rfl | exact operandBytes_one rfl rfl | exact operandBytes_two rfl rfl

theorem decodeRow5_faithful : RowFaithful decodeRow5 := by
  intro c x y
  unfold decodeRow5
  split <;> refine ⟨rfl, ?_⟩ <;>
    first | exact operandBytes_none rfl | exact operandBytes_one rfl rfl | exact operandBytes_two rfl rfl

theorem decodeRow6_faithful : RowFaithful decodeRow6 := by
  intro c x y
  unfold decodeRow6
  split <;> refine ⟨rfl, ?_⟩ <;>
    first | exact operandBytes_none rfl | exact operandBytes_one rfl rfl | exact operandBytes_two rfl rfl

theorem decodeRow7_faithful : RowFaithful decodeRow7 := by
  intro c x y
  unfold decodeRow7
  split <;> refine ⟨rfl, ?_⟩ <;>
    first | exact operandBytes_none rfl | exact operandBytes_one rfl rfl | exact operandBytes_two rfl rfl

theorem decodeRow8_faithful : RowFaithful decodeRow8 := by
  intro c x y
  unfold decodeRow8
  split <;> refine ⟨rfl, ?_⟩ <;>
    first | exact operandBytes_none rfl | exact operandBytes_one rfl rfl | exact operandBytes_two rfl rfl

theorem decodeRow9_faithful : RowFaithful decodeRow9 := by
  intro c x y
  unfold decodeRow9
  split <;> refine ⟨rfl, ?_⟩ <;>
    first | exact operandBytes_none rfl | exact operandBytes_one rfl rfl | exact operandBytes_two rfl rfl

theorem decodeRowA_faithful : RowFaithful decodeRowA := by
  intro c x y
  unfold decodeRowA
  split <;> refine ⟨rfl, ?_⟩ <;>
    first | exact operandBytes_none rfl | exact operandBytes_one rfl rfl | exact operandBytes_two rfl rfl

theorem decodeRowB_faithful : RowFaithful decodeRowB := by
  intro c x y
  unfold decodeRowB
  split <;> refine ⟨rfl, ?_⟩ <;>
    first | exact operandBytes_none rfl | exact operandBytes_one rfl rfl | exact operandBytes_two rfl rfl

theorem decodeRowC_faithful : RowFaithful decodeRowC := by
  intro c x y
  unfold decodeRowC
  split <;> refine ⟨rfl, ?_⟩ <;>
    first | exact operandBytes_none rfl | exact operandBytes_one rfl rfl | exact operandBytes_two rfl rfl

theorem decodeRowD_faithful : RowFaithful decodeRowD := by
  intro c x y
  unfold decodeRowD
  split <;> refine ⟨rfl, ?_⟩ <;>
    first | exact operandBytes_none rfl | exact operandBytes_one rfl rfl | exact operandBytes_two rfl rfl

theorem decodeRowE_faithful : RowFaithful decodeRowE := by
  intro c x y
  unfold decodeRowE
  split <;> refine ⟨rfl, ?_⟩ <;>
    first | exact operandBytes_none rfl | exact operandBytes_one rfl rfl | exact operandBytes_two rfl rfl

theorem decodeRowF_faithful : RowFaithful decodeRowF := by
  intro c x y
  unfold decodeRowF
  split <;> refine ⟨rfl, ?_⟩ <;>
    first | exact operandBytes_none rfl | exact operandBytes_one rfl rfl | exact operandBytes_two rfl rfl

/-- So does the opcode byte. -/
theorem decodeBytes_faithful (b x y : Byte) :
    (decodeBytes b x y).row = (decodeBytes b 0 0).row ∧ OperandBytes x y (decodeBytes b x y) := by
  unfold decodeBytes
  split
  · exact decodeRow0_faithful _ x y
  · exact decodeRow1_faithful _ x y
  · exact decodeRow2_faithful _ x y
  · exact decodeRow3_faithful _ x y
  · exact decodeRow4_faithful _ x y
  · exact decodeRow5_faithful _ x y
  · exact decodeRow6_faithful _ x y
  · exact decodeRow7_faithful _ x y
  · exact decodeRow8_faithful _ x y
  · exact decodeRow9_faithful _ x y
  · exact decodeRowA_faithful _ x y
  · exact decodeRowB_faithful _ x y
  · exact decodeRowC_faithful _ x y
  · exact decodeRowD_faithful _ x y
  · exact decodeRowE_faithful _ x y
  · exact decodeRowF_faithful _ x y

/-- The decoded instruction has the opcode byte that it was decoded from. -/
theorem decodeBytes_opcode (b x y : Byte) : (decodeBytes b x y).opcode = b := by
  have h : ∀ b : Byte, (decodeBytes b 0 0).opcode = b := by decide
  rw [Instr.opcode, (decodeBytes_faithful b x y).1]
  exact h b

/-- The first byte of an instruction is its opcode. -/
theorem encode_opcode (i : Instr) : (encode i).getD 0 0 = i.opcode := by
  cases i <;> rfl

end Sys2Proof.Machine

namespace Sys2Proof.Machine

/-! ### Which cycles fetch from the instruction stream (R160 to R178, R349 to R351) -/

/-- The slot of the instruction stream that a micro-op fetches. -/
def MicroOp.fetchSlot : MicroOp → Option Slot
  | .fetch slot _ => some slot
  | _ => none

/-- The cycle in which a sequence fetches a slot, where that fetch does not end the sequence. -/
def Slot.cycle : Slot → Nat
  | .opcode => 1
  | .first => 2
  | .second => 3

/-- The number of bytes of an instruction up to a slot. -/
def Slot.bytes : Slot → Nat
  | .opcode => 1
  | .first => 2
  | .second => 3

/-- The slot whose fetch ends a sequence (R160, R349, R351). -/
def Sequence.lastFetch : Sequence → Option Slot
  | .read .imm _ => some .first
  | .jmpAbs | .jsr => some .second
  | _ => none

/-- The bytes of the instruction stream that a sequence takes, the opcode included. -/
def Sequence.bytes : Sequence → Nat
  | .read m _ | .write m _ _ | .rmw m _ | .sh m _ _ => m.length
  | .branch _ => 2
  | .jmpAbs | .jmpInd | .jsr => 3
  | .implied _ | .push _ _ | .pull _ | .brk | .rts | .rti | .jam | .entry _ => 1

/-- A fetch of an operand byte of an instruction of `n` bytes, in cycle `c`, after which the sequence goes on. -/
structure FetchesOperand (u : MicroOp) (slot : Slot) (c n : Nat) : Prop where
  operand : slot ≠ .opcode
  bytes : slot.bytes ≤ n
  cycle : c = slot.cycle
  next : ∀ act, u = .fetch slot act → ∀ d t, (act d t).settled = true ∨ t.sq.cyc < (act d t).sq.cyc

/-- A fetch of an operand byte of an instruction of `n` bytes that ends the sequence. -/
structure FetchesLast (u : MicroOp) (slot : Slot) (n : Nat) : Prop where
  operand : slot ≠ .opcode
  bytes : slot.bytes ≤ n
  ends : ∀ act, u = .fetch slot act → ∀ d t, (act d t).sq.seq = .boundary

theorem FetchesOperand.of_act {slot : Slot} {act : Byte → State → State} {c n : Nat} (hc : c = slot.cycle)
    (ho : slot ≠ .opcode) (hb : slot.bytes ≤ n)
    (h : ∀ d t, (act d t).settled = true ∨ t.sq.cyc < (act d t).sq.cyc) : FetchesOperand (.fetch slot act) slot c n :=
  ⟨ho, hb, hc, fun _ he => by injection he with _ he; exact he ▸ h⟩

theorem FetchesLast.of_act {slot : Slot} {act : Byte → State → State} {n : Nat} (ho : slot ≠ .opcode)
    (hb : slot.bytes ≤ n)
    (h : ∀ d t, (act d t).sq.seq = .boundary) : FetchesLast (.fetch slot act) slot n :=
  ⟨ho, hb, fun _ he => by injection he with _ he; exact he ▸ h⟩

theorem State.settled_fault (s : State) : s.uninitFault.settled = true := by
  cases h : s.stopped <;> simp [State.settled, h]

theorem addressCycle_fetches {m : Mode} {s : State} {c : Nat} {slot : Slot} {always : Bool} (hc : 2 ≤ c)
    (ha : c < accessCycle m always) (h : (addressCycle m s c).fetchSlot = some slot) :
    FetchesOperand (addressCycle m s c) slot c m.length := by
  have hnext : ∀ t : State, t.sq.cyc < t.sq.cyc + 1 := fun t => Nat.lt_succ_self _
  have hguard : ∀ (t : State) l (k : State → State), t.sq.cyc < (k t).sq.cyc →
      (t.using l k).settled = true ∨ t.sq.cyc < (t.using l k).sq.cyc := fun t l k hk =>
    State.using_keeps (P := fun w => w.settled = true ∨ t.sq.cyc < w.sq.cyc) (.inr hk) (.inl t.settled_fault)
  revert h
  unfold addressCycle
  split <;> intro h <;> simp only [MicroOp.fetchSlot, MicroOp.discard, reduceCtorEq, Option.some.injEq] at h <;> subst h
  case h_1 =>
    have h3 : c < 3 := ha
    exact .of_act (by simp only [Slot.cycle]; omega) (by decide) (by decide) fun _ t => .inr (hnext t)
  case h_11 hne =>
    have h4 : c < 4 := ha
    have h2 : c ≠ 2 := hne
    exact .of_act (by simp only [Slot.cycle]; omega) (by decide) (by decide) fun _ t => .inr (hnext t)
  case h_2 | h_3 | h_4 | h_5 | h_8 | h_9 | h_10 =>
    exact .of_act rfl (by decide) (by decide) fun _ t => .inr (hnext t)
  case h_12 | h_13 => exact .of_act rfl (by decide) (by decide) fun _ t => hguard t _ _ (hnext t)

theorem vectorCycle_fetchSlot (vec : Word) (c : Nat) : (vectorCycle vec c).fetchSlot = none := by
  unfold vectorCycle
  split <;> rfl

theorem takeInterrupt_fetchSlot (b : Bool) (s : State) (c : Nat) : (takeInterrupt b s c).fetchSlot = none := by
  unfold takeInterrupt
  split
  · rfl
  · rfl
  · rfl
  · exact vectorCycle_fetchSlot _ _

theorem entryCycle_fetchSlot (k : Entry) (s : State) (c : Nat) : (entryCycle k s c).fetchSlot = none := by
  unfold entryCycle
  split
  · rfl
  · cases k
    · simp only [takeReset]
      split
      · rfl
      · rfl
      · rfl
      · exact vectorCycle_fetchSlot _ _
    · exact takeInterrupt_fetchSlot _ _ _
    · exact takeInterrupt_fetchSlot _ _ _

/-- A micro-op that fetches an operand byte does it in the slot's own cycle, or it is the last of its sequence. -/
theorem Sequence.micro_fetches {q : Sequence} {i : Bool} {l : List Source} (hq : q.Operates i l) {s : State} {slot : Slot}
    (hc : 2 ≤ s.sq.cyc) (h : (q.micro s).fetchSlot = some slot) :
    (q.lastFetch ≠ some slot ∧ FetchesOperand (q.micro s) slot s.sq.cyc q.bytes) ∨
      (q.lastFetch = some slot ∧ FetchesLast (q.micro s) slot q.bytes) := by
  have hnext : ∀ t : State, t.sq.cyc < t.sq.cyc + 1 := fun t => Nat.lt_succ_self _
  revert h
  cases q with
  | read m rd =>
    simp only [Sequence.micro]
    unfold readCycle
    split
    · intro h
      injection h with h
      subst h
      exact .inr ⟨rfl, .of_act (by decide) (Nat.le_refl 2) fun _ _ => rfl⟩
    · rename_i hm
      have hlast : (Sequence.read m rd).lastFetch = none := by cases m <;> first | rfl | exact (hm rfl).elim
      split
      · intro h
        exact .inl ⟨by rw [hlast]; simp, addressCycle_fetches hc ‹_› h⟩
      · split <;> intro h <;> cases h
  | write m uses value =>
    simp only [Sequence.micro]
    unfold writeCycle
    split
    · intro h
      exact .inl ⟨nofun, addressCycle_fetches hc ‹_› h⟩
    · intro h; cases h
  | rmw m f =>
    simp only [Sequence.micro]
    unfold rmwCycle
    split
    · intro h
      exact .inl ⟨nofun, addressCycle_fetches hc ‹_› h⟩
    · split
      · intro h; cases h
      · split <;> intro h <;> cases h
  | sh m prep src =>
    simp only [Sequence.micro]
    unfold shCycle
    split
    · intro h
      exact .inl ⟨nofun, addressCycle_fetches hc ‹_› h⟩
    · intro h; cases h
  | branch cond =>
    simp only [Sequence.micro]
    unfold branchCycle
    split <;> intro h <;> cases h
    refine .inl ⟨nofun, .of_act ‹_› (by decide) (Nat.le_refl 2) fun d t => ?_⟩
    have hcond := (hq.acted { t with sq := { t.sq with off := d } }).cyc
    dsimp only
    split
    · exact .inr (Nat.lt_succ_of_le hcond)
    · exact .inl (State.settled_of_boundary rfl)
  | jmpAbs =>
    simp only [Sequence.micro]
    unfold jmpAbsCycle
    split <;> intro h <;> cases h
    · exact .inl ⟨nofun, .of_act ‹_› (by decide) (by decide) fun _ t => .inr (hnext t)⟩
    · exact .inr ⟨rfl, .of_act (by decide) (by decide) fun _ _ => rfl⟩
  | jmpInd =>
    simp only [Sequence.micro]
    unfold jmpIndCycle
    split <;> intro h <;> cases h
    · exact .inl ⟨nofun, .of_act ‹_› (by decide) (by decide) fun _ t => .inr (hnext t)⟩
    · exact .inl ⟨nofun, .of_act ‹_› (by decide) (by decide) fun _ t => .inr (hnext t)⟩
  | jsr =>
    simp only [Sequence.micro]
    unfold jsrCycle
    split <;> intro h <;> cases h
    · exact .inl ⟨nofun, .of_act ‹_› (by decide) (by decide) fun _ t => .inr (hnext t)⟩
    · exact .inr ⟨rfl, .of_act (by decide) (by decide) fun _ _ => rfl⟩
  | implied op => intro h; cases h
  | jam => intro h; cases h
  | push pre value => simp only [Sequence.micro]; unfold pushCycle; split <;> intro h <;> cases h
  | pull act => simp only [Sequence.micro]; unfold pullCycle; split <;> intro h <;> cases h
  | rts => simp only [Sequence.micro]; unfold rtsCycle; split <;> intro h <;> cases h
  | rti => simp only [Sequence.micro]; unfold returnFromInterrupt; split <;> intro h <;> cases h
  | brk =>
    simp only [Sequence.micro]
    unfold brkCycle
    split
    · intro h; cases h
    · rw [takeInterrupt_fetchSlot]; exact nofun
  | entry k => rw [show (Sequence.entry k).micro s = entryCycle k s s.sq.cyc from rfl, entryCycle_fetchSlot]; exact nofun

/-- The instruction that runs a sequence has the bytes that the sequence takes. -/
theorem sequenceOf_bytes (i : Instr) : (sequenceOf i).bytes = i.length := by
  cases i <;> rfl

/-! ### A run with the bytes that a live run fetches is that run (log 10) -/

/-- The latch that keeps a byte of the instruction stream. -/
def State.operand (s : State) : Slot → Byte
  | .opcode => s.sq.ir
  | .first => s.sq.op1
  | .second => s.sq.op2

theorem State.operand_keepOperand {s : State} {slot : Slot} (h : slot ≠ .opcode) (b : Byte) :
    (s.keepOperand slot b).operand slot = b := by
  cases slot <;> first | rfl | exact absurd rfl h

theorem Acted.operand {v i : Bool} {s t : State} (h : Acted v i s t) (slot : Slot) : t.operand slot = s.operand slot := by
  cases slot
  · exact h.ir
  · exact h.op1
  · exact h.op2

theorem State.operand_of_sq {s t : State} (h : t.sq = s.sq) (slot : Slot) : t.operand slot = s.operand slot := by
  cases slot <;> simp only [State.operand, h]

theorem Outside.operand {s t : State} (h : Outside s t) (slot : Slot) : t.operand slot = s.operand slot := by
  cases slot <;> simp only [State.operand] <;> rw [h.latches]

/-- A micro-op keeps the operand bytes that it does not fetch. -/
theorem MicroOp.perform_operand {v i : Bool} {m : MicroOp} (h : m.Acts (Acted v i)) {slot : Slot} (hs : m.fetchSlot ≠ some slot)
    (f : Feed) (s : State) : (m.perform f s).operand slot = s.operand slot := by
  refine MicroOp.perform_keeps (R := fun s t => t.operand slot = s.operand slot)
    ⟨fun h g => g.trans h, fun s a => State.operand_of_sq (s.busRead_sq a) slot,
      fun s a b => State.operand_of_sq (s.busWrite_sq a b) slot⟩ (h.mono fun _ _ h => h.operand slot) ?_ f s
  rintro slot' act rfl s b
  have hne : slot' ≠ slot := fun h => hs (congrArg some h)
  cases slot <;> cases slot' <;> first | rfl | exact absurd rfl hne

/-- A micro-op that delivers the byte that it finds on the bus does the same live. -/
theorem MicroOp.perform_feed {m : MicroOp} {g : Feed} {s : State}
    (h : ∀ slot, m.fetchSlot = some slot → (s.busRead s.cpu.pc).2.stopped = none →
      g.pick slot (s.busRead s.cpu.pc).1 = (s.busRead s.cpu.pc).1) : m.perform g s = m.perform .live s := by
  cases m with
  | read addr act => rfl
  | write pre addr value post => rfl
  | fetch slot act =>
    rw [MicroOp.perform_fetch, MicroOp.perform_fetch]
    cases hs : (s.busRead s.cpu.pc).2.stopped with
    | some x => rw [State.unlessStopped_stopped (by rw [hs]; rfl), State.unlessStopped_stopped (by rw [hs]; rfl)]
    | none => rw [h slot rfl hs]; rfl

/-- After its own cycle a slot is not fetched again, so that its byte stays to the end of the run. -/
theorem runSeq_operand {q : Sequence} {i : Bool} {l : List Source} (hq : q.Operates i l) {slot : Slot}
    (hlast : q.lastFetch ≠ some slot) (f : Feed) (n : Nat) {s : State} (hc : slot.cycle < s.sq.cyc) :
    (runSeq f q n s).operand slot = s.operand slot := by
  have h2 : 1 ≤ slot.cycle := by cases slot <;> decide
  have keep : ∀ {u w : State}, Ran q.vectored i u w → w.operand slot = u.operand slot →
      slot.cycle < u.sq.cyc ∧ u.operand slot = s.operand slot → slot.cycle < w.sq.cyc ∧ w.operand slot = s.operand slot :=
    fun hr ho hu => ⟨hu.1.trans_le hr.cyc, ho.trans hu.2⟩
  refine (runSeq_keeps (fun t => slot.cycle < t.sq.cyc ∧ t.operand slot = s.operand slot) f q
    (fun u => keep (Outside.phi1 u).ran ((Outside.phi1 u).operand slot))
    (fun u => keep (Outside.hostCalls u _).ran ((Outside.hostCalls u _).operand slot))
    (fun u g => keep (Ran.endTick u g) (State.operand_of_sq rfl slot))
    (fun u => keep (Ran.markStall q u) ?_) (fun u hu => ?_) n s ⟨hc, rfl⟩).2
  · unfold Sequence.markStall
    split
    · split <;> cases slot <;> rfl
    · rfl
  · have hacts := Sequence.micro_acts hq u
    refine keep (MicroOp.perform_ran hacts f u) (MicroOp.perform_operand hacts (fun h => ?_) f u) hu
    rcases Sequence.micro_fetches hq (by omega) h with ⟨-, hf⟩ | ⟨hl, -⟩
    · have := hf.cycle
      omega
    · exact hlast hl

end Sys2Proof.Machine

namespace Sys2Proof.Machine

/-- One tick of a run, its four outcomes apart (R150, R151, R153, R158). -/
theorem runSeq_succ (f : Feed) (q : Sequence) (n : Nat) (s : State) :
    runSeq f q (n + 1) s =
      if s.phi1.settled then s.phi1
      else if s.phi1.stalls (q.micro s.phi1) then (q.markStall s.phi1).stallTick
      else if (s.phi1.executeTick f (q.micro s.phi1)).settled then s.phi1.executeTick f (q.micro s.phi1)
      else runSeq f q n (s.phi1.executeTick f (q.micro s.phi1)) := by
  simp only [runSeq, Sequence.tick]
  split
  · rfl
  · split
    · rfl
    · cases (s.phi1.executeTick f (q.micro s.phi1)).settled <;> rfl

theorem State.settled_iff {s : State} : s.settled = true ↔ s.stopped.isSome = true ∨ s.sq.seq = .boundary := by
  simp [State.settled]

theorem State.not_settled_iff {s : State} : ¬ s.settled = true ↔ s.stopped = none ∧ s.sq.seq ≠ .boundary := by
  simp [State.settled_iff]

/-- Host calls take no machine back into a sequence that it has left. -/
theorem State.settled_hostCalls {s : State} (h : s.settled = true) (m : Moment) : (s.hostCalls m).settled = true := by
  rw [State.settled_iff] at h ⊢
  rcases h with h | h
  · exact .inl (by rwa [State.hostCalls_stopped h])
  · rcases (Outside.hostCalls s m).jump with ⟨-, hs⟩ | hs
    · exact .inr (hs.trans h)
    · exact .inr hs

/-- A live tick that fetches a byte: the byte is in its latch, and the sequence goes on only where the act lets it. -/
theorem executeTick_fetched {v i : Bool} {slot : Slot} {act : Byte → State → State} {s : State}
    (hacts : (MicroOp.fetch slot act).Acts (Acted v i)) (hslot : slot ≠ .opcode)
    (hrun : (s.busRead s.cpu.pc).2.stopped = none) :
    (s.executeTick .live (.fetch slot act)).operand slot = (s.busRead s.cpu.pc).1 ∧
      ∃ t : State, t.sq.cyc = s.sq.cyc ∧ ((s.executeTick .live (.fetch slot act)).settled = false →
        (act (s.busRead s.cpu.pc).1 t).settled = false ∧
          (act (s.busRead s.cpu.pc).1 t).sq.cyc ≤ (s.executeTick .live (.fetch slot act)).sq.cyc) := by
  have hp : (MicroOp.fetch slot act).perform .live s = act (s.busRead s.cpu.pc).1 _ :=
    (MicroOp.perform_fetch slot act .live s).trans (State.unlessStopped_eq hrun _)
  have hact := hacts (s.busRead s.cpu.pc).1 ((s.busRead s.cpu.pc).2.incPC.keepOperand slot (s.busRead s.cpu.pc).1)
  have hlate := Outside.hostCalls ((MicroOp.fetch slot act).perform .live s) .afterCpu
  have hran : Ran v i _ (s.executeTick .live (.fetch slot act)) := hlate.ran.trans (Ran.endTick _ Lat.executed)
  refine ⟨?_, _, ?_, fun hx => ⟨?_, hp ▸ hran.cyc⟩⟩
  · have hop : (s.executeTick .live (.fetch slot act)).operand slot = _ := hlate.operand slot
    rw [hop, hp]
    exact (hact.operand slot).trans (State.operand_keepOperand hslot _)
  · have hsq := congrArg Latches.cyc (s.busRead_sq s.cpu.pc)
    cases slot <;> exact hsq
  · by_contra hset
    rw [Bool.not_eq_false] at hset
    have hset' := State.settled_hostCalls (hp ▸ hset) .afterCpu
    exact absurd hx (by rw [Bool.not_eq_false]; exact hset')

/-- A sequence that is given the bytes which its live run fetches runs as it does live. -/
theorem runSeq_feed {q : Sequence} {i : Bool} {l : List Source} (hq : q.Operates i l) {g : Feed} (n : Nat) {s : State}
    (hc : 2 ≤ s.sq.cyc)
    (hg : ∀ slot, slot ≠ .opcode → slot.bytes ≤ q.bytes → ∀ d, g.pick slot d = (runSeq .live q n s).operand slot) :
    runSeq g q n s = runSeq .live q n s := by
  induction n generalizing s with
  | zero => rfl
  | succ n ih =>
    rw [runSeq_succ] at hg
    rw [runSeq_succ, runSeq_succ]
    have hphi : Ran true true s s.phi1 := (Outside.phi1 s).ran
    have hcu : 2 ≤ s.phi1.sq.cyc := hc.trans hphi.cyc
    generalize s.phi1 = u at hg hcu
    by_cases hset : u.settled = true
    · rw [if_pos hset, if_pos hset]
    rw [if_neg hset] at hg
    rw [if_neg hset, if_neg hset]
    by_cases hstall : u.stalls (q.micro u) = true
    · rw [if_pos hstall, if_pos hstall]
    rw [if_neg hstall] at hg
    rw [if_neg hstall, if_neg hstall]
    have hacts := Sequence.micro_acts hq u
    have htick : u.executeTick g (q.micro u) = u.executeTick .live (q.micro u) := by
      refine congrArg (fun t : State => (t.hostCalls .afterCpu).endTick Lat.executed) (MicroOp.perform_feed ?_)
      intro slot hslot hrun
      have hf := Sequence.micro_fetches hq hcu hslot
      cases hm : q.micro u with
      | read addr act => rw [hm] at hslot; cases hslot
      | write pre addr value post => rw [hm] at hslot; cases hslot
      | fetch slot' act =>
        rw [hm] at hslot hf hg hacts
        injection hslot with hslot
        subst hslot
        have ho : slot' ≠ .opcode ∧ slot'.bytes ≤ q.bytes := by
          rcases hf with ⟨-, hf⟩ | ⟨-, hf⟩ <;> exact ⟨hf.operand, hf.bytes⟩
        obtain ⟨hop, t, htc, hgo⟩ := executeTick_fetched hacts ho.1 hrun
        rw [hg slot' ho.1 ho.2]
        split
        · exact hop
        · rename_i hx
          obtain ⟨hact, hcyc⟩ := hgo (by simpa using hx)
          rcases hf with ⟨hlast, hf⟩ | ⟨-, hf⟩
          · rw [runSeq_operand hq hlast _ _ ?_, hop]
            have hnext := (hf.next act rfl (u.busRead u.cpu.pc).1 t).resolve_left (by simp [hact])
            have := hf.cycle
            omega
          · have hend := State.settled_of_boundary (hf.ends act rfl (u.busRead u.cpu.pc).1 t)
            simp [hact] at hend
    rw [htick]
    split
    · rfl
    · rename_i hx
      rw [if_neg hx] at hg
      refine ih ?_ hg
      have hran : Ran q.vectored i u (u.executeTick .live (q.micro u)) :=
        ((MicroOp.perform_ran hacts .live u).trans (Outside.hostCalls _ _).ran).trans (Ran.endTick _ _)
      exact hcu.trans hran.cyc

theorem ofInstr_pick_opcode (b x y d : Byte) : (Feed.ofInstr (decodeBytes b x y)).pick .opcode d = b :=
  (encode_opcode _).trans (decodeBytes_opcode b x y)

/-- The instruction decoded from the latches gives their bytes, as far as its mode has them. -/
theorem ofInstr_pick_operand {b : Byte} {s : State} {slot : Slot} (hslot : slot ≠ .opcode)
    (hb : slot.bytes ≤ (decodeBytes b s.sq.op1 s.sq.op2).length) (d : Byte) :
    (Feed.ofInstr (decodeBytes b s.sq.op1 s.sq.op2)).pick slot d = s.operand slot := by
  obtain ⟨hfirst, hsecond⟩ := (decodeBytes_faithful b s.sq.op1 s.sq.op2).2
  cases slot with
  | opcode => exact absurd rfl hslot
  | first => exact hfirst hb
  | second => exact hsecond hb

theorem sequenceOf_decodeBytes (b x y : Byte) : sequenceOf (decodeBytes b x y) = opcodeSequence b := by
  simp only [opcodeSequence, sequenceOf, Instr.mnem, Instr.mode, (decodeBytes_faithful b x y).1]

/-- An instruction that the step has decoded runs as the live machine fetches it (log 10). -/
theorem exec_fetchedInstr {s t : State} (hstall : s.clearLogs.phi1.stalls terminalFetch = false)
    (h : exec s.clearLogs.phi1.fetchedInstr s = .next t) :
    let x := s.clearLogs.phi1.executeTick .live terminalFetch
    x.stopped = none ∧ t = runSeq .live (opcodeSequence x.sq.ir) 7 x := by
  obtain ⟨-, hrun, hc⟩ := exec_cases h
  generalize s.clearLogs.phi1 = u at *
  rcases hc with ⟨hs, -⟩ | ⟨-, ht⟩
  · simp [hstall] at hs
  intro x
  have hx : u.executeTick (Feed.ofInstr u.fetchedInstr) terminalFetch = x := by
    refine congrArg (fun t : State => (t.hostCalls .afterCpu).endTick Lat.executed) (MicroOp.perform_feed ?_)
    intro slot hslot hread
    injection hslot with hslot
    subst hslot
    have hp : (terminalFetch.perform .live u).stopped = none := by
      unfold terminalFetch
      rw [MicroOp.perform_fetch, State.unlessStopped_eq hread]
      exact hread
    have hir : x.sq.ir = _ := (Outside.hostCalls (terminalFetch.perform .live u) .afterCpu).operand .opcode
    exact (ofInstr_pick_opcode x.sq.ir _ _ _).trans (hir.trans (congrArg Latches.ir (terminalFetch_perform hp).1))
  rw [hx] at ht
  have hxrun : x.stopped = none := running_of_runSeq (ht ▸ hrun)
  refine ⟨hxrun, ?_⟩
  have hcyc : 2 ≤ x.sq.cyc := by
    have hcyc := (Outside.hostCalls (terminalFetch.perform .live u) .afterCpu).ran (v := true) (i := true) |>.cyc
    rwa [(terminalFetch_perform (State.executeTick_running hxrun)).1] at hcyc
  have hseq : sequenceOf u.fetchedInstr = opcodeSequence x.sq.ir := sequenceOf_decodeBytes _ _ _
  rw [ht, hseq]
  refine runSeq_feed (q := opcodeSequence x.sq.ir) (sequenceOf_operates _) 7 hcyc fun slot hslot hb d => ?_
  rw [← hseq, sequenceOf_bytes] at hb
  exact ofInstr_pick_operand hslot hb d

/-! ### A run of ticks is a run of half-ticks (R15, R150) -/

theorem State.halfTicks_add (m n : Nat) (s : State) : State.halfTicks (m + n) s = State.halfTicks n (State.halfTicks m s) := by
  induction m generalizing s with
  | zero => rw [Nat.zero_add]; rfl
  | succ m ih => rw [Nat.succ_add]; exact ih _

theorem State.phi1_half (s : State) : s.phi1.half = .phi2 := by
  unfold State.phi1
  split
  · assumption
  · rfl

/-- PHI1, if it has not run yet, is one half-tick. -/
theorem State.halfTicks_phi1 {s : State} (h : s.stopped = none) : ∃ j, j ≤ 1 ∧ State.halfTicks j s = s.phi1 := by
  cases hh : s.half with
  | phi2 => exact ⟨0, Nat.zero_le _, by simp [State.halfTicks, State.phi1, hh]⟩
  | phi1 => exact ⟨1, Nat.le_refl _, by simp [State.halfTicks, State.halfTick, State.unlessStopped_eq h, hh]⟩

/-- The half-tick after PHI1 is PHI2. -/
theorem State.halfTick_phi2 {s : State} (h : s.phi1.stopped = none) : s.phi1.halfTick = s.phi1.phi2 := by
  simp [State.halfTick, State.unlessStopped_eq h, State.phi1_half]

/-- PHI2 in the middle of a sequence. -/
theorem State.phi2_of_sequence {s : State} (h : s.sq.seq ≠ .boundary) :
    s.phi2 =
      if s.stalls (s.currentSequence.micro s) then (s.currentSequence.markStall s).stallTick
      else s.executeTick .live (s.currentSequence.micro s) := by
  unfold State.phi2
  split
  · contradiction
  · rfl

/-- PHI2 at a terminal (R152, R477). -/
theorem State.phi2_of_boundary {s : State} (h : s.sq.seq = .boundary) :
    s.phi2 =
      if s.stalls terminalFetch then s.stallTick
      else if s.pollFaults then s.uninitFault else s.terminalTick s.decision := by
  unfold State.phi2
  rw [h]

/-- A machine that is still in a sequence is in the same one. -/
theorem Ran.currentSequence {v i : Bool} {s t : State} (h : Ran v i s t) (ht : t.sq.seq ≠ .boundary) :
    s.sq.seq ≠ .boundary ∧ t.currentSequence = s.currentSequence := by
  have hseq : t.sq.seq = s.sq.seq := h.seq.resolve_right ht
  exact ⟨hseq ▸ ht, by simp only [State.currentSequence, hseq, h.ir]⟩

/-- A live run of ticks of the sequence that SEQ names is a run of half-ticks, two for each tick at most, and one at least where
the sequence goes on after PHI1. -/
theorem runSeq_halfTicks {q : Sequence} {i : Bool} {l : List Source} (hq : q.Operates i l) (n : Nat) {s : State}
    (hs : s.stopped = none) (hcur : s.sq.seq ≠ .boundary → s.currentSequence = q) :
    ∃ k, k ≤ 2 * n ∧ State.halfTicks k s = runSeq .live q n s ∧ (0 < n → s.phi1.settled = false → 0 < k) := by
  induction n generalizing s with
  | zero => exact ⟨0, Nat.le_refl _, rfl, fun h => absurd h (Nat.lt_irrefl 0)⟩
  | succ n ih =>
    rw [runSeq_succ]
    obtain ⟨j, hj, hphi⟩ := State.halfTicks_phi1 hs
    by_cases hset : s.phi1.settled = true
    · rw [if_pos hset]
      exact ⟨j, by omega, hphi, fun _ h => by simp [hset] at h⟩
    rw [if_neg hset]
    have hgo := State.not_settled_iff.mp hset
    obtain ⟨hseq, hsame⟩ := ((Outside.phi1 s).ran (v := true) (i := true)).currentSequence hgo.2
    rw [hcur hseq] at hsame
    have hphi2 : State.halfTicks (j + 1) s = s.phi1.phi2 := by
      rw [State.halfTicks_add, hphi, ← State.halfTick_phi2 hgo.1]; rfl
    rw [State.phi2_of_sequence hgo.2, hsame] at hphi2
    by_cases hstall : s.phi1.stalls (q.micro s.phi1) = true
    · rw [if_pos hstall] at hphi2 ⊢
      exact ⟨j + 1, by omega, hphi2, fun _ _ => Nat.succ_pos j⟩
    rw [if_neg hstall] at hphi2 ⊢
    by_cases hx : (s.phi1.executeTick .live (q.micro s.phi1)).settled = true
    · rw [if_pos hx]
      exact ⟨j + 1, by omega, hphi2, fun _ _ => Nat.succ_pos j⟩
    rw [if_neg hx]
    have hran : Ran q.vectored i s.phi1 (s.phi1.executeTick .live (q.micro s.phi1)) :=
      ((MicroOp.perform_ran (Sequence.micro_acts hq _) .live _).trans (Outside.hostCalls _ _).ran).trans (Ran.endTick _ _)
    obtain ⟨k, hk, hrun, -⟩ := ih (State.not_settled_iff.mp hx).1 fun h => (hran.currentSequence h).2.trans hsame
    exact ⟨j + 1 + k, by omega, by rw [State.halfTicks_add, hphi2, hrun], fun _ _ => by omega⟩

/-! ### O13 -/

/-- The tick of an entry's terminal leaves the entry's sequence under way, or a forced jump has ended it (R152, R158). -/
theorem terminalTick_entry {k : Entry} {s : State} (h : (s.terminalTick (some k)).stopped = none) :
    (s.terminalTick (some k)).sq.seq = .entry k ∨ (s.terminalTick (some k)).sq.seq = .boundary := by
  have hp : ((terminalEntry k s).perform .live (s.accept k)).stopped = none := State.executeTick_running h
  have hseq : ((terminalEntry k s).perform .live (s.accept k)).sq.seq = .entry k := by
    unfold terminalEntry MicroOp.discard at hp ⊢
    rw [MicroOp.perform_read] at hp ⊢
    rw [(State.unlessStopped_running hp).2]
    rfl
  exact (Outside.hostCalls _ .afterCpu).jump.imp_left fun hj => hj.2.trans hseq

/-- The same of the tick of a terminal that fetches an opcode. -/
theorem executeTick_terminalFetch {f : Feed} {s : State} (h : (s.executeTick f terminalFetch).stopped = none) :
    (s.executeTick f terminalFetch).sq.seq = .op ∨ (s.executeTick f terminalFetch).sq.seq = .boundary := by
  have hseq := congrArg Latches.seq (terminalFetch_perform (State.executeTick_running h)).1
  exact (Outside.hostCalls _ .afterCpu).jump.imp_left fun hj => hj.2.trans hseq

/-- Settles O13: PHI1 of the step's first tick, PHI2 of it, and the run of the sequence that it starts or takes up. -/
theorem stepIsARunOfHalfTicks : Obligations.StepIsARunOfHalfTicks := by
  intro s t h
  obtain ⟨hrun, htrun, hc⟩ := step_cases h
  have hs := State.running_of_phi1 hrun
  obtain ⟨j, hj, hphi⟩ := State.halfTicks_phi1 hs
  have hphi2 : State.halfTicks (j + 1) s.clearLogs = s.clearLogs.phi1.phi2 := by
    rw [State.halfTicks_add, hphi, ← State.halfTick_phi2 hrun]; rfl
  cases hc with
  | stall hseq hstall ht =>
    rw [State.phi2_of_boundary hseq, if_pos hstall, ← ht] at hphi2
    exact ⟨j + 1, by omega, by omega, hphi2⟩
  | enter e hseq hstall hpoll he ht =>
    rw [State.phi2_of_boundary hseq, if_neg (by simp [hstall]), if_neg (by simp [hpoll]), he] at hphi2
    subst ht
    have hx := running_of_runSeq htrun
    obtain ⟨k, hk, hkt, -⟩ := runSeq_halfTicks (q := .entry e) (i := false) (l := []) rfl 6 hx fun hb => by
      rw [State.currentSequence, (terminalTick_entry hx).resolve_right hb]
    exact ⟨j + 1 + k, by omega, by omega, by rw [State.halfTicks_add, hphi2, hkt]; rfl⟩
  | fetch hseq hstall hpoll hk ht =>
    rw [State.phi2_of_boundary hseq, if_neg (by simp [hstall]), if_neg (by simp [hpoll]), hk] at hphi2
    obtain ⟨hx, ht⟩ := exec_fetchedInstr hstall ht
    obtain ⟨k, hk, hkt, -⟩ := runSeq_halfTicks (sequenceOf_operates _) 7 hx fun hb => by
      rw [State.currentSequence, (executeTick_terminalFetch hx).resolve_right hb]; rfl
    exact ⟨j + 1 + k, by omega, by omega, by rw [State.halfTicks_add, hphi2, ht]; exact hkt⟩
  | resume hseq ht =>
    obtain ⟨_, _, hq⟩ := s.clearLogs.phi1.currentSequence_operates
    obtain ⟨k, hk, hkt, hpos⟩ := runSeq_halfTicks hq 8 hrun fun _ => rfl
    have hset : s.clearLogs.phi1.phi1.settled = false := by
      rw [State.phi1, State.phi1_half]
      exact State.not_settled hrun hseq
    have hk0 := hpos (by decide) hset
    exact ⟨j + k, by omega, by omega, by rw [State.halfTicks_add, hphi, hkt, ht]; rfl⟩

end Sys2Proof.Machine

namespace Sys2Proof.Machine

/-! ### What leaves an unwritten register unwritten -/

/-- From `s` to `t` nothing has written `r`, a sound machine stays sound, and the environment is as it was. -/
structure Still (r : Source) (s t : State) : Prop where
  lacks : s.lacks r → t.lacks r
  sound : s.sound → t.sound
  params : t.params = s.params
  hold : t.busHold = s.busHold
  stays : Stays s t

theorem Still.trans {r : Source} {s t u : State} (h : Still r s t) (g : Still r t u) : Still r s u :=
  ⟨g.lacks ∘ h.lacks, g.sound ∘ h.sound, g.params.trans h.params, g.hold.trans h.hold, h.stays.trans g.stays⟩

/-- A change of registers without a `written` bit, of latches and of requests. -/
theorem Still.of_eq {r : Source} {s t : State} (hw : t.cpu.written = s.cpu.written) (hs : s.sound → t.sound)
    (hp : t.params = s.params) (hh : t.busHold = s.busHold) (ht : Stays s t) : Still r s t :=
  ⟨fun h => h.of_eq hp (by rw [hw]), hs, hp, hh, ht⟩

/-- Device activity that on the bare core writes nothing (R45, R651). -/
theorem Dev.still {r : Source} {s t : State} (h : Dev s t)
    (hv : s.params.platform = .core → t.cpu.written.v = s.cpu.written.v) : Still r s t :=
  ⟨fun hl => hl.dev h hv, h.sound, h.params, h.busHold, h.stays⟩

theorem State.busRead_cpu_core {s : State} (h : s.params.platform = .core) (a : Word) : (s.busRead a).2.cpu = s.cpu := by
  have hd : s.deviceAt a = none := by simp [State.deviceAt, h]
  simp only [State.busRead, State.readMemory, hd]
  split <;> rfl

theorem State.busWrite_cpu_core {s : State} (h : s.params.platform = .core) (a : Word) (v : Byte) :
    (s.busWrite a v).cpu = s.cpu := by
  have hd : s.deviceAt a = none := by simp [State.deviceAt, h]
  simp only [State.busWrite, State.writeMemory, hd]
  split <;> rfl

theorem Still.busClosed {r : Source} : BusClosed (Still r) where
  trans := Still.trans
  read s a := by
    obtain ⟨t, ht, hd, -⟩ := s.busRead_dev a
    have hcore := fun h => congrArg (fun c : Cpu => c.written.v) (State.busRead_cpu_core (s := s) h a)
    rw [ht] at hcore ⊢
    exact (hd.still hcore).trans (Still.of_eq rfl id rfl rfl (Stays.logBus _ _))
  write s a v := by
    obtain ⟨t, ht, hd⟩ := s.busWrite_dev a v
    have hcore := fun h => congrArg (fun c : Cpu => c.written.v) (State.busWrite_cpu_core (s := s) h a v)
    rw [ht] at hcore ⊢
    have hst : Still r s t := by
      rcases hd with ⟨-, rfl⟩ | ⟨-, hd⟩
      · exact Still.of_eq rfl id rfl rfl ⟨rfl, rfl⟩
      · exact hd.still hcore
    exact hst.trans (Still.of_eq rfl id rfl rfl (Stays.logBus _ _))

theorem State.attachDue_cpu (s : State) : s.attachDue.cpu = s.cpu := by
  unfold State.attachDue
  split
  · split <;> rfl
  · rfl

/-- On a bare core PHI1 changes no register (R45: no device is there). -/
theorem State.phi1_cpu_core {s : State} (hq : s.quietFor 0 = true) (h : s.params.platform = .core) : s.phi1.cpu = s.cpu := by
  have place : ∀ (u : State) (m : Moment), u.params.platform = .core ∧ u.quietFor 0 = true ∧ u.cpu = s.cpu →
      (u.hostCalls m).attachDue.params.platform = .core ∧ (u.hostCalls m).attachDue.quietFor 0 = true ∧
        (u.hostCalls m).attachDue.cpu = s.cpu := by
    rintro u m ⟨hp, hu, hc⟩
    rw [State.hostCalls_quiet hu]
    exact ⟨(Dev.attachDue u).params ▸ hp, (Dev.attachDue u).quiet hu, (State.attachDue_cpu u).trans hc⟩
  have via : ∀ (u : State) k, u.params.platform = .core → u.viaStep k = u := fun u k hu => by simp [State.viaStep, hu]
  have rot : ∀ u : State, u.params.platform = .core → u.rotationStep = u := fun u hu => by simp [State.rotationStep, hu]
  unfold State.phi1
  split
  · rfl
  · have h1 := place s .beforeVia1 ⟨h, hq, rfl⟩
    rw [← via _ .via1 h1.1] at h1
    have h2 := place _ .beforeVia2 h1
    rw [← via _ .via2 h2.1] at h2
    have h3 := place _ .beforeRotation h2
    rw [← rot _ h3.1] at h3
    simp only [State.phi1Events]
    rw [State.hostCalls_quiet h3.2.1]
    exact h3.2.2

theorem Still.phi1 {r : Source} {s : State} (hq : s.quietFor 0 = true) : Still r s s.phi1 := by
  have hd := (s.phi1_dev hq).still (r := r) fun hc => by rw [State.phi1_cpu_core hq hc]
  exact ⟨hd.lacks, hd.sound, hd.params, hd.hold, hd.stays.agenda, hd.stays.tick⟩

theorem Still.calm {r : Source} {n : Nat} {s t : State} (h : Still r s t) (hc : Calm n s) : Calm n t := by
  have hs := h.sound ⟨hc.running, hc.lines⟩
  exact ⟨hs.1, hs.2, h.hold.trans hc.hold, h.stays.quiet hc.quiet,
    by simpa only [State.plainPages, h.params] using hc.pages⟩

theorem Calm.sound {n : Nat} {s : State} (h : Calm n s) : s.sound := ⟨h.running, h.lines⟩

/-- A calm tick whose micro-op writes nothing that is unwritten: the machine is calm for one tick less. -/
theorem Still.executeTick {r : Source} {n : Nat} {f : Feed} {m : MicroOp} {s : State} (hc : Calm (n + 1) s)
    (h : Still r s (m.perform f s)) (hl : s.lacks r) :
    s.executeTick f m = (m.perform f s).endTick .executed ∧ Calm n (s.executeTick f m) ∧ (s.executeTick f m).lacks r := by
  have hp := h.calm hc
  have ht := State.executeTick_quiet (hp.mono (Nat.zero_le _)).quiet
  refine ⟨ht, ?_, ?_⟩
  · rw [ht]
    refine ⟨hp.running, hp.lines, hp.hold, ?_, hp.pages⟩
    have hq := hp.quiet
    simp only [State.quietFor, List.all_eq_true, decide_eq_true_eq] at hq ⊢
    intro d hd
    have hlater := hq d hd
    rw [State.endTick_tick]
    omega
  · rw [ht]
    exact (h.lacks hl).of_eq rfl rfl

/-! ### The cycles before the use of an unwritten register, and the use -/

/-- `t` is the same sequence one cycle on, and `r` is as unwritten as before. -/
structure Advances (r : Source) (s t : State) : Prop extends Still r s t where
  seq : t.sq.seq = s.sq.seq
  cyc : t.sq.cyc = s.sq.cyc + 1

/-- The fault UNINIT_REG (R46, R503). -/
def State.uninit (s : State) : Prop := s.stopped = some .uninitReg

/-- A micro-op that does not use `r`: it advances the sequence, or it stops at another register that nothing has written. -/
def MicroOp.Waits (r : Source) : MicroOp → Prop
  | .read _ act => ∀ d (t : State), t.sound → (act d t).uninit ∨ Advances r t (act d t)
  | .fetch _ act => ∀ d (t : State), t.sound → (act d t).uninit ∨ Advances r t (act d t)
  | .write pre _ _ post => (∀ t, pre t = t) ∧ ∀ t, Advances r t (post t)

/-- A micro-op that uses `r`: where nothing has written it the machine stops. -/
def MicroOp.Stops (r : Source) : MicroOp → Prop
  | .read _ act => ∀ d (t : State), t.sound → t.lacks r → (act d t).uninit
  | .fetch _ act => ∀ d (t : State), t.sound → t.lacks r → (act d t).uninit
  | .write pre _ _ post =>
    (∀ t : State, t.sound → t.lacks r → (pre t).uninit) ∨
      ((∀ t, pre t = t) ∧ ∀ t : State, t.sound → t.lacks r → (post t).uninit)

theorem State.uninit.unlessStopped {s : State} (h : s.uninit) (k : State → State) : (s.unlessStopped k).uninit := by
  rw [State.unlessStopped_stopped (by rw [h]; rfl)]
  exact h

theorem Still.fetched {r : Source} (s : State) (slot : Slot) (b : Byte) : Still r s (s.incPC.keepOperand slot b) := by
  cases slot <;> exact Still.of_eq rfl id rfl rfl ⟨rfl, rfl⟩

theorem MicroOp.Stops.perform {r : Source} {m : MicroOp} (h : m.Stops r) (f : Feed) {s : State} (hs : s.sound)
    (hl : s.lacks r) : (m.perform f s).uninit := by
  have after : ∀ {u : State} {k : State → State}, Still r s u → (u.sound → u.lacks r → (k u).uninit) →
      (u.unlessStopped k).uninit := fun hu hk => by
    rw [State.unlessStopped_eq (hu.sound hs).1]
    exact hk (hu.sound hs) (hu.lacks hl)
  cases m with
  | read addr act => exact after (Still.busClosed.read s addr) (h _ _)
  | fetch slot act =>
    rw [MicroOp.perform_fetch]
    exact after (Still.busClosed.read s _) fun hu hul =>
      h _ _ ((Still.fetched (r := r) _ slot _).sound hu) ((Still.fetched _ slot _).lacks hul)
  | write pre addr value post =>
    rw [MicroOp.perform_write]
    rcases h with h | ⟨hpre, hpost⟩
    · exact (h s hs hl).unlessStopped _
    · rw [hpre, State.unlessStopped_eq hs.1]
      exact after (Still.busClosed.write s _ _) (hpost _)

theorem Advances.after {r : Source} {s t u : State} (h : Still r s t) (hseq : t.sq.seq = s.sq.seq) (hcyc : t.sq.cyc = s.sq.cyc)
    (g : Advances r t u) : Advances r s u :=
  ⟨h.trans g.toStill, g.seq.trans hseq, by rw [g.cyc, hcyc]⟩

theorem MicroOp.Waits.perform {r : Source} {m : MicroOp} (h : m.Waits r) (f : Feed) {s : State} (hs : s.sound) :
    (m.perform f s).uninit ∨ Advances r s (m.perform f s) := by
  have after : ∀ {u : State} {k : State → State}, Still r s u → u.sq.seq = s.sq.seq → u.sq.cyc = s.sq.cyc →
      (u.sound → (k u).uninit ∨ Advances r u (k u)) →
      (u.unlessStopped k).uninit ∨ Advances r s (u.unlessStopped k) := fun hu hq hc hk => by
    rw [State.unlessStopped_eq (hu.sound hs).1]
    exact (hk (hu.sound hs)).imp_right (Advances.after hu hq hc)
  cases m with
  | read addr act =>
    rw [MicroOp.perform_read]
    exact after (Still.busClosed.read s addr) (congrArg Latches.seq (State.busRead_sq s addr))
      (congrArg Latches.cyc (State.busRead_sq s addr)) (h _ _)
  | fetch slot act =>
    rw [MicroOp.perform_fetch]
    refine after (Still.busClosed.read s _) (by rw [State.busRead_sq]) (by rw [State.busRead_sq]) fun hu => ?_
    have hf := Still.fetched (r := r) (s.busRead s.cpu.pc).2 slot (f.pick slot (s.busRead s.cpu.pc).1)
    exact (h _ _ (hf.sound hu)).imp_right (Advances.after hf (by cases slot <;> rfl) (by cases slot <;> rfl))
  | write pre addr value post =>
    rw [MicroOp.perform_write, h.1, State.unlessStopped_eq hs.1]
    exact after (Still.busClosed.write s _ _) (by rw [State.busWrite_sq]) (by rw [State.busWrite_sq]) fun _ => .inr (h.2 _)

/-- Every cycle of the sequence from 2 to `last` waits for the use of `r` or is it, and `last` is it. -/
def Sequence.StopsBy (q : Sequence) (r : Source) (last : Nat) : Prop :=
  ∀ u : State, 2 ≤ u.sq.cyc → u.sq.cyc ≤ last → (q.micro u).Stops r ∨ (u.sq.cyc < last ∧ (q.micro u).Waits r)

theorem State.uninit.executeTick {f : Feed} {m : MicroOp} {s : State} (h : (m.perform f s).uninit) :
    (s.executeTick f m).uninit :=
  (State.hostCalls_stopped (by rw [h]; rfl) .afterCpu).trans h

theorem State.uninit.settled {s : State} (h : s.uninit) : s.settled = true := State.settled_iff.mpr (.inl (by rw [h]; rfl))

/-- Such a sequence stops with UNINIT_REG when it runs long enough and calmly. -/
theorem Sequence.StopsBy.runSeq {q : Sequence} {r : Source} {last : Nat} (hq : q.StopsBy r last) (f : Feed) (n : Nat)
    {s : State} (hc : Calm n s) (hl : s.lacks r) (hseq : s.sq.seq ≠ .boundary) (h2 : 2 ≤ s.sq.cyc) (hle : s.sq.cyc ≤ last)
    (hn : last < s.sq.cyc + n) : (runSeq f q n s).uninit := by
  induction n generalizing s with
  | zero => omega
  | succ n ih =>
    have hquiet := (hc.mono (Nat.zero_le _)).quiet
    have hphi := Still.phi1 (r := r) hquiet
    have hsq : s.phi1.sq = s.sq := (s.phi1_dev hquiet).sq
    have hcu := hphi.calm hc
    have hlu := hphi.lacks hl
    rw [runSeq_succ]
    generalize s.phi1 = u at *
    rw [← hsq] at hseq h2 hle hn
    have hset : u.settled = false := State.not_settled hcu.running hseq
    have hstall : u.stalls (q.micro u) = false := by simp [State.stalls, hcu.hold]
    rw [if_neg (by simp [hset]), if_neg (by simp [hstall])]
    have hstop : ((q.micro u).perform f u).uninit ∨ (u.sq.cyc < last ∧ Advances r u ((q.micro u).perform f u)) := by
      rcases hq u h2 hle with h | ⟨hlt, h⟩
      · exact .inl (h.perform f hcu.sound hlu)
      · exact (h.perform f hcu.sound).imp_right fun h => ⟨hlt, h⟩
    rcases hstop with h | ⟨hlt, h⟩
    · rw [if_pos h.executeTick.settled]
      exact h.executeTick
    · obtain ⟨ht, hcx, hlx⟩ := h.toStill.executeTick hcu hlu
      have hseqx : (u.executeTick f (q.micro u)).sq.seq ≠ .boundary := by
        rw [ht]
        exact h.seq ▸ hseq
      have hcycx : (u.executeTick f (q.micro u)).sq.cyc = u.sq.cyc + 1 := by
        rw [ht]
        exact h.cyc
      rw [if_neg (by simp [State.not_settled hcx.running hseqx])]
      exact ih hcx hlx hseqx (by omega) (by omega) (by omega)

end Sys2Proof.Machine

namespace Sys2Proof.Machine

/-! ### The cycles of an address, and the index -/

theorem State.lacks.using {r : Source} {l : List Source} {s : State} (hl : s.lacks r) (hr : r ∈ l) (hs : s.sound)
    (k : State → State) : (s.using l k).uninit := by
  rw [State.using_fault (hl.mayUse hr)]
  exact hs.fault

/-- The next cycle, after a change of latches and of registers without a `written` bit. -/
theorem Advances.of_eq {r : Source} {s t : State} (hw : t.cpu.written = s.cpu.written) (hs : s.sound → t.sound)
    (hp : t.params = s.params) (hh : t.busHold = s.busHold) (ht : Stays s t) (hseq : t.sq.seq = s.sq.seq)
    (hcyc : t.sq.cyc = s.sq.cyc + 1) : Advances r s t := ⟨Still.of_eq hw hs hp hh ht, hseq, hcyc⟩

theorem Advances.nextCycle {r : Source} (s : State) : Advances r s s.nextCycle :=
  Advances.of_eq rfl id rfl rfl ⟨rfl, rfl⟩ rfl rfl

theorem Advances.setDATA {r : Source} (s : State) (b : Byte) : Advances r s (s.setDATA b).nextCycle :=
  Advances.of_eq rfl id rfl rfl ⟨rfl, rfl⟩ rfl rfl

theorem Advances.fixEA {r : Source} (s : State) : Advances r s s.fixEA.nextCycle := by
  unfold State.fixEA
  split
  · exact Advances.of_eq rfl id rfl rfl ⟨rfl, rfl⟩ rfl rfl
  · exact Advances.nextCycle s

theorem Advances.using {r : Source} {l : List Source} {k : State → State} {s : State} (h : Advances r s (k s))
    (hs : s.sound) : (s.using l k).uninit ∨ Advances r s (s.using l k) :=
  State.using_keeps (P := fun t => t.uninit ∨ Advances r s t) (.inr h) (.inl hs.fault)

theorem addressCycle_waits {r : Source} (m : Mode) (s : State) (c : Nat) : (addressCycle m s c).Waits r := by
  unfold addressCycle
  split
  case h_6 | h_7 | h_12 | h_13 | h_14 | h_18 =>
    exact fun _ _ hs => Advances.using (Advances.of_eq rfl id rfl rfl ⟨rfl, rfl⟩ rfl rfl) hs
  case h_19 => exact fun _ t _ => .inr (Advances.fixEA t)
  all_goals exact fun _ _ _ => .inr (Advances.of_eq rfl id rfl rfl ⟨rfl, rfl⟩ rfl rfl)

/-- The cycle in which an indexed mode reads its index register (R164, R170, R173, R176). -/
def indexCycle : Mode → Nat
  | .izy => 4
  | _ => 3

theorem addressCycle_stops {r : Source} {m : Mode} (h : r ∈ indexSources m) (s : State) :
    (addressCycle m s (indexCycle m)).Stops r := by
  cases m with
  | zpx | zpy | abx | aby | izx | izy => exact fun _ t hs hl => hl.using h hs _
  | _ => exact absurd h List.not_mem_nil

theorem indexCycle_lt {r : Source} {m : Mode} (h : r ∈ indexSources m) (always : Bool) :
    indexCycle m < accessCycle m always := by
  cases m with
  | zpx | zpy | abx | aby | izx | izy => cases always <;> decide
  | _ => exact absurd h List.not_mem_nil

theorem Follows.waits {q : Sequence} {m : Mode} {always : Bool} {r : Source} (hq : Follows q m always) {u : State}
    (h : u.sq.cyc < accessCycle m always) : (q.micro u).Waits r := by
  rw [hq u h]
  exact addressCycle_waits m u _

/-- An unwritten index register stops the sequence in the cycle that reads it. -/
theorem Follows.stopsBy {q : Sequence} {m : Mode} {always : Bool} {r : Source} (hq : Follows q m always)
    (hr : r ∈ indexSources m) : q.StopsBy r (indexCycle m) := by
  intro u _ hle
  have hlt := indexCycle_lt hr always
  rcases Nat.lt_or_eq_of_le hle with hc | hc
  · exact .inr ⟨hc, hq.waits (by omega)⟩
  · rw [hq u (by omega), hc]
    exact .inl (addressCycle_stops hr u)

theorem follows_read {m : Mode} (hm : m ≠ .imm) (rd : Byte → State → State) : Follows (.read m rd) m false := by
  intro u hu
  cases m with
  | imm => exact absurd rfl hm
  | _ => exact if_pos hu

theorem follows_write (m : Mode) (l : List Source) (value : State → Byte) : Follows (.write m l value) m true :=
  fun _ h => if_pos h

theorem follows_rmw (m : Mode) (f : Byte → State → Byte × State) : Follows (.rmw m f) m true := fun _ h => if_pos h

theorem follows_sh (m : Mode) (prep : State → State) (src : State → Byte) : Follows (.sh m prep src) m true :=
  fun _ h => if_pos h

/-- The addressing mode of a sequence that computes an effective address. -/
def Sequence.mode : Sequence → Mode
  | .read m _ | .write m _ _ | .rmw m _ | .sh m _ _ => m
  | _ => .imp

theorem indexSources_sequenceOf (i : Instr) : indexSources (sequenceOf i).mode = indexSources i.mode := by
  cases i <;> rfl

theorem Sequence.stopsBy_index {q : Sequence} {r : Source} (hr : r ∈ indexSources q.mode) :
    q.StopsBy r (indexCycle q.mode) := by
  cases q with
  | read m rd =>
    have hm : m ≠ .imm := fun hm => by subst hm; exact absurd hr List.not_mem_nil
    exact (follows_read hm rd).stopsBy hr
  | write m l value => exact (follows_write m l value).stopsBy hr
  | rmw m f => exact (follows_rmw m f).stopsBy hr
  | sh m prep src => exact (follows_sh m prep src).stopsBy hr
  | _ => exact absurd hr List.not_mem_nil

/-! ### The use of a register by the operation -/

theorem accessCycle_bounds (m : Mode) (always : Bool) : 2 ≤ accessCycle m always ∧ accessCycle m always ≤ 6 := by
  cases m <;> cases always <;> decide

/-- The operation on the operand that has been read stops. -/
theorem Reads.stops_setDATA {i : Bool} {l : List Source} {op : State → State} {r : Source} (h : Reads i l op) (hr : r ∈ l)
    {t : State} (hs : t.sound) (hl : t.lacks r) (d : Byte) : (op (t.setDATA d)).uninit :=
  h.stops r hr _ hs (hl.of_eq rfl rfl)

/-- In the sequence of a read the operation uses its registers in the cycle of the last read (R156). -/
theorem stopsBy_read {i : Bool} {l : List Source} {m : Mode} {rd : Byte → State → State} {r : Source}
    (h : ∀ d, Reads i l (rd d)) (hr : r ∈ l) : (Sequence.read m rd).StopsBy r (accessCycle m false + 1) := by
  intro u _ hle
  have hop : ∀ d (t : State), t.sound → t.lacks r → (rd d (t.setDATA d)).finish.uninit :=
    fun d _ hs hl => (h d).stops_setDATA hr hs hl d
  by_cases hm : m = .imm
  · subst hm
    exact .inl hop
  by_cases hc : u.sq.cyc < accessCycle m false
  · exact .inr ⟨by omega, (follows_read hm rd).waits hc⟩
  have hmicro : (Sequence.read m rd).micro u =
      if canCross m && u.sq.cross && u.sq.cyc == accessCycle m false then
        .read u.sq.ea (fun d t => ((t.setDATA d).fixEA).nextCycle)
      else .read u.sq.ea (fun d t => (rd d (t.setDATA d)).finish) := by
    cases m with
    | imm => exact absurd rfl hm
    | _ => exact if_neg hc
  rw [hmicro]
  split
  · rename_i hcross
    rw [Bool.and_eq_true, beq_iff_eq] at hcross
    obtain ⟨-, hacc⟩ := hcross
    refine .inr ⟨by omega, fun d t _ => .inr ?_⟩
    have hdata : Still r t (t.setDATA d) := Still.of_eq rfl id rfl rfl ⟨rfl, rfl⟩
    exact Advances.after hdata rfl rfl (Advances.fixEA (t.setDATA d))
  · exact .inl hop

theorem stopsBy_write {l : List Source} {m : Mode} {value : State → Byte} {r : Source} (hr : r ∈ l) :
    (Sequence.write m l value).StopsBy r (accessCycle m true) := by
  intro u _ hle
  by_cases hc : u.sq.cyc < accessCycle m true
  · exact .inr ⟨hc, (follows_write m l value).waits hc⟩
  · have hmicro : (Sequence.write m l value).micro u = .write (fun t => t.uses l) (fun t => t.sq.ea) value State.finish :=
      if_neg hc
    rw [hmicro]
    exact .inl (.inl fun t hs hl => hl.using hr hs id)

theorem stopsBy_sh {i : Bool} {l : List Source} {m : Mode} {prep : State → State} {src : State → Byte} {r : Source}
    (h : Reads i l prep) (hr : r ∈ l) : (Sequence.sh m prep src).StopsBy r (accessCycle m true) := by
  intro u _ hle
  by_cases hc : u.sq.cyc < accessCycle m true
  · exact .inr ⟨hc, (follows_sh m prep src).waits hc⟩
  · have hmicro : (Sequence.sh m prep src).micro u = .write prep (shAddr src) (shValue src) State.finish := if_neg hc
    rw [hmicro]
    exact .inl (.inl fun t hs hl => h.stops r hr t hs hl)

/-- In a read-modify-write sequence the operation comes with the dummy write (R156). -/
theorem stopsBy_rmw {i : Bool} {l : List Source} {m : Mode} {f : Byte → State → Byte × State} {r : Source}
    (h : ∀ d, Reads i l (fun u => (f d u).2)) (hr : r ∈ l) : (Sequence.rmw m f).StopsBy r (accessCycle m true + 1) := by
  intro u _ hle
  by_cases hc : u.sq.cyc < accessCycle m true
  · exact .inr ⟨by omega, (follows_rmw m f).waits hc⟩
  have hmicro : (Sequence.rmw m f).micro u = rmwCycle m f u u.sq.cyc := rfl
  rw [hmicro, rmwCycle, if_neg hc]
  by_cases hacc : u.sq.cyc = accessCycle m true
  · rw [if_pos hacc]
    exact .inr ⟨by omega, fun d t _ => .inr (Advances.setDATA t d)⟩
  · rw [if_neg hacc, if_pos (by omega)]
    exact .inl (.inr ⟨fun _ => rfl, fun t hs hl => (h t.sq.data).stops r hr t hs hl⟩)

/-- A branch tests its flag in cycle 2, with the operand fetched (R340). -/
theorem branchCycle_stops {i : Bool} {l : List Source} {cond : State → Bool × State} {r : Source}
    (h : Reads i l (fun u => (cond u).2)) (hr : r ∈ l) (s : State) : (branchCycle cond s 2).Stops r := by
  intro d t hs hl
  have hstop : (cond { t with sq := { t.sq with off := d } }).2.uninit := h.stops r hr _ hs (hl.of_eq rfl rfl)
  dsimp only
  split <;> exact hstop

/-- A push that uses nothing. -/
theorem push_waits {r : Source} {value : State → Byte} {post : State → State} (h : ∀ t, Advances r t (post t)) :
    (MicroOp.push id value post).Waits r := by
  refine ⟨fun _ => rfl, fun t => ?_⟩
  have hdec : Still r t t.decS := Still.of_eq rfl id rfl rfl ⟨rfl, rfl⟩
  exact Advances.after hdec rfl rfl (h t.decS)

theorem Advances.selectVector {r : Source} (s : State) : Advances r s s.selectVector.nextCycle := by
  unfold State.selectVector
  split
  · exact Advances.of_eq rfl id rfl rfl ⟨rfl, rfl⟩ rfl rfl
  · exact Advances.nextCycle s

/-- BRK, NMI and IRQ push the status, which uses every flag, in cycle 5 (R484). -/
theorem takeInterrupt_stopsBy {r : Source} (hr : r ∈ statusSources) (hijackable : Bool) (s : State) {c : Nat} (h3 : 3 ≤ c)
    (h5 : c ≤ 5) : (takeInterrupt hijackable s c).Stops r ∨ (c < 5 ∧ (takeInterrupt hijackable s c).Waits r) := by
  obtain rfl | rfl | rfl : c = 3 ∨ c = 4 ∨ c = 5 := by omega
  · exact .inr ⟨by decide, push_waits Advances.nextCycle⟩
  · refine .inr ⟨by decide, push_waits (post := fun t => (if hijackable then t.selectVector else t).nextCycle) fun t => ?_⟩
    cases hijackable
    · exact Advances.nextCycle t
    · exact Advances.selectVector t
  · exact .inl (.inl fun t hs hl => (packAccess_reads (i := false)).stops r hr t hs hl)

theorem stopsBy_brk {r : Source} (hr : r ∈ statusSources) : Sequence.brk.StopsBy r 5 := by
  intro u h2 hle
  have hmicro : Sequence.brk.micro u = brkCycle u u.sq.cyc := rfl
  rw [hmicro]
  generalize u.sq.cyc = c at *
  by_cases hc : c = 2
  · subst hc
    exact .inr ⟨by decide, fun _ t _ => .inr (Advances.of_eq rfl id rfl rfl ⟨rfl, rfl⟩ rfl rfl)⟩
  · obtain ⟨n, rfl⟩ : ∃ n, c = n + 3 := ⟨c - 3, by omega⟩
    exact takeInterrupt_stopsBy hr true u (by omega) hle

theorem stopsBy_entry {k : Entry} (hk : k ∈ [Entry.nmi, .irq]) {r : Source} (hr : r ∈ statusSources) :
    (Sequence.entry k).StopsBy r 5 := by
  intro u h2 hle
  have hmicro : (Sequence.entry k).micro u = entryCycle k u u.sq.cyc := rfl
  rw [hmicro]
  generalize u.sq.cyc = c at *
  by_cases hc : c = 2
  · subst hc
    exact .inr ⟨by decide, fun _ t _ => .inr (Advances.nextCycle t)⟩
  · obtain ⟨n, rfl⟩ : ∃ n, c = n + 3 := ⟨c - 3, by omega⟩
    simp only [List.mem_cons, List.not_mem_nil, or_false] at hk
    rcases hk with rfl | rfl
    · exact takeInterrupt_stopsBy hr false u (by omega) hle
    · exact takeInterrupt_stopsBy hr true u (by omega) hle

/-- The operation of a sequence stops at an unwritten register or flag of its own. -/
theorem Sequence.Operates.stopsBy {q : Sequence} {i : Bool} {l : List Source} {r : Source} (h : q.Operates i l)
    (hr : r ∈ l) : ∃ last, 2 ≤ last ∧ last ≤ 7 ∧ q.StopsBy r last := by
  cases q with
  | implied op => exact ⟨2, by decide, by decide, fun _ _ _ => .inl fun _ t hs hl => h.stops r hr t hs hl⟩
  | read m rd =>
    have := accessCycle_bounds m false
    exact ⟨_, by omega, by omega, stopsBy_read h hr⟩
  | write m uses value =>
    have := accessCycle_bounds m true
    exact ⟨_, by omega, by omega, stopsBy_write (h ▸ hr)⟩
  | rmw m f =>
    have := accessCycle_bounds m true
    exact ⟨_, by omega, by omega, stopsBy_rmw h hr⟩
  | sh m prep src =>
    have := accessCycle_bounds m true
    exact ⟨_, by omega, by omega, stopsBy_sh h hr⟩
  | branch cond =>
    refine ⟨2, by decide, by decide, fun u h2 hle => .inl ?_⟩
    have hmicro : (Sequence.branch cond).micro u = branchCycle cond u 2 := congrArg (branchCycle cond u) (by omega)
    rw [hmicro]
    exact branchCycle_stops h hr u
  | push pre value =>
    refine ⟨3, by decide, by decide, fun u h2 hle => ?_⟩
    have hmicro : (Sequence.push pre value).micro u = pushCycle pre value u u.sq.cyc := rfl
    obtain hc | hc : u.sq.cyc = 2 ∨ u.sq.cyc = 3 := by omega
    · rw [hmicro, hc]
      exact .inr ⟨by decide, fun _ t _ => .inr (Advances.nextCycle t)⟩
    · rw [hmicro, hc]
      exact .inl (.inl fun t hs hl => h.stops r hr t hs hl)
  | brk => exact ⟨5, by decide, by decide, stopsBy_brk (h ▸ hr)⟩
  | pull act => exact absurd (h.1 ▸ hr) List.not_mem_nil
  | _ => exact absurd (h ▸ hr) List.not_mem_nil

end Sys2Proof.Machine

namespace Sys2Proof.Machine

/-! ### O20 -/

theorem State.uninit.outcome {s : State} (h : s.uninit) : s.outcome = .fault .uninitReg := by
  unfold State.outcome
  rw [h]

/-- PHI1 of a step's first tick. -/
theorem Calm.still_phi1 {n : Nat} {s : State} (h : Calm n s) (r : Source) : Still r s s.clearLogs.phi1 := by
  have hclear : Still r s s.clearLogs := Still.of_eq rfl id rfl rfl ⟨rfl, rfl⟩
  exact hclear.trans (Still.phi1 (h.mono (Nat.zero_le _)).quiet)

theorem terminalFetch_still (r : Source) (f : Feed) (s : State) : Still r s (terminalFetch.perform f s) := by
  have hacts : terminalFetch.Acts (Still r) := fun _ t => Still.of_eq (s := t) rfl id rfl rfl ⟨rfl, rfl⟩
  exact MicroOp.perform_keeps Still.busClosed hacts (fun slot _ _ s b => Still.fetched s slot b) f s

theorem terminalEntry_still (r : Source) (k : Entry) (u : State) (f : Feed) (s : State) :
    Still r s ((terminalEntry k u).perform f s) := by
  have hacts : (terminalEntry k u).Acts (Still r) := fun _ t => Still.of_eq (s := t) rfl id rfl rfl ⟨rfl, rfl⟩
  exact MicroOp.perform_keeps Still.busClosed hacts (fun _ _ h => by cases h) f s

/-- What the terminal of an entry has done when no fault came with its bus access (R152). -/
theorem terminalEntry_perform {k : Entry} {u : State} {f : Feed} {s : State}
    (h : ((terminalEntry k u).perform f s).stopped = none) :
    ((terminalEntry k u).perform f s).sq.seq = .entry k ∧ ((terminalEntry k u).perform f s).sq.cyc = 2 := by
  unfold terminalEntry MicroOp.discard at h ⊢
  rw [MicroOp.perform_read] at h ⊢
  rw [(State.unlessStopped_running h).2]
  exact ⟨rfl, rfl⟩

/-- An instruction whose sequence stops for `r` answers the fault when nothing has written `r`. -/
theorem exec_uninit {i : Instr} {s : State} {r : Source} {last : Nat} (hc : Calm 8 s) (hl : s.lacks r)
    (hq : (sequenceOf i).StopsBy r last) (h2 : 2 ≤ last) (h8 : last ≤ 8) : exec i s = .fault .uninitReg := by
  have hphi := hc.still_phi1 r
  rw [exec_eq]
  unfold runInstr
  simp only
  generalize s.clearLogs.phi1 = u at *
  have hcu := hphi.calm hc
  rw [if_neg (by simp [hcu.running]), if_neg (by simp [State.stalls, hcu.hold])]
  have hterm := terminalFetch_still r (Feed.ofInstr i) u
  obtain ⟨hx, hcx, hlx⟩ := hterm.executeTick hcu (hphi.lacks hl)
  obtain ⟨hsq, -⟩ := terminalFetch_perform (hterm.sound hcu.sound).1
  have hseq : (u.executeTick (Feed.ofInstr i) terminalFetch).sq.seq = .op := by rw [hx, State.endTick_sq, hsq]
  have hcyc : (u.executeTick (Feed.ofInstr i) terminalFetch).sq.cyc = 2 := by rw [hx, State.endTick_sq, hsq]
  exact (hq.runSeq _ 7 hcx hlx (by rw [hseq]; decide) (by omega) (by omega) (by omega)).outcome

theorem accumulator_mnem {i : Instr} (h : i.mode = .acc) : i.mnem ∈ [Mnem.asl, .lsr, .rol, .ror] := by
  have hall : (i.mode != .acc || [Mnem.asl, .lsr, .rol, .ror].contains i.mnem) = true := by cases i <;> rfl
  simpa [h] using hall

/-- Whatever an instruction uses, its index register or a source of its operation, its sequence stops for it (R46). -/
theorem sequenceOf_stopsBy {i : Instr} {r : Source} (hr : r ∈ usesOf i) :
    ∃ last, 2 ≤ last ∧ last ≤ 7 ∧ (sequenceOf i).StopsBy r last := by
  unfold usesOf at hr
  rw [List.mem_append, List.mem_append] at hr
  rcases hr with (hr | hr) | hr
  · rw [← indexSources_sequenceOf] at hr
    have hlt := indexCycle_lt hr true
    have hle := accessCycle_bounds (sequenceOf i).mode true
    have h2 : 2 ≤ indexCycle (sequenceOf i).mode := by unfold indexCycle; split <;> decide
    exact ⟨_, h2, by omega, Sequence.stopsBy_index hr⟩
  · split at hr
    · rename_i hacc
      have hop := accumulator_operates (accumulator_mnem hacc)
      rw [← hacc] at hop
      exact hop.stopsBy (List.mem_cons.mpr (.inl (List.mem_singleton.mp hr)))
    · exact absurd hr List.not_mem_nil
  · exact (sequenceOf_operates i).stopsBy hr

/-- The poll reads an unwritten I (R46, R476, R477). -/
theorem State.pollFaults_of {u : State} (hrst : ¬(u.irq.rstPending = true ∧ u.irq.rstLat = .two))
    (hnmi : ¬(u.irq.nmiPending = true ∧ u.irq.nmiLat = .two)) (hirq : 0 < u.irq.irqCount)
    (hdraw : u.params.uninitAsDraw = false)
    (hi : (if u.params.iFlagDelay = true ∧ u.sq.ichg = true then u.sq.iprevKnown else u.cpu.written.i) = false) :
    u.pollFaults = true := by
  have hpoll : u.mayPoll = false := by simpa [State.mayPoll, hdraw] using hi
  have hline : u.irqLine = true := by simpa [State.irqLine] using Nat.ne_of_gt hirq
  have hserved : ∀ (b : Bool) (l : Lat), ¬(b = true ∧ l = .two) → (b && l == .two) = false :=
    fun b l h => by simpa using h
  rw [State.pollFaults, hserved _ _ hrst, hserved _ _ hnmi, hline, hpoll]
  rfl

/-- A step from a calm terminal comes to the poll: it has neither stopped nor stalled (R152, R153). -/
theorem Calm.comes_to_poll {n : Nat} {s : State} (hc : Calm n s) (hseq : s.sq.seq = .boundary) :
    s.clearLogs.phi1.stopped = none ∧ s.clearLogs.phi1.sq.seq = .boundary ∧
      s.clearLogs.phi1.stalls terminalFetch = false := by
  have hcu := (hc.still_phi1 .a).calm hc
  have hsq : s.clearLogs.phi1.sq = s.sq := (s.clearLogs.phi1_dev (hc.mono (Nat.zero_le _)).quiet).sq
  exact ⟨hcu.running, by rw [hsq, hseq], by simp [State.stalls, hcu.hold]⟩

theorem step_pollFaults {n : Nat} {s : State} (hc : Calm n s) (hseq : s.sq.seq = .boundary)
    (h : s.clearLogs.phi1.pollFaults = true) : step s = .fault .uninitReg := by
  obtain ⟨hrun, hterm, hstall⟩ := hc.comes_to_poll hseq
  have hfault : s.clearLogs.phi1.uninitFault.uninit := ((hc.still_phi1 .a).calm hc).sound.fault
  simpa [step, State.stepOnce, hrun, hterm, hstall, h] using hfault.outcome

theorem step_enter {n : Nat} {s : State} {k : Entry} (hc : Calm n s) (hseq : s.sq.seq = .boundary)
    (hpoll : s.clearLogs.phi1.pollFaults = false) (hk : s.decided = some k) :
    step s = (s.clearLogs.phi1.enter k).outcome := by
  obtain ⟨hrun, hterm, hstall⟩ := hc.comes_to_poll hseq
  unfold State.decided at hk
  simp [step, State.stepOnce, hrun, hterm, hstall, hpoll, hk]

/-- An NMI or IRQ entry pushes the status, which uses every flag (R484). -/
theorem enter_uninit {k : Entry} (hk : k ∈ [Entry.nmi, .irq]) {u : State} {r : Source} (hc : Calm 7 u) (hl : u.lacks r)
    (hr : r ∈ statusSources) : (u.enter k).uninit := by
  have hacc : Still r u (u.accept k) := by cases k <;> exact Still.of_eq rfl id rfl rfl ⟨rfl, rfl⟩
  have hterm := terminalEntry_still r k u .live (u.accept k)
  obtain ⟨hx, hcx, hlx⟩ := hterm.executeTick (hacc.calm hc) (hacc.lacks hl)
  obtain ⟨hseq, hcyc⟩ := terminalEntry_perform (hterm.sound (hacc.sound hc.sound)).1
  change (runSeq .live (.entry k) 6 ((u.accept k).executeTick .live (terminalEntry k u))).uninit
  rw [hx] at hcx hlx ⊢
  rw [← State.endTick_sq _ Lat.executed] at hseq hcyc
  exact (stopsBy_entry hk hr).runSeq .live 6 hcx hlx (by rw [hseq]; exact fun h => by cases h) (by omega) (by omega) (by omega)

/-- Settles O20: the sequence stops at the first cycle that uses an unwritten register, the poll at an unwritten I. -/
theorem unwrittenRegisters : Obligations.UnwrittenRegisters := by
  refine ⟨fun i s hready => ?_, fun s hready hseq => ⟨?_, fun k hk hdec => ?_⟩⟩
  · rintro ⟨r, hr, hl⟩
    obtain ⟨last, h2, h7, hq⟩ := sequenceOf_stopsBy hr
    exact exec_uninit (State.ready_calm hready) hl hq h2 (by omega)
  · intro u hrst hnmi hirq hdraw hi
    exact step_pollFaults (State.ready_calm hready) hseq (State.pollFaults_of hrst hnmi hirq hdraw hi)
  · rintro ⟨r, hr, hl⟩
    have hc := State.ready_calm hready
    have hphi := hc.still_phi1 r
    by_cases hpoll : s.clearLogs.phi1.pollFaults = true
    · exact step_pollFaults hc hseq hpoll
    · rw [step_enter hc hseq (by simpa using hpoll) hdec]
      exact (enter_uninit hk ((hphi.calm hc).mono (by decide)) (hphi.lacks hl) hr).outcome

end Sys2Proof.Machine

namespace Sys2Proof.Machine

/-! ### Relations that hold across everything the CPU can do -/

/-- The parts of the register file that the instructions write separately (R30 to R35). -/
inductive Part where
  | a | x | y | sp | nz | v | ub | d | i | c
  deriving DecidableEq

/-- `t` has the part of `s`; V can have become 1 (R45). -/
def Part.Same (p : Part) (s t : State) : Prop :=
  match p with
  | .a => t.cpu.a = s.cpu.a
  | .x => t.cpu.x = s.cpu.x
  | .y => t.cpu.y = s.cpu.y
  | .sp => t.cpu.s = s.cpu.s
  | .nz => t.cpu.p.n = s.cpu.p.n ∧ t.cpu.p.z = s.cpu.p.z
  | .v => t.cpu.p.v = s.cpu.p.v ∨ t.cpu.p.v = true
  | .ub => t.cpu.p.u = s.cpu.p.u ∧ t.cpu.p.b = s.cpu.p.b
  | .d => t.cpu.p.d = s.cpu.p.d
  | .i => t.cpu.p.i = s.cpu.p.i
  | .c => t.cpu.p.c = s.cpu.p.c

theorem Part.Same.trans {p : Part} {s t u : State} (h : p.Same s t) (g : p.Same t u) : p.Same s u := by
  cases p with
  | v =>
    rcases g with g | g
    · exact h.imp g.trans g.trans
    · exact .inr g
  | nz | ub => exact ⟨g.1.trans h.1, g.2.trans h.2⟩
  | _ => exact Eq.trans g h

theorem Part.same_of_cpu {s t : State} (h : t.cpu = s.cpu) (p : Part) : p.Same s t := by
  cases p <;> simp [Part.Same, h]

theorem Outside.same {s t : State} (h : Outside s t) (p : Part) : p.Same s t := by
  cases p with
  | a => exact h.a
  | x => exact h.x
  | y => exact h.y
  | sp => exact h.sp
  | nz => exact ⟨h.n, h.z⟩
  | v =>
    show t.cpu.p.v = s.cpu.p.v ∨ t.cpu.p.v = true
    cases hv : s.cpu.p.v with
    | false => exact (Bool.eq_false_or_eq_true _).symm
    | true => exact .inr (h.v hv)
  | ub => exact ⟨h.u, h.b⟩
  | d => exact h.d
  | i => exact h.i
  | c => exact h.c

/-- The I that the next decision polls in IPREV has been written, if it polls IPREV (R476). -/
def State.pollKnown (s : State) : Bool := s.sq.iprevKnown || !s.sq.ichg

/-- `t` differs from `s` in the latches, in PC, in requests that an entry has consumed and in the parts of the register file that
`w` allows; no `written` bit is cleared, and an I to be polled is one that has been written if P.I has. -/
structure Rewrites (w : Part → Bool) (s t : State) : Prop where
  rest : ∃ cpu sq nmi rst,
    t = { s with cpu := cpu, sq := sq, irq := { s.irq with nmiPending := nmi, rstPending := rst } }
  same : ∀ p, w p = false → p.Same s t
  written : WrittenKept s t
  poll : s.cpu.written.i = true → s.pollKnown = true → t.pollKnown = true

theorem Rewrites.trans {w : Part → Bool} {s t u : State} (h : Rewrites w s t) (g : Rewrites w t u) : Rewrites w s u where
  rest := by
    obtain ⟨_, _, _, _, rfl⟩ := h.rest
    obtain ⟨_, _, _, _, rfl⟩ := g.rest
    exact ⟨_, _, _, _, rfl⟩
  same p hp := (h.same p hp).trans (g.same p hp)
  written := h.written.trans g.written
  poll hi hs := g.poll (h.written .i hi) (h.poll hi hs)

/-- The latches and PC may change, ICHG and IPREV apart. -/
theorem Rewrites.latches {w : Part → Bool} (s : State) (pc : Word) (l : Latches) (h : l.ichg = s.sq.ichg)
    (hk : l.iprevKnown = s.sq.iprevKnown) : Rewrites w s { s.setPC pc with sq := l } :=
  ⟨⟨_, l, s.irq.nmiPending, s.irq.rstPending, rfl⟩, fun p _ => by cases p <;> simp [Part.Same], WrittenKept.refl s,
    fun _ hp => by simpa only [State.pollKnown, h, hk] using hp⟩

section
variable {w : Part → Bool} {s : State}

theorem Rewrites.refl : Rewrites w s s := Rewrites.latches s s.cpu.pc s.sq rfl rfl

/-- A write of registers and flags. -/
theorem Rewrites.of_cpu {cpu : Cpu} (h : ∀ p, w p = false → p.Same s { s with cpu := cpu })
    (hw : WrittenKept s { s with cpu := cpu }) : Rewrites w s { s with cpu := cpu } :=
  ⟨⟨cpu, s.sq, s.irq.nmiPending, s.irq.rstPending, rfl⟩, h, hw, fun _ hp => hp⟩

/-- A write of one part. -/
theorem Rewrites.of_part {cpu : Cpu} (q : Part) (hq : w q = true) (h : ∀ p, p ≠ q → p.Same s { s with cpu := cpu })
    (hw : WrittenKept s { s with cpu := cpu }) : Rewrites w s { s with cpu := cpu } :=
  Rewrites.of_cpu (fun p hp => h p fun hpq => by simp [hpq, hq] at hp) hw

theorem Rewrites.setA (h : w .a = true) (v : Byte) : Rewrites w s (s.setA v) :=
  .of_part .a h (fun p hp => by cases p <;> simp_all [Part.Same]) (State.setA_written s v)

theorem Rewrites.setX (h : w .x = true) (v : Byte) : Rewrites w s (s.setX v) :=
  .of_part .x h (fun p hp => by cases p <;> simp_all [Part.Same]) (State.setX_written s v)

theorem Rewrites.setY (h : w .y = true) (v : Byte) : Rewrites w s (s.setY v) :=
  .of_part .y h (fun p hp => by cases p <;> simp_all [Part.Same]) (State.setY_written s v)

theorem Rewrites.setS (h : w .sp = true) (v : Byte) : Rewrites w s (s.setS v) :=
  .of_part .sp h (fun p hp => by cases p <;> simp_all [Part.Same]) (WrittenKept.refl s)

theorem Rewrites.setNZ (h : w .nz = true) (v : Byte) : Rewrites w s (s.setNZ v) :=
  .of_part .nz h (fun p hp => by cases p <;> simp_all [Part.Same]) (State.setNZ_written s v)

theorem Rewrites.setN (h : w .nz = true) (b : Bool) : Rewrites w s (s.setN b) :=
  .of_part .nz h (fun p hp => by cases p <;> simp_all [Part.Same]) (State.setN_written s b)

theorem Rewrites.setZ (h : w .nz = true) (b : Bool) : Rewrites w s (s.setZ b) :=
  .of_part .nz h (fun p hp => by cases p <;> simp_all [Part.Same]) (State.setZ_written s b)

theorem Rewrites.setV (h : w .v = true) (b : Bool) : Rewrites w s (s.setV b) :=
  .of_part .v h (fun p hp => by cases p <;> simp_all [Part.Same]) (State.setV_written s b)

theorem Rewrites.setD (h : w .d = true) (b : Bool) : Rewrites w s (s.setD b) :=
  .of_part .d h (fun p hp => by cases p <;> simp_all [Part.Same]) (State.setD_written s b)

theorem Rewrites.setI (h : w .i = true) (b : Bool) : Rewrites w s (s.setI b) :=
  .of_part .i h (fun p hp => by cases p <;> simp_all [Part.Same]) (State.setI_written s b)

theorem Rewrites.setC (h : w .c = true) (b : Bool) : Rewrites w s (s.setC b) :=
  .of_part .c h (fun p hp => by cases p <;> simp_all [Part.Same]) (State.setC_written s b)

theorem Rewrites.setUB (h : w .ub = true) (u b : Bool) : Rewrites w s (s.setUB u b) :=
  .of_part .ub h (fun p hp => by cases p <;> simp_all [Part.Same]) (WrittenKept.refl s)

theorem Rewrites.compare (hc : w .c = true) (hn : w .nz = true) (r v : Byte) : Rewrites w s (s.compare r v) :=
  (Rewrites.setC hc _).trans (Rewrites.setNZ hn _)

/-- The copy of I to IPREV (R383, R386, R387). -/
theorem Rewrites.copyI : Rewrites w s { s with
    sq := { s.sq with iprev := s.cpu.p.i, iprevKnown := s.cpu.written.i, ichg := true } } :=
  ⟨⟨s.cpu, _, s.irq.nmiPending, s.irq.rstPending, rfl⟩, fun p _ => Part.same_of_cpu rfl p, WrittenKept.refl s,
    fun hi _ => by simp [State.pollKnown, hi]⟩

theorem Rewrites.selectVector : Rewrites w s s.selectVector := by
  unfold State.selectVector
  split
  · exact ⟨⟨s.cpu, _, false, s.irq.rstPending, rfl⟩, fun p _ => Part.same_of_cpu rfl p, WrittenKept.refl s, fun _ hp => hp⟩
  · exact Rewrites.refl

/-- A terminal leaves no I to be polled in IPREV (R152, R476). -/
theorem Rewrites.startSequence {l : Latches} (q : Seq) : Rewrites w s (State.startSequence { s with sq := l } q) :=
  ⟨⟨s.cpu, _, s.irq.nmiPending, s.irq.rstPending, rfl⟩, fun p _ => Part.same_of_cpu rfl p, WrittenKept.refl s,
    fun _ _ => rfl⟩

theorem Rewrites.accept (k : Entry) : Rewrites w s (s.accept k) := by
  cases k <;> exact ⟨⟨s.cpu, _, _, _, rfl⟩, fun p _ => Part.same_of_cpu rfl p, WrittenKept.refl s, fun _ hp => hp⟩

theorem Rewrites.keepOperand (slot : Slot) (b : Byte) : Rewrites w s (s.incPC.keepOperand slot b) := by
  cases slot <;> exact Rewrites.latches s _ _ rfl rfl

theorem Rewrites.markStall (q : Sequence) : Rewrites w s (q.markStall s) := by
  unfold Sequence.markStall
  split
  · split
    · exact Rewrites.latches s s.cpu.pc _ rfl rfl
    · exact Rewrites.refl
  · exact Rewrites.refl

end

/-- `R` holds across all that the acts of a micro-op are made of: rewriting registers and latches, the V hook (R45), and the
guard of R46. -/
structure ActClosed (w : Part → Bool) (R : State → State → Prop) : Prop where
  trans : ∀ {s t u}, R s t → R t u → R s u
  rewrites : ∀ {s t}, Rewrites w s t → R s t
  hook : ∀ s, R s s.onVAccess
  guard : ∀ {s l k}, R s (k s) → R s (State.using s l k)

namespace ActClosed

variable {w : Part → Bool} {R : State → State → Prop} (hR : ActClosed w R)
include hR

theorem refl (s : State) : R s s := hR.rewrites Rewrites.refl

/-- The next cycle, or the end of the sequence, after a change of latches. -/
theorem latches (s : State) (pc : Word) (l : Latches) (h : l.ichg = s.sq.ichg) (hk : l.iprevKnown = s.sq.iprevKnown) :
    R s { s.setPC pc with sq := l } := hR.rewrites (Rewrites.latches s pc l h hk)

theorem next {s t : State} (h : R s t) : R s t.nextCycle := hR.trans h (hR.latches t t.cpu.pc _ rfl rfl)

theorem ends {s t : State} (h : R s t) : R s t.finish := hR.trans h (hR.latches t t.cpu.pc _ rfl rfl)

theorem fixEA (s : State) : R s s.fixEA := by
  unfold State.fixEA
  split
  · exact hR.latches s s.cpu.pc _ rfl rfl
  · exact hR.refl s

theorem writeV (h : w .v = true) (s : State) (b : Bool) : R s (s.writeV b) :=
  hR.trans (hR.hook s) (hR.rewrites (Rewrites.setV h b))

theorem uses (s : State) (l : List Source) : R s (s.uses l) := hR.guard (hR.refl s)

theorem packAccess (s : State) : R s s.packAccess := hR.trans (hR.hook s) (hR.uses _ _)

theorem unpack (h : ∀ p ∈ [Part.nz, .v, .ub, .d, .i, .c], w p = true) (s : State) (d : Byte) : R s (s.unpack d) := by
  simp only [List.forall_mem_cons] at h
  obtain ⟨hnz, hv, hub, hd, hi, hc, -⟩ := h
  have hflags : Rewrites w ((s.setN (d.getLsbD 7)).writeV (d.getLsbD 6)) (s.unpack d) :=
    ((Rewrites.setUB hub _ _).trans (Rewrites.setD hd _)).trans
      ((Rewrites.setI hi _).trans ((Rewrites.setZ hnz _).trans (Rewrites.setC hc _)))
  exact hR.trans (hR.trans (hR.rewrites (Rewrites.setN hnz _)) (hR.writeV hv _ _)) (hR.rewrites hflags)

theorem setAlu (h : ∀ p ∈ [Part.a, .nz, .v, .c], w p = true) (s : State) (r : AluResult) : R s (s.setAlu r) := by
  simp only [List.forall_mem_cons] at h
  obtain ⟨ha, hnz, hv, hc, -⟩ := h
  have hfirst : Rewrites w s ((s.setA r.value).setC r.c) := (Rewrites.setA ha _).trans (Rewrites.setC hc _)
  have hlast : Rewrites w (((s.setA r.value).setC r.c).writeV r.v) (s.setAlu r) :=
    (Rewrites.setN hnz _).trans (Rewrites.setZ hnz _)
  exact hR.trans (hR.trans (hR.rewrites hfirst) (hR.writeV hv _ _)) (hR.rewrites hlast)

theorem changingI {change : State → State} (h : ∀ u, R u (change u)) (s : State) : R s (changingI s change) :=
  hR.trans (hR.rewrites Rewrites.copyI) (h _)

end ActClosed

/-! ### The cycles of the sequences -/

/-- The operation of a sequence goes from a state to one that `R` relates to it, and the parts that the sequence itself writes, S
and the flags of an interrupt or a return, are allowed by `w`. -/
def Sequence.Does (w : Part → Bool) (R : State → State → Prop) : Sequence → Prop
  | .implied op => ∀ s, R s (op s)
  | .read _ rd => ∀ d s, R s (rd d s)
  | .rmw _ f => ∀ d s, R s (f d s).2
  | .sh _ prep _ => ∀ s, R s (prep s)
  | .branch cond => ∀ s, R s (cond s).2
  | .push pre _ => w .sp = true ∧ ∀ s, R s (pre s)
  | .pull act => w .sp = true ∧ ∀ d s, R s (act d s)
  | .jsr | .rts => w .sp = true
  | .brk | .entry _ => w .sp = true ∧ w .i = true
  | .rti => w .sp = true ∧ ∀ p ∈ [Part.nz, .v, .ub, .d, .i, .c], w p = true
  | .write _ _ _ | .jmpAbs | .jmpInd | .jam => True

section
variable {w : Part → Bool} {R : State → State → Prop} (hR : ActClosed w R)
include hR

theorem ActClosed.addressCycle (m : Mode) (s : State) (c : Nat) : (addressCycle m s c).Acts R := by
  have hlatch : ∀ (t : State) l, l.ichg = t.sq.ichg → l.iprevKnown = t.sq.iprevKnown → R t { t with sq := l } :=
    fun t l => hR.latches t t.cpu.pc l
  unfold Machine.addressCycle
  split
  case h_6 | h_7 | h_12 | h_13 | h_14 | h_18 => exact fun _ t => hR.guard (hlatch t _ rfl rfl)
  case h_19 => exact fun _ t => hR.next (hR.fixEA t)
  all_goals exact fun _ t => hlatch t _ rfl rfl

theorem ActClosed.setDATA (s : State) (d : Byte) : R s (s.setDATA d) := hR.latches s s.cpu.pc _ rfl rfl

theorem ActClosed.setLo (s : State) (d : Byte) : R s (s.setLo d) := hR.latches s s.cpu.pc _ rfl rfl

theorem ActClosed.readCycle {rd : Byte → State → State} (h : ∀ d s, R s (rd d s)) (m : Mode) (s : State) (c : Nat) :
    (readCycle m rd s c).Acts R := by
  have hop : ∀ d t, R t (rd d (t.setDATA d)).finish := fun d t => hR.ends (hR.trans (hR.setDATA t d) (h d _))
  unfold Machine.readCycle
  split
  · exact hop
  · split
    · exact hR.addressCycle m s c
    · split
      · exact fun d t => hR.next (hR.trans (hR.setDATA t d) (hR.fixEA _))
      · exact hop

theorem ActClosed.writeCycle (m : Mode) (l : List Source) (value : State → Byte) (s : State) (c : Nat) :
    (writeCycle m l value s c).Acts R := by
  unfold Machine.writeCycle
  split
  · exact hR.addressCycle m s c
  · exact ⟨fun t => hR.uses t l, fun t => hR.ends (hR.refl t)⟩

theorem ActClosed.rmwCycle {f : Byte → State → Byte × State} (h : ∀ d s, R s (f d s).2) (m : Mode) (s : State) (c : Nat) :
    (rmwCycle m f s c).Acts R := by
  unfold Machine.rmwCycle
  split
  · exact hR.addressCycle m s c
  · split
    · exact fun d t => hR.next (hR.setDATA t d)
    · split
      · exact ⟨hR.refl, fun t => hR.next (hR.trans (h _ t) (hR.setDATA _ _))⟩
      · exact ⟨hR.refl, fun t => hR.ends (hR.refl t)⟩

theorem ActClosed.shCycle {prep : State → State} (h : ∀ s, R s (prep s)) (m : Mode) (src : State → Byte) (s : State)
    (c : Nat) : (shCycle m prep src s c).Acts R := by
  unfold Machine.shCycle
  split
  · exact hR.addressCycle m s c
  · exact ⟨h, fun t => hR.ends (hR.refl t)⟩

theorem ActClosed.branchCycle {cond : State → Bool × State} (h : ∀ s, R s (cond s).2) (s : State) (c : Nat) :
    (branchCycle cond s c).Acts R := by
  unfold Machine.branchCycle
  split
  · intro d t
    have hoff : R t { t with sq := { t.sq with off := d } } := hR.latches t t.cpu.pc _ rfl rfl
    dsimp only
    split
    · exact hR.next (hR.trans hoff (h _))
    · exact hR.ends (hR.trans hoff (h _))
  · intro d t
    dsimp only [MicroOp.discard]
    split <;> exact hR.latches t _ _ rfl rfl
  · exact fun _ t => hR.latches t _ _ rfl rfl

theorem ActClosed.decS (hs : w .sp = true) (s : State) : R s s.decS := hR.rewrites (Rewrites.setS hs _)

theorem ActClosed.incS (hs : w .sp = true) (s : State) : R s s.incS := hR.rewrites (Rewrites.setS hs _)

theorem ActClosed.push (hs : w .sp = true) {pre post : State → State} (value : State → Byte) (hpre : ∀ s, R s (pre s))
    (hpost : ∀ s, R s (post s)) : (MicroOp.push pre value post).Acts R :=
  ⟨hpre, fun t => hR.trans (hR.decS hs t) (hpost _)⟩

theorem ActClosed.nextCycle (s : State) : R s s.nextCycle := hR.next (hR.refl s)

theorem ActClosed.finish (s : State) : R s s.finish := hR.ends (hR.refl s)

theorem ActClosed.vectorCycle (hi : w .i = true) (vec : Word) (c : Nat) : (vectorCycle vec c).Acts R := by
  unfold Machine.vectorCycle
  split
  · exact fun d t => hR.next (hR.trans (hR.setDATA t d) (hR.rewrites (Rewrites.setI hi _)))
  · exact fun _ t => hR.latches t _ _ rfl rfl

theorem ActClosed.takeInterrupt (hs : w .sp = true) (hi : w .i = true) (hijackable : Bool) (s : State) (c : Nat) :
    (takeInterrupt hijackable s c).Acts R := by
  unfold Machine.takeInterrupt
  split
  · exact hR.push hs _ hR.refl hR.nextCycle
  · refine hR.push hs _ hR.refl fun t => ?_
    cases hijackable
    · exact hR.nextCycle t
    · exact hR.next (hR.rewrites Rewrites.selectVector)
  · exact hR.push hs _ hR.packAccess hR.nextCycle
  · exact hR.vectorCycle hi _ _

theorem ActClosed.takeReset (hs : w .sp = true) (hi : w .i = true) (s : State) (c : Nat) : (takeReset s c).Acts R := by
  unfold Machine.takeReset
  split
  case h_4 => exact hR.vectorCycle hi _ _
  all_goals exact fun _ t => hR.next (hR.decS hs t)

theorem ActClosed.entryCycle (hs : w .sp = true) (hi : w .i = true) (k : Entry) (s : State) (c : Nat) :
    (entryCycle k s c).Acts R := by
  unfold Machine.entryCycle
  split
  · exact fun _ t => hR.nextCycle t
  · cases k
    · exact hR.takeReset hs hi s _
    · exact hR.takeInterrupt hs hi false s _
    · exact hR.takeInterrupt hs hi true s _

theorem ActClosed.brkCycle (hs : w .sp = true) (hi : w .i = true) (s : State) (c : Nat) : (brkCycle s c).Acts R := by
  unfold Machine.brkCycle
  split
  · exact fun _ t => hR.latches t _ _ rfl rfl
  · exact hR.takeInterrupt hs hi true s _

theorem ActClosed.jsrCycle (hs : w .sp = true) (s : State) (c : Nat) : (jsrCycle s c).Acts R := by
  unfold Machine.jsrCycle
  split
  case h_3 | h_4 => exact hR.push hs _ hR.refl hR.nextCycle
  all_goals exact fun _ t => hR.latches t _ _ rfl rfl

theorem ActClosed.rtsCycle (hs : w .sp = true) (s : State) (c : Nat) : (rtsCycle s c).Acts R := by
  unfold Machine.rtsCycle
  split
  case h_2 => exact fun _ t => hR.next (hR.incS hs t)
  case h_3 => exact fun d t => hR.next (hR.trans (hR.setLo t d) (hR.incS hs _))
  all_goals exact fun _ t => hR.latches t _ _ rfl rfl

theorem ActClosed.returnFromInterrupt (hs : w .sp = true) (h : ∀ p ∈ [Part.nz, .v, .ub, .d, .i, .c], w p = true) (s : State)
    (c : Nat) : (returnFromInterrupt s c).Acts R := by
  unfold Machine.returnFromInterrupt
  split
  case h_2 => exact fun _ t => hR.next (hR.incS hs t)
  case h_3 => exact fun d t => hR.next (hR.trans (hR.unpack h t d) (hR.incS hs _))
  case h_4 => exact fun d t => hR.next (hR.trans (hR.setLo t d) (hR.incS hs _))
  all_goals exact fun _ t => hR.latches t _ _ rfl rfl

/-- Every micro-op of a sequence does what `R` allows, when its operation does. -/
theorem ActClosed.micro {q : Sequence} (h : q.Does w R) (s : State) : (q.micro s).Acts R := by
  cases q with
  | implied op => exact fun _ t => hR.ends (h t)
  | read m rd => exact hR.readCycle h m s _
  | write m uses value => exact hR.writeCycle m uses value s _
  | rmw m f => exact hR.rmwCycle h m s _
  | sh m prep src => exact hR.shCycle h m src s _
  | branch cond => exact hR.branchCycle h s _
  | push pre value =>
    simp only [Sequence.micro, Machine.pushCycle]
    split
    · exact fun _ t => hR.nextCycle t
    · exact hR.push h.1 value h.2 hR.finish
  | pull act =>
    simp only [Sequence.micro, Machine.pullCycle]
    split
    · exact fun _ t => hR.nextCycle t
    · exact fun _ t => hR.next (hR.incS h.1 t)
    · exact fun d t => hR.ends (h.2 d t)
  | jmpAbs =>
    simp only [Sequence.micro, Machine.jmpAbsCycle]
    split <;> exact fun _ t => hR.latches t _ _ rfl rfl
  | jmpInd =>
    simp only [Sequence.micro, Machine.jmpIndCycle]
    split <;> exact fun _ t => hR.latches t _ _ rfl rfl
  | jsr => exact hR.jsrCycle h s _
  | brk => exact hR.brkCycle h.1 h.2 s _
  | rts => exact hR.rtsCycle h s _
  | rti => exact hR.returnFromInterrupt h.1 h.2 s _
  | jam => exact fun _ t => hR.latches t _ _ rfl rfl
  | entry k => exact hR.entryCycle h.1 h.2 k s _

end

end Sys2Proof.Machine

namespace Sys2Proof.Machine

/-! ### What the operations of the instructions write -/

/-- The parts of the register file that a mnemonic writes in all its modes, S of the stack cycles included. -/
def mnemWrites : Mnem → List Part
  | .lda | .txa | .tya | .and | .ora | .eor | .ane => [.a, .nz]
  | .ldx | .tax | .tsx | .inx | .dex => [.x, .nz]
  | .ldy | .tay | .iny | .dey => [.y, .nz]
  | .lax | .lxa => [.a, .x, .nz]
  | .las => [.a, .x, .sp, .nz]
  | .sbx => [.x, .nz, .c]
  | .adc | .sbc | .usbc | .rra | .isb | .arr => [.a, .nz, .v, .c]
  | .slo | .rla | .sre | .anc | .alr => [.a, .nz, .c]
  | .cmp | .cpx | .cpy | .dcp | .asl | .lsr | .rol | .ror => [.nz, .c]
  | .inc | .dec => [.nz]
  | .bit => [.nz, .v]
  | .clc | .sec => [.c]
  | .cli | .sei => [.i]
  | .cld | .sed => [.d]
  | .clv => [.v]
  | .txs | .shs | .pha | .php | .jsr | .rts => [.sp]
  | .pla => [.a, .sp, .nz]
  | .plp | .rti => [.sp, .nz, .v, .ub, .d, .i, .c]
  | .brk => [.sp, .i]
  | .sta | .stx | .sty | .sax | .sha | .shx | .shy | .bpl | .bmi | .bvc | .bvs | .bcc | .bcs | .bne | .beq | .jmp | .jam
  | .nop => []

section
variable {w : Part → Bool} {R : State → State → Prop} (hR : ActClosed w R)
include hR

/-- A load of A, of the result of an operation or of a transfer, with N and Z from it. -/
theorem ActClosed.loadA (ha : w .a = true) (hn : w .nz = true) (s : State) (v : Byte) : R s ((s.setA v).setNZ v) :=
  hR.rewrites ((Rewrites.setA ha _).trans (Rewrites.setNZ hn _))

theorem ActClosed.loadX (hx : w .x = true) (hn : w .nz = true) (s : State) (v : Byte) : R s ((s.setX v).setNZ v) :=
  hR.rewrites ((Rewrites.setX hx _).trans (Rewrites.setNZ hn _))

theorem ActClosed.loadY (hy : w .y = true) (hn : w .nz = true) (s : State) (v : Byte) : R s ((s.setY v).setNZ v) :=
  hR.rewrites ((Rewrites.setY hy _).trans (Rewrites.setNZ hn _))

theorem ActClosed.loadAX (ha : w .a = true) (hx : w .x = true) (hn : w .nz = true) (s : State) (v : Byte) :
    R s (((s.setA v).setX v).setNZ v) :=
  hR.rewrites (((Rewrites.setA ha _).trans (Rewrites.setX hx _)).trans (Rewrites.setNZ hn _))

theorem ActClosed.setC (hc : w .c = true) (s : State) (b : Bool) : R s (s.setC b) := hR.rewrites (Rewrites.setC hc b)

theorem ActClosed.compare (hn : w .nz = true) (hc : w .c = true) (s : State) (r v : Byte) : R s (s.compare r v) :=
  hR.rewrites ((Rewrites.setC hc _).trans (Rewrites.setNZ hn _))

/-- A shift or rotate sets C and N and Z (R300). -/
theorem ActClosed.shiftWith (hn : w .nz = true) (hc : w .c = true) (r : Byte × Bool) (s : State) : R s (shiftWith r s).2 :=
  hR.rewrites ((Rewrites.setC hc _).trans (Rewrites.setNZ hn _))

theorem ActClosed.rotateWith (hn : w .nz = true) (hc : w .c = true) (r : Byte × Bool) (s : State) : R s (rotateWith r s).2 :=
  hR.guard (s := s) (l := [.c]) (k := fun s => (Machine.shiftWith r s).2) (hR.shiftWith hn hc r s)

/-- An instruction with an accumulator form (R301 to R304). -/
theorem ActClosed.shift {m : Mode} {f : Byte → State → Byte × State} (ha : m = .acc → w .a = true)
    (h : ∀ d s, R s (f d s).2) :
    (if m = .acc then Sequence.implied (onAccumulator f) else .rmw m f).Does w R := by
  split
  · rename_i hm
    exact fun s => hR.guard (hR.trans (h _ s) (hR.rewrites (Rewrites.setA (ha hm) _)))
  · exact h

/-- The operation of every mnemonic writes what `mnemWrites` lists, and A in an accumulator form. -/
theorem ActClosed.mnemSequence (n : Mnem) (m : Mode) (hw : ∀ p ∈ mnemWrites n, w p = true) (ha : m = .acc → w .a = true) :
    (mnemSequence n m).Does w R := by
  cases n with
  | sta | sax | sty | stx | jam => trivial
  | jmp => simp only [Machine.mnemSequence]; split <;> trivial
  | nop =>
    simp only [Machine.mnemSequence]
    split
    · exact hR.refl
    · exact fun _ => hR.refl
  | bpl | bmi | bcc | bcs | bne | beq => exact fun s => hR.uses s _
  | bvc | bvs => exact fun s => hR.trans (hR.hook s) (hR.uses _ _)
  | sha | shx | shy => exact fun s => hR.uses s _
  | shs => exact fun s => hR.guard (hR.rewrites (Rewrites.setS (hw .sp (by decide)) _))
  | lda => exact fun d s => hR.loadA (hw .a (by decide)) (hw .nz (by decide)) s d
  | and | ora | eor => exact fun d s => hR.guard (hR.loadA (hw .a (by decide)) (hw .nz (by decide)) s _)
  | ane =>
    intro d s
    dsimp only [readAne]
    exact hR.guard (hR.loadA (hw .a (by decide)) (hw .nz (by decide)) s _)
  | txa | tya => exact fun s => hR.guard (hR.loadA (hw .a (by decide)) (hw .nz (by decide)) s _)
  | ldx => exact fun d s => hR.loadX (hw .x (by decide)) (hw .nz (by decide)) s d
  | tax | inx | dex => exact fun s => hR.guard (hR.loadX (hw .x (by decide)) (hw .nz (by decide)) s _)
  | tsx => exact fun s => hR.loadX (hw .x (by decide)) (hw .nz (by decide)) s _
  | ldy => exact fun d s => hR.loadY (hw .y (by decide)) (hw .nz (by decide)) s d
  | tay | iny | dey => exact fun s => hR.guard (hR.loadY (hw .y (by decide)) (hw .nz (by decide)) s _)
  | lax => exact fun d s => hR.loadAX (hw .a (by decide)) (hw .x (by decide)) (hw .nz (by decide)) s d
  | lxa =>
    intro d s
    dsimp only [readLxa]
    exact hR.guard (hR.loadAX (hw .a (by decide)) (hw .x (by decide)) (hw .nz (by decide)) s _)
  | las =>
    exact fun d s => hR.rewrites ((((Rewrites.setA (hw .a (by decide)) _).trans (Rewrites.setX (hw .x (by decide)) _)).trans
      (Rewrites.setS (hw .sp (by decide)) _)).trans (Rewrites.setNZ (hw .nz (by decide)) _))
  | sbx =>
    intro d s
    dsimp only [readSbx]
    exact hR.guard (hR.trans (hR.compare (hw .nz (by decide)) (hw .c (by decide)) s _ _)
      (hR.rewrites (Rewrites.setX (hw .x (by decide)) _)))
  | adc | sbc | arr => exact fun d s => hR.guard (hR.setAlu hw s _)
  | usbc =>
    intro d s
    dsimp only [readUsbc, readSbc]
    exact hR.guard (hR.setAlu hw s _)
  | isb =>
    intro d s
    dsimp only [modifyIsb, readSbc]
    exact hR.guard (hR.setAlu hw s _)
  | rra =>
    intro d s
    dsimp only [modifyRra, readAdc]
    exact hR.guard (hR.trans (hR.setC (hw .c (by decide)) s _) (hR.guard (hR.setAlu hw _ _)))
  | slo =>
    intro d s
    dsimp only [modifySlo, readOra]
    exact hR.trans (hR.setC (hw .c (by decide)) s _) (hR.guard (hR.loadA (hw .a (by decide)) (hw .nz (by decide)) _ _))
  | sre =>
    intro d s
    dsimp only [modifySre, readEor]
    exact hR.trans (hR.setC (hw .c (by decide)) s _) (hR.guard (hR.loadA (hw .a (by decide)) (hw .nz (by decide)) _ _))
  | rla =>
    intro d s
    dsimp only [modifyRla, readAnd]
    exact hR.guard (hR.trans (hR.setC (hw .c (by decide)) s _)
      (hR.guard (hR.loadA (hw .a (by decide)) (hw .nz (by decide)) _ _)))
  | anc =>
    exact fun d s => hR.guard (hR.trans (hR.guard (hR.loadA (hw .a (by decide)) (hw .nz (by decide)) s _))
      (hR.setC (hw .c (by decide)) _ _))
  | alr =>
    intro d s
    dsimp only [readAlr]
    exact hR.guard (hR.rewrites (((Rewrites.setA (hw .a (by decide)) _).trans
      (Rewrites.setC (hw .c (by decide)) _)).trans (Rewrites.setNZ (hw .nz (by decide)) _)))
  | cmp | cpx | cpy => exact fun d s => hR.guard (hR.compare (hw .nz (by decide)) (hw .c (by decide)) s _ _)
  | dcp =>
    intro d s
    dsimp only [modifyDcp, readCmp]
    exact hR.guard (hR.compare (hw .nz (by decide)) (hw .c (by decide)) s _ _)
  | asl | lsr => exact hR.shift ha fun d s => hR.shiftWith (hw .nz (by decide)) (hw .c (by decide)) _ s
  | rol | ror => exact hR.shift ha fun d s => hR.rotateWith (hw .nz (by decide)) (hw .c (by decide)) _ s
  | inc | dec => exact fun d s => hR.rewrites (Rewrites.setNZ (hw .nz (by decide)) _)
  | bit =>
    exact fun d s => hR.guard (hR.trans (hR.trans (hR.rewrites (Rewrites.setN (hw .nz (by decide)) _))
      (hR.writeV (hw .v (by decide)) _ _)) (hR.rewrites (Rewrites.setZ (hw .nz (by decide)) _)))
  | clc | sec => exact fun s => hR.setC (hw .c (by decide)) s _
  | cld | sed => exact fun s => hR.rewrites (Rewrites.setD (hw .d (by decide)) _)
  | cli | sei => exact fun s => hR.changingI (fun u => hR.rewrites (Rewrites.setI (hw .i (by decide)) _)) s
  | clv => exact fun s => hR.writeV (hw .v (by decide)) s _
  | txs => exact fun s => hR.guard (hR.rewrites (Rewrites.setS (hw .sp (by decide)) _))
  | pha => exact ⟨hw .sp (by decide), fun s => hR.uses s _⟩
  | php => exact ⟨hw .sp (by decide), hR.packAccess⟩
  | pla => exact ⟨hw .sp (by decide), fun d s => hR.loadA (hw .a (by decide)) (hw .nz (by decide)) s d⟩
  | plp =>
    exact ⟨hw .sp (by decide), fun d s =>
      hR.changingI (fun u => hR.unpack (fun p hp => hw p (List.mem_cons_of_mem _ hp)) u d) s⟩
  | jsr | rts => exact hw .sp (by decide)
  | brk => exact ⟨hw .sp (by decide), hw .i (by decide)⟩
  | rti => exact ⟨hw .sp (by decide), fun p hp => hw p (List.mem_cons_of_mem _ hp)⟩

end

/-! ### Relations that hold across every tick -/

/-- `R` holds across what happens in a tick besides the micro-op: PHI1, the host calls after the micro-op, and the tick's end. -/
structure TickClosed (R : State → State → Prop) : Prop where
  phi1 : ∀ s, R s s.phi1
  late : ∀ s, R s (s.hostCalls .afterCpu)
  endTick : ∀ s f, R s (State.endTick s f)

section
variable {w : Part → Bool} {R : State → State → Prop} (hR : ActClosed w R) (hT : TickClosed R)
include hR hT

theorem ActClosed.executeTick {f : Feed} {m : MicroOp} {s : State} (h : R s (m.perform f s)) : R s (s.executeTick f m) :=
  hR.trans h (hR.trans (hT.late _) (hT.endTick _ _))

theorem ActClosed.stallTick (s : State) : R s s.stallTick := hR.trans (hT.late s) (hT.endTick _ _)

end

section
variable {w : Part → Bool} {R : State → State → Prop} (hR : ActClosed w R) (hB : BusClosed R) (hT : TickClosed R)
include hR hB

/-- `R` holds across a micro-op that does what `R` allows. -/
theorem ActClosed.perform {m : MicroOp} (h : m.Acts R) (f : Feed) (s : State) : R s (m.perform f s) :=
  MicroOp.perform_keeps hB h (fun slot _ _ _ b => hR.rewrites (Rewrites.keepOperand slot b)) f s

theorem ActClosed.terminalFetch (f : Feed) (s : State) : R s (terminalFetch.perform f s) :=
  hR.perform hB (m := Machine.terminalFetch) (fun _ t => hR.rewrites (Rewrites.startSequence (s := t) _)) f s

theorem ActClosed.terminalEntry (k : Entry) (u : State) (f : Feed) (s : State) : R s ((terminalEntry k u).perform f s) :=
  hR.perform hB (m := Machine.terminalEntry k u) (fun _ t => hR.rewrites (Rewrites.startSequence (s := t) _)) f s

include hT

/-- `R` holds across a run of ticks of a sequence that does what `R` allows, whatever ends it. -/
theorem ActClosed.runSeq {q : Sequence} (h : q.Does w R) (f : Feed) (n : Nat) (s : State) : R s (runSeq f q n s) :=
  runSeq_keeps (R s) f q (fun u g => hR.trans g (hT.phi1 u)) (fun u g => hR.trans g (hT.late u))
    (fun u f g => hR.trans g (hT.endTick u f)) (fun _ g => hR.trans g (hR.rewrites (Rewrites.markStall q)))
    (fun u g => hR.trans g (hR.perform hB (hR.micro h u) f u)) n s (hR.refl s)

/-- `R` holds across an instruction: what it answers is the outcome of a state that `R` relates to the one before. -/
theorem ActClosed.runInstr {q : Sequence} (h : q.Does w R) (i : Instr) (s : State) :
    ∃ t, runInstr i q s = t.outcome ∧ R s.clearLogs t := by
  have hphi := hT.phi1 s.clearLogs
  unfold Machine.runInstr
  simp only
  split
  · exact ⟨_, rfl, hphi⟩
  · split
    · exact ⟨_, rfl, hR.trans hphi (hR.stallTick hT _)⟩
    · exact ⟨_, rfl, hR.trans hphi (hR.trans (hR.executeTick hT (hR.terminalFetch hB _ _)) (hR.runSeq hB hT h _ _ _))⟩

theorem ActClosed.exec (i : Instr) (hw : ∀ p ∈ mnemWrites i.mnem, w p = true) (ha : i.mode = .acc → w .a = true) (s : State) :
    ∃ t, exec i s = t.outcome ∧ R s.clearLogs t := by
  rw [exec_eq]
  exact hR.runInstr hB hT (hR.mnemSequence _ _ hw ha) i s

end

section
variable {R : State → State → Prop} (hR : ActClosed (fun _ => true) R) (hB : BusClosed R) (hT : TickClosed R)
include hR hB hT

/-- A relation across everything that a tick can do, any register being written, holds across a step, where it holds across the
fault of a poll (R476). -/
theorem ActClosed.step (hpoll : ∀ u : State, u.pollFaults = true → R u u.uninitFault) (s : State) :
    ∃ t, step s = t.outcome ∧ R s.clearLogs t := by
  have hphi := hT.phi1 s.clearLogs
  unfold Machine.step State.stepOnce
  simp only
  generalize hu : s.clearLogs.phi1 = u at hphi
  split
  · exact ⟨_, rfl, hphi⟩
  · split
    · split
      · exact ⟨_, rfl, hR.trans hphi (hR.stallTick hT u)⟩
      · split
        · exact ⟨_, rfl, hR.trans hphi (hpoll u ‹_›)⟩
        · split
          · rename_i k _
            refine ⟨_, rfl, hR.trans hphi (hR.trans ?_ (hR.runSeq hB hT (q := .entry k) ⟨rfl, rfl⟩ _ _ _))⟩
            exact hR.trans (hR.rewrites (Rewrites.accept k)) (hR.executeTick hT (hR.terminalEntry hB k u _ _))
          · exact hR.exec hB hT _ (fun _ _ => rfl) (fun _ => rfl) s
    · refine ⟨_, rfl, hR.trans hphi (hR.runSeq hB hT ?_ _ _ u)⟩
      unfold State.currentSequence
      split
      · exact fun t => hR.refl t
      · exact hR.mnemSequence _ _ (fun _ _ => rfl) (fun _ => rfl)
      · exact ⟨rfl, rfl⟩

end

end Sys2Proof.Machine

namespace Sys2Proof.Machine

/-! ### A machine that nothing can stop (R46, R503, R580) -/

/-- No fault, the IRQ line in order, no clear of a line on the agenda, and every register may be read. -/
structure State.Fit (s : State) : Prop where
  sound : s.sound
  noClears : s.noClears = true
  readable : s.readable = true

theorem State.initialised_iff {s : State} : s.initialised = true ↔ ∀ r, s.cpu.written.has r = true := by
  simp only [State.initialised, Bool.and_eq_true]
  constructor
  · rintro ⟨⟨⟨⟨⟨⟨⟨⟨h1, h2⟩, h3⟩, h4⟩, h5⟩, h6⟩, h7⟩, h8⟩, h9⟩ r
    cases r <;> assumption
  · exact fun h => ⟨⟨⟨⟨⟨⟨⟨⟨h .a, h .x⟩, h .y⟩, h .n⟩, h .v⟩, h .d⟩, h .i⟩, h .z⟩, h .c⟩

theorem State.readable_iff {s : State} :
    s.readable = true ↔ s.params.uninitAsDraw = true ∨ (∀ r, s.cpu.written.has r = true) ∧ s.pollKnown = true := by
  rw [State.readable, Bool.or_eq_true, Bool.and_eq_true, State.initialised_iff]
  rfl

/-- Where every register may be read, the decision reads its I (R476). -/
theorem State.Fit.pollFaults {s : State} (h : s.Fit) : s.pollFaults = false := by
  have hpoll : s.mayPoll = true := by
    rcases State.readable_iff.mp h.readable with hd | ⟨hw, hk⟩
    · simp [State.mayPoll, hd]
    · have hi : s.cpu.written.i = true := hw .i
      simp only [State.pollKnown, Bool.or_eq_true, Bool.not_eq_true'] at hk
      simp only [State.mayPoll, Bool.or_eq_true]
      refine .inr ?_
      split
      · rename_i hc
        exact hk.resolve_right (by simp_all)
      · exact hi
  simp [State.pollFaults, hpoll]

/-- What `Fit` speaks of: the fault and the IRQ line, the agenda, the arguments, the `written` bits and IPREV. -/
theorem State.Fit.of_kept {s t : State} (h : s.Fit) (hs : s.sound → t.sound) (ha : s.noClears = true → t.noClears = true)
    (hp : t.params = s.params) (hw : WrittenKept s t)
    (hk : s.cpu.written.i = true → s.pollKnown = true → t.pollKnown = true) : t.Fit := by
  refine ⟨hs h.sound, ha h.noClears, ?_⟩
  rw [State.readable_iff, hp]
  refine (State.readable_iff.mp h.readable).imp_right ?_
  rintro ⟨hall, hpoll⟩
  exact ⟨fun r => hw r (hall r), hk (hall .i) hpoll⟩

theorem State.noClears_of_agenda {s t : State} (h : t.agenda = s.agenda) (hs : s.noClears = true) : t.noClears = true := by
  rwa [State.noClears, h]

theorem State.Fit.outside {s t : State} (h : s.Fit) (ho : Outside s t) (ha : s.noClears = true → t.noClears = true)
    (hs : s.sound → t.sound) : t.Fit :=
  h.of_kept hs ha ho.params ho.written fun _ hk => by rw [State.pollKnown, ho.latches]; exact hk

theorem State.Fit.dev {s t : State} (h : s.Fit) (hd : Dev s t) : t.Fit :=
  h.outside hd.outside (State.noClears_of_agenda hd.agenda) hd.sound

theorem State.Fit.rewrites {w : Part → Bool} {s t : State} (h : s.Fit) (hr : Rewrites w s t) : t.Fit := by
  have hw := hr.written
  have hk := hr.poll
  obtain ⟨_, _, _, _, rfl⟩ := hr.rest
  exact h.of_kept id id rfl hw hk

theorem fit_actClosed (w : Part → Bool) : ActClosed w (fun s t => s.Fit → t.Fit) where
  trans h g := g ∘ h
  rewrites hr h := h.rewrites hr
  hook s h := h.dev (Dev.onVAccess s)
  guard hk h := by
    rw [State.using_eq (State.mayUse_of_readable h.readable _)]
    exact hk h

theorem fit_busClosed : BusClosed (fun s t => s.Fit → t.Fit) where
  trans h g := g ∘ h
  read s a h := by
    obtain ⟨t, ht, hd, -⟩ := s.busRead_dev a
    rw [ht]
    exact (h.dev hd).of_kept id id rfl (WrittenKept.refl t) fun _ => id
  write s a v h := by
    obtain ⟨t, ht, hd⟩ := s.busWrite_dev a v
    have hfit : t.Fit := by
      rcases hd with ⟨-, rfl⟩ | ⟨-, hd⟩
      · exact h.of_kept id id rfl (WrittenKept.refl s) fun _ => id
      · exact h.dev hd
    rw [ht]
    exact hfit.of_kept id id rfl (WrittenKept.refl t) fun _ => id

/-- No host call but a clear of an interrupt line can stop the machine (R471, R472, R503). -/
theorem State.sound_apply {c : HostCall} (h1 : c ≠ .clearIRQ) (h2 : c ≠ .clearNMI) {s : State} (hs : s.sound) :
    (s.apply c).sound := by
  cases c with
  | clearIRQ => exact absurd rfl h1
  | clearNMI => exact absurd rfl h2
  | triggerIRQ =>
    rw [State.sound_iff] at hs ⊢
    exact ⟨hs.1, Nat.le_succ_of_le hs.2⟩
  | triggerNMI | triggerRST | setBusHold | forcedJump | setOverflow | eject => exact hs
  | signal k l e => exact (Dev.signal s k l e).sound hs
  | driveReset =>
    have hreset := (Dev.viaReset s.triggerRST .via1).sound hs
    exact State.unlessStopped_keeps hreset ((Dev.viaReset _ .via2).sound hreset)
  | insert tracks wp =>
    show (s.insertDisk tracks wp).sound
    unfold State.insertDisk
    simp only
    split
    · exact hs
    · split <;> exact hs
  | setTrack n bytes =>
    show (s.setTrack n bytes).sound
    unfold State.setTrack
    split
    · exact hs
    · simp only
      split <;> exact hs

/-- No host call changes the agenda. -/
theorem State.agenda_apply (s : State) (c : HostCall) : (s.apply c).agenda = s.agenda := by
  cases c with
  | triggerIRQ | triggerNMI | triggerRST | setBusHold | forcedJump | setOverflow | eject => rfl
  | clearIRQ =>
    show s.clearIRQ.agenda = _
    unfold State.clearIRQ
    split <;> rfl
  | clearNMI =>
    show s.clearNMI.agenda = _
    unfold State.clearNMI
    split <;> rfl
  | signal k l e => exact (Dev.signal s k l e).agenda
  | driveReset =>
    have hreset := (Dev.viaReset s.triggerRST .via1).agenda
    exact State.unlessStopped_keeps (P := fun t => t.agenda = s.agenda) hreset
      ((Dev.viaReset _ .via2).agenda.trans hreset)
  | insert tracks wp =>
    show (s.insertDisk tracks wp).agenda = _
    unfold State.insertDisk
    simp only
    split
    · rfl
    · split <;> rfl
  | setTrack n bytes =>
    show (s.setTrack n bytes).agenda = _
    unfold State.setTrack
    split
    · rfl
    · simp only
      split <;> rfl

theorem State.noClears_iff {s : State} :
    s.noClears = true ↔ ∀ d ∈ s.agenda, d.call ≠ .clearIRQ ∧ d.call ≠ .clearNMI := by
  simp [State.noClears]

theorem State.Fit.applyAll {l : List Due} (hl : ∀ d ∈ l, d.call ≠ .clearIRQ ∧ d.call ≠ .clearNMI) {s : State} (h : s.Fit) :
    (s.applyAll l).Fit := by
  induction l generalizing s with
  | nil => exact h
  | cons d l ih =>
    rw [List.forall_mem_cons] at hl
    obtain ⟨⟨h1, h2⟩, hl⟩ := hl
    exact State.unlessStopped_keeps h (ih hl (h.outside (Outside.apply s d.call)
      (State.noClears_of_agenda (State.agenda_apply s d.call)) (State.sound_apply h1 h2)))

theorem State.Fit.hostCalls {s : State} (h : s.Fit) (m : Moment) : (s.hostCalls m).Fit := by
  have hno := State.noClears_iff.mp h.noClears
  refine State.Fit.applyAll (fun d hd => hno d (List.mem_of_mem_filter hd)) ?_
  exact h.of_kept id (fun _ => State.noClears_iff.mpr fun d hd => hno d (List.mem_of_mem_filter hd)) rfl
    (WrittenKept.refl s) fun _ => id

/-- What holds across the host calls and across device activity holds across PHI1 (R586, R650). -/
theorem State.phi1_keeps {P : State → Prop} (hcalls : ∀ s m, P s → P (s.hostCalls m)) (hattach : ∀ s, P s → P s.attachDue)
    (hvia : ∀ s k, P s → P (s.viaStep k)) (hrot : ∀ s, P s → P s.rotationStep) (hhalf : ∀ s, P s → P { s with half := .phi2 })
    {s : State} (h : P s) : P s.phi1 := by
  have place : ∀ u m, P u → P (u.hostCalls m).attachDue := fun u m hu => hattach _ (hcalls u m hu)
  unfold State.phi1
  split
  · exact h
  · exact hhalf _ (hcalls _ _ (hrot _ (place _ _ (hvia _ _ (place _ _ (hvia _ _ (place _ _ h)))))))

theorem fit_tickClosed : TickClosed (fun s t => s.Fit → t.Fit) where
  phi1 _ h := State.phi1_keeps (fun _ m h => h.hostCalls m) (fun s h => h.dev (Dev.attachDue s))
    (fun s k h => h.dev (Dev.viaStep s k)) (fun s h => h.dev (Dev.rotationStep s))
    (fun s h => h.of_kept id id rfl (WrittenKept.refl s) fun _ => id) h
  late _ h := h.hostCalls .afterCpu
  endTick s _ h := h.of_kept id id rfl (WrittenKept.refl s) fun _ => id

/-- Settles O8: everything that a step is made of keeps the machine fit, so no fault comes. -/
theorem stepNeverFaults : Obligations.StepNeverFaults := by
  intro s hrun hlines hclears hread
  have hfit : s.clearLogs.Fit := ⟨⟨Option.isNone_iff_eq_none.mp hrun, hlines⟩, hclears, hread⟩
  obtain ⟨t, ht, hR⟩ := (fit_actClosed _).step fit_busClosed fit_tickClosed
    (fun u hp hu => by simp [hu.pollFaults] at hp) s
  obtain ⟨⟨hstop, htl⟩, htc, htr⟩ := hR hfit
  exact ⟨t, ht.trans (State.outcome_eq_next.mpr ⟨rfl, hstop⟩), by simp [State.running, hstop], htl, htc, htr⟩

end Sys2Proof.Machine

namespace Sys2Proof.Machine

/-! ### O47 -/

/-- From `s` to `t` the parts of the register file that `w` does not allow are the same. -/
def Framed (w : Part → Bool) (s t : State) : Prop := ∀ p, w p = false → p.Same s t

theorem framed_actClosed (w : Part → Bool) : ActClosed w (Framed w) where
  trans h g p hp := (h p hp).trans (g p hp)
  rewrites hr := hr.same
  hook s p _ := (Dev.onVAccess s).outside.same p
  guard hk := State.using_keeps (P := Framed w _) hk fun p _ => Part.same_of_cpu rfl p

theorem framed_busClosed (w : Part → Bool) : BusClosed (Framed w) where
  trans h g p hp := (h p hp).trans (g p hp)
  read s a p _ := by
    obtain ⟨t, ht, hd, -⟩ := s.busRead_dev a
    rw [ht]
    exact (hd.outside.same p).trans (Part.same_of_cpu rfl p)
  write s a v p _ := by
    obtain ⟨t, ht, hd⟩ := s.busWrite_dev a v
    rw [ht]
    rcases hd with ⟨-, rfl⟩ | ⟨-, hd⟩
    · exact Part.same_of_cpu rfl p
    · exact (hd.outside.same p).trans (Part.same_of_cpu rfl p)

theorem framed_tickClosed (w : Part → Bool) : TickClosed (Framed w) where
  phi1 s p _ := (Outside.phi1 s).same p
  late s p _ := (Outside.hostCalls s _).same p
  endTick _ _ p _ := Part.same_of_cpu rfl p

/-- The parts of the register file that an instruction is listed as writing. -/
def Instr.writes (i : Instr) : Part → Bool
  | .a => writesA i
  | .x => writesX i
  | .y => writesY i
  | .sp => writesS i
  | .nz => writesNZ i
  | .v => writesV i
  | .ub => [Mnem.plp, .rti].contains i.mnem
  | .d => writesD i
  | .i => writesI i
  | .c => writesC i

theorem writes_of_mnemWrites (i : Instr) : ∀ p ∈ mnemWrites i.mnem, Instr.writes i p = true := by
  cases hn : i.mnem <;>
    simp [mnemWrites, Instr.writes, writesA, writesX, writesY, writesS, writesNZ, writesV, writesD, writesI, writesC, hn]

/-- Settles O47: an instruction is made of acts that rewrite the parts listed, of bus accesses and of ticks. -/
theorem frameOfRegistersAndFlags : Obligations.FrameOfRegistersAndFlags := by
  intro i s t h
  obtain ⟨u, hu, hR⟩ := (framed_actClosed (Instr.writes i)).exec (framed_busClosed _) (framed_tickClosed _) i
    (writes_of_mnemWrites i) (fun hm => by simp [Instr.writes, writesA, hm]) s
  obtain ⟨rfl, -⟩ := State.outcome_eq_next.mp (hu.symm.trans h)
  exact ⟨hR .a, hR .x, hR .y, hR .sp, hR .nz, hR .c, hR .d, hR .i, fun hm => hR .ub (by simpa [Instr.writes] using hm), hR .v⟩

/-! ### O51 -/

/-- The devices are as they were, no one has been called, and no value was drawn unless the memory map has holes. -/
structure DevicesKept (s t : State) : Prop where
  params : t.params = s.params
  agenda : t.agenda = s.agenda
  via1 : t.via1 = s.via1
  via2 : t.via2 = s.via2
  rot : t.rot = s.rot
  tracks : t.disk.tracks = s.disk.tracks
  calls : t.calls = s.calls
  draws : s.params.regions.all (fun r => r.kind != .unmapped) = true → t.draws = s.draws

theorem DevicesKept.trans {s t u : State} (h : DevicesKept s t) (g : DevicesKept t u) : DevicesKept s u :=
  ⟨g.params.trans h.params, g.agenda.trans h.agenda, g.via1.trans h.via1, g.via2.trans h.via2, g.rot.trans h.rot,
    g.tracks.trans h.tracks, g.calls.trans h.calls, fun hr => (g.draws (by rwa [h.params])).trans (h.draws hr)⟩

theorem DevicesKept.refl (s : State) : DevicesKept s s := ⟨rfl, rfl, rfl, rfl, rfl, rfl, rfl, fun _ => rfl⟩

/-- A bare core to which no host call comes. -/
structure State.Alone (s : State) : Prop where
  core : s.params.platform = .core
  agenda : s.agenda = []

theorem DevicesKept.alone {s t : State} (h : DevicesKept s t) (hs : s.Alone) : t.Alone :=
  ⟨by rw [h.params]; exact hs.core, h.agenda.trans hs.agenda⟩

theorem DevicesKept.trans_alone {s t u : State} (h : s.Alone → DevicesKept s t) (g : t.Alone → DevicesKept t u)
    (hs : s.Alone) : DevicesKept s u := (h hs).trans (g ((h hs).alone hs))

theorem alone_actClosed (w : Part → Bool) : ActClosed w (fun s t => s.Alone → DevicesKept s t) where
  trans := DevicesKept.trans_alone
  rewrites hr _ := by
    obtain ⟨_, _, _, _, rfl⟩ := hr.rest
    exact ⟨rfl, rfl, rfl, rfl, rfl, rfl, rfl, fun _ => rfl⟩
  hook s hs := by
    rw [State.onVAccess_core hs.core]
    exact DevicesKept.refl s
  guard hk hs :=
    State.using_keeps (P := DevicesKept _) (hk hs) ⟨rfl, rfl, rfl, rfl, rfl, rfl, rfl, fun _ => rfl⟩

theorem State.deviceAt_core {s : State} (h : s.params.platform = .core) (a : Word) : s.deviceAt a = none := by
  simp [State.deviceAt, h]

/-- Where no region is a hole, no address is unmapped (R80). -/
theorem State.regionAt_mapped {s : State} (h : s.params.regions.all (fun r => r.kind != .unmapped) = true) (a : Word) :
    s.regionAt a ≠ .unmapped := by
  unfold State.regionAt
  split
  · rename_i r hr
    simpa using List.all_eq_true.mp h r (List.mem_of_find?_eq_some hr)
  · decide

theorem alone_busClosed : BusClosed (fun s t => s.Alone → DevicesKept s t) where
  trans := DevicesKept.trans_alone
  read s a hs := by
    simp only [State.busRead, State.readMemory, State.deviceAt_core hs.core]
    split
    · rename_i hu
      exact ⟨rfl, rfl, rfl, rfl, rfl, rfl, rfl, fun hr => absurd hu (State.regionAt_mapped hr a)⟩
    · exact ⟨rfl, rfl, rfl, rfl, rfl, rfl, rfl, fun _ => rfl⟩
  write s a v hs := by
    simp only [State.busWrite, State.writeMemory, State.deviceAt_core hs.core]
    split <;> exact ⟨rfl, rfl, rfl, rfl, rfl, rfl, rfl, fun _ => rfl⟩

theorem DevicesKept.hostCalls {s : State} (hs : s.Alone) (m : Moment) : DevicesKept s (s.hostCalls m) := by
  have hquiet : s.quietFor 0 = true := by simp [State.quietFor, hs.agenda]
  rw [State.hostCalls_quiet hquiet]
  exact DevicesKept.refl s

theorem DevicesKept.attachDue (s : State) : DevicesKept s s.attachDue := by
  unfold State.attachDue
  split
  · split
    · exact ⟨rfl, rfl, rfl, rfl, rfl, rfl, rfl, fun _ => rfl⟩
    · exact DevicesKept.refl s
  · exact DevicesKept.refl s

theorem alone_tickClosed : TickClosed (fun s t => s.Alone → DevicesKept s t) where
  phi1 s hs := by
    have keep : ∀ {t u : State}, (t.Alone → DevicesKept t u) → t.Alone ∧ DevicesKept s t → u.Alone ∧ DevicesKept s u :=
      fun h ⟨ht, hk⟩ => ⟨(h ht).alone ht, hk.trans (h ht)⟩
    have core : ∀ {t u : State}, (t.params.platform = .core → u = t) → t.Alone → DevicesKept t u :=
      fun h ht => by rw [h ht.core]; exact DevicesKept.refl _
    exact (State.phi1_keeps (P := fun t => t.Alone ∧ DevicesKept s t)
      (fun _ m => keep fun ht => DevicesKept.hostCalls ht m) (fun t => keep fun _ => DevicesKept.attachDue t)
      (fun t k => keep (core fun h => by simp [State.viaStep, h]))
      (fun t => keep (core fun h => by simp [State.rotationStep, h]))
      (fun t => keep fun _ => ⟨rfl, rfl, rfl, rfl, rfl, rfl, rfl, fun _ => rfl⟩) ⟨hs, DevicesKept.refl s⟩).2
  late s hs := DevicesKept.hostCalls hs _
  endTick _ _ _ := ⟨rfl, rfl, rfl, rfl, rfl, rfl, rfl, fun _ => rfl⟩

/-- Settles O51: neither the acts of the CPU nor its bus accesses nor the ticks of a bare core reach a device. -/
theorem bareCoreHasNoDevices : Obligations.BareCoreHasNoDevices := by
  intro s t hcore hagenda h
  obtain ⟨u, hu, hR⟩ := (alone_actClosed _).step alone_busClosed alone_tickClosed
    (fun u _ _ => ⟨rfl, rfl, rfl, rfl, rfl, rfl, rfl, fun _ => rfl⟩) s
  obtain ⟨rfl, -⟩ := State.outcome_eq_next.mp (hu.symm.trans h)
  have hk := hR ⟨hcore, hagenda⟩
  exact ⟨hk.via1, hk.via2, hk.rot, hk.tracks, hk.calls, hk.draws⟩

end Sys2Proof.Machine

namespace Sys2Proof.Machine

/-! ### An instruction that completes (R155) -/

theorem Calm.clearLogs {n : Nat} {s : State} (h : Calm n s) : Calm n s.clearLogs :=
  ⟨h.running, h.lines, h.hold, h.quiet, h.pages⟩

/-- An instruction has completed when calm ticks have passed and its sequence has ended. -/
theorem runs_of_passed {i : Instr} {s t : State} {n : Nat} {P : State → Prop} (hready : s.ready = true)
    (he : exec i s = t.outcome) (hp : Passed s.clearLogs t n) (hb : t.sq.seq = .boundary) (h : P t) : Runs i s n P := by
  have hc := (State.ready_calm hready).clearLogs
  obtain ⟨hstop, hlines⟩ := hp.sound ⟨hc.running, hc.lines⟩
  refine ⟨t, he.trans (State.outcome_eq_next.mpr ⟨rfl, hstop⟩), ?_, ⟨hp.nmiCount, hp.nmiPending, hp.rstPending⟩, h⟩
  exact ⟨hb, hp.tick, hp.half, hstop, hlines, hp.hold.trans hc.hold, hp.params, hp.agenda, by
    rw [hp.bus]; exact Nat.zero_add n⟩

/-- The programmer's view after ticks that moved PC alone. -/
theorem Moved.regs {s t : State} {k : Nat} (h : Moved s t k) : t.regs = { s.regs with pc := t.cpu.pc } := by
  simp only [State.regs, h.a, h.x, h.y, h.sp, h.n, h.u, h.b, h.d, h.i, h.z, h.c]

/-- The V hook is device activity: the programmer's view is as it was. -/
theorem Dev.regs {s t : State} (h : Dev s t) : t.regs = s.regs := by
  simp only [State.regs, h.cpu_a, h.cpu_x, h.cpu_y, h.cpu_s, h.cpu_pc, h.cpu_p_n, h.cpu_p_u, h.cpu_p_b, h.cpu_p_d,
    h.cpu_p_i, h.cpu_p_z, h.cpu_p_c]

@[simp] theorem State.writeV_regs (s : State) (v : Bool) : (s.writeV v).regs = s.regs := (Dev.onVAccess s).regs

theorem State.mayUse_sources {s : State} {i : Instr} (h : s.mayUse (usesOf i) = true) :
    s.mayUse (indexSources i.mode) = true ∧ s.mayUse (mnemSources i.mnem) = true := by
  simp only [usesOf, State.mayUse_append, Bool.and_eq_true] at h
  exact ⟨h.1.1, h.2⟩

/-- An operation as the last act of a sequence of calm ticks: the environment is as without it, and memory is as it was. -/
structure EndsCalmly (l : List Source) (op : State → State) : Prop where
  stays : ∀ u, Stays u (op u)
  passed : ∀ {s u k}, State.mayUse u l = true → Passed s (u.endTick .executed) k → Passed s ((op u).endTick .executed) k
  mem : ∀ {u}, State.mayUse u l = true → (op u).mem = u.mem
  bus : ∀ {u}, State.mayUse u l = true → (op u).bus = u.bus

theorem OpSpec.endsCalmly {l : List Source} {op : State → State} (h : OpSpec l op) : EndsCalmly l op :=
  ⟨h.stays, fun hu hp => (h.frame _ hu).passed hp, fun hu => (h.frame _ hu).mem, fun hu => (h.frame _ hu).bus⟩

/-- IPREV takes I before a change of it (R383, R386, R387). -/
def State.copyIPrev (s : State) : State :=
  { s with sq := { s.sq with iprev := s.cpu.p.i, iprevKnown := s.cpu.written.i, ichg := true } }

theorem changingI_eq (s : State) (op : State → State) : changingI s op = op s.copyIPrev := rfl

/-- CLI, SEI and PLP copy I to IPREV before they change the flags. -/
theorem OpSpec.endsCalmly_changingI {op : State → State} (h : OpSpec [] op) : EndsCalmly [] (fun u => changingI u op) where
  stays u := (Stays.mk rfl rfl : Stays u u.copyIPrev).trans (h.stays _)
  passed {s u k} _ hp :=
    have hcopy : Passed s (u.copyIPrev.endTick .executed) k := ⟨hp.params, hp.agenda, hp.hold, hp.nmiCount, hp.nmiPending,
      hp.rstPending, hp.written, hp.sound, hp.tick, hp.half, hp.bus⟩
    (h.frame u.copyIPrev (State.mayUse_nil _)).passed hcopy
  mem {u} _ := (h.frame u.copyIPrev (State.mayUse_nil _)).mem
  bus {u} _ := (h.frame u.copyIPrev (State.mayUse_nil _)).bus

theorem Passed.finish {s u : State} {k : Nat} (h : Passed s (u.endTick .executed) k) :
    Passed s (u.finish.endTick .executed) k :=
  ⟨h.params, h.agenda, h.hold, h.nmiCount, h.nmiPending, h.rstPending, h.written, h.sound, h.tick, h.half, h.bus⟩

/-! ### Implied operands (R159) -/

/-- An implied instruction runs its operation on the registers as they were, PC apart, in two ticks. -/
theorem runs_implied {i : Instr} {op : State → State} {l : List Source} {s : State} {P : State → Prop}
    (hq : sequenceOf i = .implied op) (hop : EndsCalmly l op) (hready : s.ready = true) (hl : s.mayUse l = true)
    (h : ∀ u, Kept s.clearLogs (u.endTick .executed) 2 → u.cpu.pc = s.cpu.pc + 1 → u.mayUse l = true →
      P ((op u).finish.endTick .executed)) : Runs i s 2 P := by
  obtain ⟨u, he, hk, hpc, -⟩ := implied_class i op hop.stays (State.ready_calm hready)
  have hu : u.mayUse l = true := hk.mayUse (s := s.clearLogs) hl
  exact runs_of_passed hready ((exec_eq i s).trans (hq ▸ he)) (hop.passed hu hk.toPassed).finish rfl (h u hk hpc hu)

/-- Such an instruction whose operation maps the programmer's view by `g` and leaves V alone. -/
theorem runs_implied_regs {i : Instr} {op : State → State} {l : List Source} {s : State} {g : Regs → Regs}
    (hq : sequenceOf i = .implied op) (hop : EndsCalmly l op) (hready : s.ready = true) (hl : s.mayUse l = true)
    (hg : ∀ u, u.mayUse l = true → (op u).regs = g u.regs ∧ (op u).cpu.p.v = u.cpu.p.v) :
    Runs i s 2 (fun t => VKept s t ∧ t.mem = s.mem ∧ t.regs = g { s.regs with pc := s.cpu.pc + 1 }) := by
  refine runs_implied hq hop hready hl fun u hk hpc hu => ?_
  obtain ⟨hregs, hv⟩ := hg u hu
  have hkv : VKept s (u.endTick .executed) := hk.v
  refine ⟨?_, (hop.mem hu).trans hk.mem, ?_⟩
  · show (op u).cpu.p.v = _ ∨ ((op u).cpu.p.v = true ∧ _)
    rw [hv]
    exact hkv
  · have hu : u.regs = { s.regs with pc := s.cpu.pc + 1 } := by rw [← hpc]; exact hk.toMoved.regs
    exact hregs.trans (congrArg g hu)

/-- Settles O25: each transfer is an implied operation on the registers. -/
theorem transfers : Obligations.Transfers := by
  refine ⟨rfl, fun i s hready hi => ?_⟩
  obtain ⟨hr, hu⟩ := State.readyFor_iff.mp hready
  have hl := (State.mayUse_sources hu).2
  have hq : sequenceOf i = mnemSequence i.mnem i.mode := rfl
  have hguard : ∀ {u : State} {l : List Source} {k : State → State} {g : Regs → Regs}, u.mayUse l = true →
      (k u).regs = g u.regs → (k u).cpu.p.v = u.cpu.p.v →
      (u.using l k).regs = g u.regs ∧ (u.using l k).cpu.p.v = u.cpu.p.v :=
    fun hm hg hv => by rw [State.using_eq hm]; exact ⟨hg, hv⟩
  generalize i.mnem = n at hi hl hq
  simp only [List.mem_cons, List.not_mem_nil, or_false] at hi
  rcases hi with rfl | rfl | rfl | rfl | rfl | rfl
  · exact runs_implied_regs (g := transferred .tax) hq opTax_spec.endsCalmly hr hl fun u hm => hguard hm rfl rfl
  · exact runs_implied_regs (g := transferred .tay) hq opTay_spec.endsCalmly hr hl fun u hm => hguard hm rfl rfl
  · exact runs_implied_regs (g := transferred .txa) hq opTxa_spec.endsCalmly hr hl fun u hm => hguard hm rfl rfl
  · exact runs_implied_regs (g := transferred .tya) hq opTya_spec.endsCalmly hr hl fun u hm => hguard hm rfl rfl
  · exact runs_implied_regs (g := transferred .tsx) hq opTsx_spec.endsCalmly hr hl fun u _ => ⟨rfl, rfl⟩
  · exact runs_implied_regs (g := transferred .txs) hq opTxs_spec.endsCalmly hr hl fun u hm => hguard hm rfl rfl

/-- Settles O39: each flag instruction is an implied operation on its flag. -/
theorem flagInstructions : Obligations.FlagInstructions := by
  refine ⟨rfl, fun i s hready => ?_⟩
  obtain ⟨hr, hu⟩ := State.readyFor_iff.mp hready
  have hl := (State.mayUse_sources hu).2
  have hq : sequenceOf i = mnemSequence i.mnem i.mode := rfl
  generalize i.mnem = n at hl hq
  constructor
  · intro hi
    simp only [List.mem_cons, List.not_mem_nil, or_false] at hi
    rcases hi with rfl | rfl | rfl | rfl | rfl | rfl
    · exact runs_implied_regs (g := flagResult .clc) hq opClc_spec.endsCalmly hr hl fun u _ => ⟨rfl, rfl⟩
    · exact runs_implied_regs (g := flagResult .sec) hq opSec_spec.endsCalmly hr hl fun u _ => ⟨rfl, rfl⟩
    · exact runs_implied_regs (g := flagResult .cli) hq
        (OpSpec.of_frame fun u => OpFrame.setI u false).endsCalmly_changingI hr hl fun u _ => ⟨rfl, rfl⟩
    · exact runs_implied_regs (g := flagResult .sei) hq
        (OpSpec.of_frame fun u => OpFrame.setI u true).endsCalmly_changingI hr hl fun u _ => ⟨rfl, rfl⟩
    · exact runs_implied_regs (g := flagResult .cld) hq opCld_spec.endsCalmly hr hl fun u _ => ⟨rfl, rfl⟩
    · exact runs_implied_regs (g := flagResult .sed) hq opSed_spec.endsCalmly hr hl fun u _ => ⟨rfl, rfl⟩
  · rintro rfl
    refine runs_implied hq opClv_spec.endsCalmly hr hl fun u hk hpc hm => ?_
    refine ⟨rfl, (opClv_spec.endsCalmly.mem hm).trans hk.mem, ?_⟩
    exact (State.writeV_regs u false).trans (by rw [← hpc]; exact hk.toMoved.regs)

/-! ### Reads (R160 to R176) -/

/-- A read class instruction has an immediate or a memory operand, and its ticks are those of the mode. -/
theorem readClass_ticks {i : Instr} (h : i.row.cls = .read) :
    (i.mode = .imm ∧ i.row.cycles = 2) ∨ (memoryMode i.mode = true ∧ i.row.cycles = accessCycle i.mode false) := by
  have hrow : ∀ j : Instr, (j.row.cls != .read || (j.mode == .imm && j.row.cycles == 2) ||
      (memoryMode j.mode && j.row.cycles == accessCycle j.mode false)) = true := by
    intro j
    cases j <;> rfl
  have hi := hrow i
  simpa only [h, bne_self_eq_false, Bool.false_or, Bool.or_eq_true, Bool.and_eq_true, beq_iff_eq] using hi

/-- The sequence of a read class instruction takes its ticks. -/
theorem State.readTicks_eq (s : State) {i : Instr} (h : i.row.cls = .read) (hm : memoryMode i.mode = true) :
    readTicks i.mode (s.pageCross i) = s.ticksOf i := by
  have hcycles : i.row.cycles = accessCycle i.mode false := by
    rcases readClass_ticks h with ⟨himm, -⟩ | ⟨-, hc⟩
    · rw [himm] at hm
      exact absurd hm (by decide)
    · exact hc
  have hcross : (canCross i.mode && s.pageCross i) = s.pageCross i := by
    rw [State.pageCross_eq, ← Bool.and_assoc, Bool.and_self]
  simp only [readTicks, State.ticksOf, hcross, hcycles, h, true_and]

/-- A read class instruction runs its operation on the operand (R160 to R176). -/
theorem runs_read {i : Instr} {rd : Byte → State → State} {l : List Source} {s : State} {P : State → Prop}
    (hq : sequenceOf i = .read i.mode rd) (hcls : i.row.cls = .read) (hop : ∀ v, EndsCalmly l (rd v))
    (hready : s.ready = true) (hu : s.mayUse (indexSources i.mode) = true) (hl : s.mayUse l = true)
    (h : ∀ (v : Byte) (u : State), Kept s.clearLogs (u.endTick .executed) (s.ticksOf i) → u.cpu.pc = s.nextPC i →
      u.mayUse l = true →
      (∀ t : State, t.bus = u.bus → OperandRead s i t v) → P ((rd v (u.setDATA v)).finish.endTick .executed)) :
    Runs i s (s.ticksOf i) P := by
  have hcalm := State.ready_calm hready
  have hend : ∀ {v : Byte} {u : State}, Kept s.clearLogs (u.endTick .executed) (s.ticksOf i) → u.mayUse l = true →
      Passed s.clearLogs ((rd v (u.setDATA v)).finish.endTick .executed) (s.ticksOf i) := fun {v u} hk hm =>
    ((hop v).passed (u := u.setDATA v) hm ⟨hk.params, hk.agenda, hk.hold, hk.nmiCount, hk.nmiPending, hk.rstPending,
      hk.written, hk.sound, hk.tick, hk.half, hk.bus⟩).finish
  rcases readClass_ticks hcls with ⟨himm, hcycles⟩ | ⟨hm, -⟩
  · obtain ⟨u, he, hk, hpc, -⟩ := imm_class i himm rd (fun v u => (hop v).stays u) hcalm
    have hticks : s.ticksOf i = 2 := by
      simp only [State.ticksOf, hcycles, State.pageCross_eq, himm, canCross, Bool.false_and, Bool.false_eq_true, and_false,
        if_false]
    rw [← hticks] at hk
    have hm : u.mayUse l = true := hk.mayUse (s := s.clearLogs) hl
    exact runs_of_passed hready ((exec_eq i s).trans (hq ▸ himm ▸ he)) (hend hk hm) rfl
      (h _ u hk hpc hm fun t _ => by rw [OperandRead, if_pos himm])
  · obtain ⟨v, u, he, hk, hpc, hbus, hstored, -⟩ := read_class i i.mode hm rfl rd (fun v u => (hop v).stays u) hcalm hu
    rw [s.readTicks_eq hcls hm] at hk
    have himm : i.mode ≠ .imm := fun himm => absurd (himm ▸ hm) (by decide)
    have hmay : u.mayUse l = true := hk.mayUse (s := s.clearLogs) hl
    exact runs_of_passed hready ((exec_eq i s).trans (hq ▸ he)) (hend hk hmay) rfl
      (h v u hk hpc hmay fun t ht => by rw [OperandRead, if_neg himm, ht]; exact ⟨hbus, hstored⟩)

/-- Such an instruction whose operation maps the programmer's view by `g v` and leaves V alone. -/
theorem runs_read_result {i : Instr} {rd : Byte → State → State} {l : List Source} {s : State} {g : Byte → Regs → Regs}
    (hq : sequenceOf i = .read i.mode rd) (hcls : i.row.cls = .read) (hop : ∀ v, EndsCalmly l (rd v))
    (hready : s.ready = true) (hu : s.mayUse (indexSources i.mode) = true) (hl : s.mayUse l = true)
    (hg : ∀ v u, u.mayUse l = true → (rd v u).regs = g v u.regs ∧ (rd v u).cpu.p.v = u.cpu.p.v) :
    Runs i s (s.ticksOf i) (fun t => VKept s t ∧ ∃ v, OperandRead s i t v ∧
      t.regs = g v { s.regs with pc := s.nextPC i } ∧ t.mem = s.mem) := by
  refine runs_read hq hcls hop hready hu hl fun v u hk hpc hm hread => ?_
  have hmd : (u.setDATA v).mayUse l = true := hm
  obtain ⟨hregs, hv⟩ := hg v (u.setDATA v) hmd
  refine ⟨?_, v, hread _ ((hop v).bus hmd), ?_, ((hop v).mem hmd).trans hk.mem⟩
  · have hkv : VKept s (u.endTick .executed) := hk.v
    show (rd v (u.setDATA v)).cpu.p.v = _ ∨ ((rd v (u.setDATA v)).cpu.p.v = true ∧ _)
    rw [hv]
    exact hkv
  · have hu : (u.setDATA v).regs = { s.regs with pc := s.nextPC i } := by rw [← hpc]; exact hk.toMoved.regs
    exact hregs.trans (congrArg (g v) hu)

/-- The programmer's view after a comparison (R269). -/
def comparedWith (n : Mnem) (v : Byte) (r : Regs) : Regs :=
  { r with c := decide (v.toNat ≤ (comparedRegister n r).toNat) }.withNZ (comparedRegister n r - v)

/-- Settles O28: each comparison is a read whose operation compares the register with the operand. -/
theorem compares : Obligations.Compares := by
  intro i s hready hi
  obtain ⟨hr, hu⟩ := State.readyFor_iff.mp hready
  obtain ⟨hidx, hl⟩ := State.mayUse_sources hu
  have hcls : i.row.cls = .read := by
    have hrow : ∀ j : Instr, (!([Mnem.cmp, .cpx, .cpy].contains j.mnem) || j.row.cls == .read) = true := by
      intro j
      cases j <;> rfl
    have hrow := hrow i
    rw [List.contains_iff_mem.mpr hi] at hrow
    exact beq_iff_eq.mp hrow
  have hq : sequenceOf i = mnemSequence i.mnem i.mode := rfl
  show Runs i s (s.ticksOf i) (fun t => VKept s t ∧ ∃ v, OperandRead s i t v ∧
    t.regs = comparedWith i.mnem v { s.regs with pc := s.nextPC i } ∧ t.mem = s.mem)
  generalize i.mnem = n at hi hl hq ⊢
  simp only [List.mem_cons, List.not_mem_nil, or_false] at hi
  rcases hi with rfl | rfl | rfl
  · exact runs_read_result hq hcls (fun v => (readCmp_spec v).endsCalmly) hr hidx hl fun v u hm => by
      rw [readCmp, State.using_eq hm]; exact ⟨rfl, rfl⟩
  · exact runs_read_result hq hcls (fun v => (readCpx_spec v).endsCalmly) hr hidx hl fun v u hm => by
      rw [readCpx, State.using_eq hm]; exact ⟨rfl, rfl⟩
  · exact runs_read_result hq hcls (fun v => (readCpy_spec v).endsCalmly) hr hidx hl fun v u hm => by
      rw [readCpy, State.using_eq hm]; exact ⟨rfl, rfl⟩

end Sys2Proof.Machine

namespace Sys2Proof.Machine

/-! ### The shift and rotate helpers (R300) -/

theorem aslByte_eq (v : Byte) : aslByte v = (BitVec.ofNat 8 (2 * v.toNat), v.getLsbD 7) := by
  refine Prod.ext (BitVec.eq_of_toNat_eq ?_) rfl
  simp only [aslByte, BitVec.toNat_shiftLeft, BitVec.toNat_ofNat, Nat.shiftLeft_eq, Nat.pow_one, Nat.mul_comm]

theorem lsrByte_eq (v : Byte) : lsrByte v = (BitVec.ofNat 8 (v.toNat / 2), v.getLsbD 0) := by
  refine Prod.ext (BitVec.eq_of_toNat_eq ?_) rfl
  have hv := v.isLt
  simp only [lsrByte, BitVec.toNat_ushiftRight, BitVec.toNat_ofNat, Nat.shiftRight_eq_div_pow]
  omega

/-- The carry in takes the bit that the shift left empty: the `or` is a sum. -/
theorem rolByte_eq (v : Byte) (c : Bool) : rolByte v c = (BitVec.ofNat 8 (2 * v.toNat + bit c), v.getLsbD 7) := by
  have hall : ∀ (c : Bool) (v : Byte), (v <<< 1) ||| BitVec.ofNat 8 (bit c) = BitVec.ofNat 8 (2 * v.toNat + bit c) := by
    decide
  exact Prod.ext (hall c v) rfl

theorem rorByte_eq (v : Byte) (c : Bool) : rorByte v c = (BitVec.ofNat 8 (v.toNat / 2 + 128 * bit c), v.getLsbD 0) := by
  have hall : ∀ (c : Bool) (v : Byte),
      (v >>> 1) ||| BitVec.ofNat 8 (128 * bit c) = BitVec.ofNat 8 (v.toNat / 2 + 128 * bit c) := by
    decide
  exact Prod.ext (hall c v) rfl

theorem rotateWith_eq {s : State} (h : s.mayUse [.c] = true) (r : Byte × Bool) : rotateWith r s = shiftWith r s :=
  Prod.ext rfl (State.using_eq h fun s => (shiftWith r s).2)

/-- Settles O54: the helpers on numbers, and what the four operations do with their results. -/
theorem shiftHelpers : Obligations.ShiftHelpers := by
  refine fun v c => ⟨aslByte_eq v, lsrByte_eq v, rolByte_eq v c, rorByte_eq v c, fun s => ⟨rfl, rfl, fun h => ?_⟩⟩
  exact ⟨rotateWith_eq h (rolByte v s.cpu.p.c), rotateWith_eq h (rorByte v s.cpu.p.c)⟩

end Sys2Proof.Machine

namespace Sys2Proof.Machine

/-! ### Calm ticks in which S or the latches change -/

theorem Moved.setS {s t : State} {k : Nat} (h : Moved s t k) (b : Byte) : Moved (s.setS b) (t.setS b) k :=
  { h with sp := rfl, sound := h.sound }

theorem Kept.setS {s t : State} {k : Nat} (h : Kept s t k) (b : Byte) : Kept (s.setS b) (t.setS b) k :=
  { h.toMoved.setS b with mem := h.mem }

theorem Moved.latched {s u : State} {k : Nat} (h : Moved s (u.endTick .executed) k) (l : Latches) :
    Moved s (State.endTick { u with sq := l } .executed) k :=
  { h with sound := h.sound }

theorem Kept.latched {s u : State} {k : Nat} (h : Kept s (u.endTick .executed) k) (l : Latches) :
    Kept s (State.endTick { u with sq := l } .executed) k :=
  { h.toMoved.latched l with mem := h.mem }

/-- Whatever S was, the environment is as it was. -/
theorem Passed.of_setS {s t : State} {k : Nat} {b : Byte} (h : Passed (s.setS b) t k) : Passed s t k :=
  { h with sound := h.sound }

theorem Passed.incS_nextCycle {s u : State} {k : Nat} (h : Passed s (u.endTick .executed) k) :
    Passed s (u.incS.nextCycle.endTick .executed) k :=
  { h with sound := h.sound }

theorem Passed.setPC {s u : State} {k : Nat} (h : Passed s (u.endTick .executed) k) (pc : Word) :
    Passed s ((u.setPC pc).endTick .executed) k :=
  { h with sound := h.sound }

theorem Passed.latched {s u : State} {k : Nat} (h : Passed s (u.endTick .executed) k) (l : Latches) :
    Passed s (State.endTick { u with sq := l } .executed) k :=
  { h with sound := h.sound }

/-- A calm tick that reads and goes on: the act runs on the byte read. -/
theorem runSeq_next_read (feed : Feed) (q : Sequence) (n : Nat) {s : State} (hc : Calm 0 s) (hq : s.sq.seq ≠ .boundary)
    {addr : Word} {act : Byte → State → State}
    (hm : ∀ u : State, u.sq = s.sq → u.cpu.pc = s.cpu.pc → u.cpu.s = s.cpu.s → q.micro u = .read addr act)
    (hact : ∀ d u, Stays u (act d u) ∧ (act d u).sq.seq = u.sq.seq ∧ (u.sound → (act d u).sound)) :
    ∃ d u, runSeq feed q (n + 1) s = runSeq feed q n ((act d u).endTick .executed) ∧ Kept s (u.endTick .executed) 1 ∧
      u.cpu.pc = s.cpu.pc ∧ u.sq = s.sq ∧ (s.isStored addr = true → d = s.peek addr) := by
  obtain ⟨d, u, hu, hp, he⟩ := runSeq_read feed q n hc hq hm (fun d u _ => (hact d _).1)
  have hpc : u.cpu.pc = s.cpu.pc := hu.cpu_pc
  refine ⟨d, u.logBus (.read addr d), ?_, hu.kept (.read addr d) u.cpu.pc u.sq, hpc, hu.sq, hp⟩
  obtain ⟨-, hseq, hsound⟩ := hact d (u.logBus (.read addr d))
  rw [he, State.not_settled]
  · rfl
  · exact (hsound (hu.sound ⟨hc.running, hc.lines⟩)).1
  · rw [State.endTick_sq, hseq]
    show u.sq.seq ≠ .boundary
    rw [hu.sq]
    exact hq

/-! ### Pulls (R354, R382, R383) -/

theorem State.isStored_stack {s : State} (h : s.plainPages = true) (b : Byte) : s.isStored (stackAt b) = true :=
  State.isStored_of_isRam (State.isRam_stackAt h b)

/-- A calm tick that reads the stack byte of S and gives S its next value `f`. -/
theorem runSeq_stack_read (feed : Feed) (q : Sequence) (n : Nat) {s : State} (hc : Calm 0 s) (hq : s.sq.seq ≠ .boundary)
    (f : Byte → Byte) {act : Byte → State → State} {l : Byte → Latches → Latches}
    (hm : ∀ u : State, u.sq = s.sq → q.micro u = .read u.stackAddr act)
    (ha : ∀ d u, act d u = { u.setS (f u.cpu.s) with sq := l d u.sq }) (hl : ∀ d k, (l d k).seq = k.seq) :
    ∃ d t, runSeq feed q (n + 1) s = runSeq feed q n t ∧ Kept (s.setS (f s.cpu.s)) t 1 ∧ t.cpu.pc = s.cpu.pc ∧
      t.sq = l d s.sq ∧ d = s.peek (stackAt s.cpu.s) := by
  obtain ⟨d, u, e, k, p, hsq, hd⟩ := runSeq_next_read feed q n hc hq (addr := s.stackAddr) (act := act)
    (fun u hsq _ hs => by rw [hm u hsq, State.stackAddr, hs]; rfl)
    (fun d u => by rw [ha]; exact ⟨⟨rfl, rfl⟩, hl d u.sq, id⟩)
  have hs : u.cpu.s = s.cpu.s := k.sp
  refine ⟨d, _, e, ?_, ?_, ?_, hd (State.isStored_stack hc.pages _)⟩
  · rw [ha, ← hs]
    exact Kept.latched (u := u.setS (f u.cpu.s)) (k.setS (f u.cpu.s)) (l d u.sq)
  · rw [ha]
    exact p
  · rw [ha, ← hsq]
    rfl

/-- What the pulling sequences do first: two reads that are dropped, with S raised after the second. -/
theorem runInstr_raiseS (i : Instr) (q : Sequence) {s : State} (hc : Calm 8 s)
    (h2 : ∀ u : State, u.sq.cyc = 2 → q.micro u = .discard u.cpu.pc State.nextCycle)
    (h3 : ∀ u : State, u.sq.cyc = 3 → q.micro u = .discard u.stackAddr (fun t => t.incS.nextCycle)) :
    ∃ t, runInstr i q s = (runSeq (Feed.ofInstr i) q 5 t).outcome ∧ Kept (s.clearLogs.setS (s.cpu.s + 1)) t 3 ∧
      t.cpu.pc = s.cpu.pc + 1 ∧ t.sq.seq = .op ∧ t.sq.cyc = 4 := by
  obtain ⟨t0, e0, k0, p0, q0⟩ := runInstr_start i q hc
  have c0 : Calm 7 t0 := k0.calm (n := 7) hc.clearLogs
  obtain ⟨-, t1, e1, k1, p1, q1, -, -⟩ := runSeq_latch_read (Feed.ofInstr i) q 6 (s := t0) (c0.mono (by omega))
    (by rw [q0]; simp) (addr := t0.cpu.pc) (act := fun _ => State.nextCycle) (l := fun _ => { t0.sq with cyc := 3 })
    (fun u hsq hpc _ => by rw [h2 u (by rw [hsq, q0]), hpc]; rfl)
    (fun _ u hsq _ _ _ => by simp only [State.nextCycle, hsq, q0]) (fun _ => by simp only [q0]; simp)
  have c1 : Calm 6 t1 := k1.calm (n := 6) (k := 1) c0
  obtain ⟨-, t2, e2, k2, p2, q2, -⟩ := runSeq_stack_read (Feed.ofInstr i) q 5 (s := t1) (c1.mono (by omega))
    (by rw [q1, q0]; simp) (· + 1) (act := fun _ t => t.incS.nextCycle) (l := fun _ k => { k with cyc := k.cyc + 1 })
    (fun u hsq => by rw [h3 u (by rw [hsq, q1])]; rfl) (fun _ _ => rfl) (fun _ _ => rfl)
  have hs : t1.cpu.s = s.cpu.s := (k0.trans k1).sp
  refine ⟨t2, by rw [e0, e1, e2], ?_, p2.trans (p1.trans p0), by rw [q2, q1, q0], by rw [q2, q1]⟩
  rw [hs] at k2
  exact ((k0.trans k1).setS (s.cpu.s + 1)).trans k2

/-- PLA and PLP: the operation runs on the byte above S (R382, R383). -/
theorem runs_pull {i : Instr} {act : Byte → State → State} {s : State} {P : State → Prop}
    (hq : sequenceOf i = .pull act) (hop : ∀ d, EndsCalmly [] (act d)) (hready : s.ready = true)
    (h : ∀ u, Kept (s.clearLogs.setS (s.cpu.s + 1)) (u.endTick .executed) 4 → u.cpu.pc = s.cpu.pc + 1 →
      P ((act (s.peek (stackAt (s.cpu.s + 1))) u).finish.endTick .executed)) : Runs i s 4 P := by
  have hc := State.ready_calm hready
  obtain ⟨t, e, k, p, hseq, hcyc⟩ := runInstr_raiseS i (.pull act) hc
    (fun u hu => by simp only [Sequence.micro, pullCycle, hu]) (fun u hu => by simp only [Sequence.micro, pullCycle, hu])
  have ct : Calm 5 t := k.toPassed.of_setS.calm (n := 5) hc.clearLogs
  have hst : t.stackAddr = stackAt (s.cpu.s + 1) := congrArg stackAt k.sp
  obtain ⟨d, u, e4, k4, p4, q4, -, hd⟩ := runSeq_final_read (Feed.ofInstr i) (.pull act) 4 (s := t) (ct.mono (by omega))
    (by rw [hseq]; simp) (addr := t.stackAddr) (act := act)
    (fun u hsq _ hs => by simp only [Sequence.micro, pullCycle, hsq, hcyc, State.stackAddr, hs])
    (fun d u => (hop d).stays u)
  have hv : d = s.peek (stackAt (s.cpu.s + 1)) := by
    rw [hd (by rw [hst]; exact State.isStored_stack ct.pages _), hst]
    simp only [State.peek, k.mem]
    rfl
  have ku := k.trans k4
  rw [← hv] at h
  exact runs_of_passed hready ((exec_eq i s).trans (by rw [hq, e, e4]))
    (((hop d).passed (State.mayUse_nil _) ku.toPassed.of_setS).finish) rfl (h u ku (p4.trans p))

/-- The programmer's view where S has taken `b`. -/
theorem Kept.regs_setS {s t : State} {k : Nat} {b : Byte} (h : Kept (s.clearLogs.setS b) t k) :
    t.regs = { s.regs with s := b, pc := t.cpu.pc } := h.toMoved.regs

theorem State.unpack_regs (s : State) (v : Byte) : (s.unpack v).regs = s.regs.unpacked v := by
  have hrest : ∀ u : State, (((((u.setUB (v.getLsbD 5) (v.getLsbD 4)).setD (v.getLsbD 3)).setI (v.getLsbD 2)).setZ
      (v.getLsbD 1)).setC (v.getLsbD 0)).regs = { u.regs with
        u := v.getLsbD 5, b := v.getLsbD 4, d := v.getLsbD 3, i := v.getLsbD 2, z := v.getLsbD 1, c := v.getLsbD 0 } :=
    fun _ => rfl
  rw [State.unpack, hrest, State.writeV_regs]
  rfl

@[simp] theorem State.unpack_v (s : State) (v : Byte) : (s.unpack v).cpu.p.v = v.getLsbD 6 := rfl

theorem pla_runs {s : State} (hready : s.ready = true) : Runs .pla s 4 (fun t => VKept s t ∧ t.mem = s.mem ∧
    t.regs = { s.regs with
      a := s.peek (stackAt (s.cpu.s + 1))
      pc := s.cpu.pc + 1
      s := s.cpu.s + 1 }.withNZ (s.peek (stackAt (s.cpu.s + 1)))) := by
  refine runs_pull rfl (fun d => (OpSpec.of_frame fun u => OpFrame.pullPla u d).endsCalmly) hready fun u k hpc => ?_
  refine ⟨k.v, k.mem, ?_⟩
  have hregs : u.regs = { s.regs with s := s.cpu.s + 1, pc := s.cpu.pc + 1 } := by rw [← hpc]; exact k.regs_setS
  have hpull : ∀ d, (pullPla d u).regs = { u.regs with a := d }.withNZ d := fun _ => rfl
  exact (hpull _).trans (by rw [hregs])

theorem plp_runs {s : State} (hready : s.ready = true) : Runs .plp s 4 (fun t => t.mem = s.mem ∧
    t.cpu.p.v = (s.peek (stackAt (s.cpu.s + 1))).getLsbD 6 ∧
    t.regs = { s.regs.unpacked (s.peek (stackAt (s.cpu.s + 1))) with
      pc := s.cpu.pc + 1
      s := s.cpu.s + 1 }) := by
  have hop : ∀ d, EndsCalmly [] (pullPlp d) := fun d =>
    (OpSpec.of_frame fun u => OpFrame.unpack u d).endsCalmly_changingI
  refine runs_pull rfl hop hready fun u k hpc => ?_
  have hregs : u.regs = { s.regs with s := s.cpu.s + 1, pc := s.cpu.pc + 1 } := by rw [← hpc]; exact k.regs_setS
  generalize s.peek (stackAt (s.cpu.s + 1)) = d
  have hmem : (pullPlp d u).mem = u.mem := (hop d).mem (State.mayUse_nil u)
  have hpull : (pullPlp d u).regs = u.regs.unpacked d := by rw [pullPlp, changingI_eq, State.unpack_regs]; rfl
  exact ⟨hmem.trans k.mem, State.unpack_v u.copyIPrev d, hpull.trans (by rw [hregs]; rfl)⟩

/-! ### Pushes (R380, R381) -/

/-- In plain pages a push stores its byte (R33, R87). -/
theorem State.afterWrites_ram {s : State} {a : Word} (h : s.isRam a = true) (v : Byte) :
    s.afterWrites [(a, v)] = Memory.write s.mem a.toNat v := by
  simp only [State.afterWrites, List.foldl_cons, List.foldl_nil, h, if_true]

/-- The state after a push of `v` (R33): the byte is stored at the address of S, and S goes down. -/
def State.pushedByte (u : State) (v : Byte) : State := ((u.poke u.stackAddr v).logBus (.write u.stackAddr v)).decS

/-- A calm tick whose micro-op is a push. -/
theorem runSeq_push (feed : Feed) (q : Sequence) (n : Nat) {s : State} (hc : Calm 0 s) (hq : s.sq.seq ≠ .boundary)
    {pre : State → State} {value : State → Byte} {post : State → State}
    (hm : ∀ u : State, u.sq = s.sq → u.cpu.pc = s.cpu.pc → u.cpu.s = s.cpu.s → q.micro u = .push pre value post)
    (hpre : ∀ u, Dev { s with half := .phi2 } u → Dev u (pre u)) (hpost : ∀ w, Stays w (post w)) :
    ∃ u, Dev { s with half := .phi2 } u ∧
      let t := (post (u.pushedByte (value u))).endTick .executed
      runSeq feed q (n + 1) s = if t.settled then t else runSeq feed q n t := by
  obtain ⟨u, w, hu, hw, he⟩ := runSeq_write feed q n hc hq hm
    (fun u hu => ⟨(hpre u hu).stays, ((hu.trans (hpre u hu)).sound ⟨hc.running, hc.lines⟩)⟩)
    (fun w => (Stays.mk rfl rfl : Stays w w.decS).trans (hpost _))
  have hd := hu.trans (hpre u hu)
  have hpages : (pre u).plainPages = true := by
    have := hc.pages
    simp only [State.plainPages, hd.params] at this ⊢
    exact this
  have hpoke : w = (pre u).poke (pre u).stackAddr (value (pre u)) := by
    rcases hw with ⟨-, hw⟩ | ⟨hram, -⟩
    · exact hw
    · exact absurd (hram.symm.trans (State.isRam_stackAt hpages (pre u).cpu.s)) (by decide)
  exact ⟨pre u, hd, by rw [hpoke] at he; exact he⟩

/-- One calm tick after `s`: what a push leaves, S and memory apart. -/
theorem Dev.pushed {s u : State} (h : Dev { s with half := .phi2 } u) (v : Byte) :
    Moved (s.setS (s.cpu.s - 1)) ((u.pushedByte v).endTick .executed) 1 :=
  have hk := h.kept (.write u.stackAddr v) u.cpu.pc u.sq
  { hk.toMoved with sp := congrArg (· - 1) h.cpu_s, sound := hk.sound }

theorem Dev.pushed_mem {s u : State} (h : Dev { s with half := .phi2 } u) (hp : s.plainPages = true) (v : Byte) :
    (u.pushedByte v).mem = s.afterWrites [(stackAt s.cpu.s, v)] := by
  have hs : u.stackAddr = stackAt s.cpu.s := congrArg stackAt h.cpu_s
  have hmem : u.mem = s.mem := h.mem
  rw [State.afterWrites_ram (State.isRam_stackAt hp _)]
  show Memory.write u.mem u.stackAddr.toNat v = _
  rw [hs, hmem]

/-- PHA and PHP: the byte, taken from the registers and flags of the tick of the push, is stored and S goes down. -/
theorem runs_push {i : Instr} {pre : State → State} {value : State → Byte} {l : List Source} {s : State}
    (hq : sequenceOf i = .push pre value) (hpre : ∀ u : State, u.mayUse l = true → Dev u (pre u))
    (hready : s.ready = true) (hl : s.mayUse l = true) :
    Runs i s 3 (fun t => VKept s t ∧ t.regs = { s.regs with pc := s.cpu.pc + 1, s := s.cpu.s - 1 } ∧
      ∃ u, u.regs = { s.regs with pc := s.cpu.pc + 1 } ∧ u.cpu.p.v = t.cpu.p.v ∧
        t.mem = s.afterWrites [(stackAt s.cpu.s, value u)]) := by
  have hc := State.ready_calm hready
  obtain ⟨t0, e0, k0, p0, q0⟩ := runInstr_start i (.push pre value) hc
  have c0 : Calm 7 t0 := k0.calm (n := 7) hc.clearLogs
  obtain ⟨-, t, e1, k1, p1, q1, -, -⟩ := runSeq_latch_read (Feed.ofInstr i) (.push pre value) 6 (s := t0)
    (c0.mono (by omega)) (by rw [q0]; simp) (addr := t0.cpu.pc) (act := fun _ => State.nextCycle)
    (l := fun _ => { t0.sq with cyc := 3 })
    (fun u hsq hpc _ => by simp only [Sequence.micro, pushCycle, hsq, q0, hpc, MicroOp.discard])
    (fun _ u hsq _ _ _ => by simp only [State.nextCycle, hsq, q0]) (fun _ => by simp only [q0]; simp)
  have k := k0.trans k1
  have ct : Calm 6 t := k1.calm (n := 6) (k := 1) c0
  obtain ⟨u, hu, e2⟩ := runSeq_push (Feed.ofInstr i) (.push pre value) 5 (s := t) (ct.mono (by omega))
    (by rw [q1]; simp only [q0]; simp) (pre := pre) (value := value) (post := State.finish)
    (fun u hsq _ _ => by simp only [Sequence.micro, pushCycle, hsq, q1])
    (fun u hu => hpre u (hu.mayUse (s := { t with half := .phi2 }) (k.mayUse (s := s.clearLogs) hl)))
    (fun _ => ⟨rfl, rfl⟩)
  have hk := (k.toMoved.setS (t.cpu.s - 1)).trans (hu.pushed (value u))
  have hs : t.cpu.s = s.cpu.s := k.sp
  have hpc : u.cpu.pc = s.cpu.pc + 1 := hu.cpu_pc.trans (p1.trans p0)
  have hregs : ∀ w : State, Dev { t with half := .phi2 } w → w.regs = { s.regs with pc := w.cpu.pc } := fun w hw =>
    hw.regs.trans (k.toMoved.regs.trans (by rw [hw.cpu_pc]; rfl))
  refine runs_of_passed hready ((exec_eq i s).trans ?_) (hk.toPassed.of_setS.finish) rfl
    ⟨hk.v, ?_, u, by rw [hregs u hu, hpc], rfl, ?_⟩
  · rw [hq, e0, e1, e2, if_pos (State.settled_of_boundary rfl)]
  · exact hk.regs.trans (by rw [hs, ← hpc]; rfl)
  · refine (hu.pushed_mem ct.pages (value u)).trans ?_
    rw [hs]
    simp only [State.afterWrites, k.isRam, k.mem]
    rfl

theorem pha_runs {s : State} (hready : s.ready = true) (hl : s.mayUse [.a] = true) : Runs .pha s 3 (fun t => VKept s t ∧
    t.regs = { s.regs with pc := s.cpu.pc + 1, s := s.cpu.s - 1 } ∧ t.mem = s.afterWrites [(stackAt s.cpu.s, s.cpu.a)]) := by
  obtain ⟨t, he, hdone, hreq, hv, hregs, u, hu, -, hmem⟩ := runs_push (i := .pha) rfl
    (fun u hm => by rw [preparePha, State.uses_eq hm]; exact Dev.refl u) hready hl
  exact ⟨t, he, hdone, hreq, hv, hregs, hmem.trans (by rw [show valuePha u = s.cpu.a from congrArg Regs.a hu])⟩

theorem State.packFlags_eq (u : State) (b : Bool) : packFlags u.cpu.p b = u.regs.packed u.cpu.p.v b := rfl

theorem php_runs {s : State} (hready : s.ready = true) (hl : s.mayUse statusSources = true) : Runs .php s 3 (fun t =>
    VKept s t ∧ t.regs = { s.regs with pc := s.cpu.pc + 1, s := s.cpu.s - 1 } ∧
      t.mem = s.afterWrites [(stackAt s.cpu.s, s.regs.packed t.cpu.p.v true)]) := by
  obtain ⟨t, he, hdone, hreq, hv, hregs, u, hu, huv, hmem⟩ := runs_push (i := .php) rfl
    (fun u hm => State.packAccess_dev hm) hready hl
  refine ⟨t, he, hdone, hreq, hv, hregs, hmem.trans ?_⟩
  rw [valuePhp, State.packFlags_eq, hu, huv]
  rfl

/-- Settles O38: pushes and pulls tick by tick. -/
theorem pushesAndPulls : Obligations.PushesAndPulls := by
  refine fun s => ⟨fun h => ?_, fun h => ?_, fun h => ?_, fun h => ?_⟩
  · obtain ⟨hr, hu⟩ := State.readyFor_iff.mp h
    exact pha_runs hr (State.mayUse_sources hu).2
  · obtain ⟨hr, hu⟩ := State.readyFor_iff.mp h
    exact php_runs hr (State.mayUse_sources hu).2
  · exact pla_runs (State.readyFor_iff.mp h).1
  · exact plp_runs (State.readyFor_iff.mp h).1

/-! ### RTI (R354) -/

theorem State.unpack_s (s : State) (v : Byte) : (s.unpack v).cpu.s = s.cpu.s := congrArg Regs.s (s.unpack_regs v)

/-- The cycles of RTI up to the one that pulls the status. -/
theorem rti_pulls_status {s : State} (hc : Calm 8 s) :
    ∃ t, runInstr .rti .rti s = (runSeq (Feed.ofInstr .rti) .rti 4 t).outcome ∧ Passed s.clearLogs t 4 ∧ t.mem = s.mem ∧
      t.cpu.p.v = (s.peek (stackAt (s.cpu.s + 1))).getLsbD 6 ∧
      t.regs = { s.regs.unpacked (s.peek (stackAt (s.cpu.s + 1))) with pc := t.cpu.pc, s := s.cpu.s + 1 + 1 } ∧
      t.sq.seq = .op ∧ t.sq.cyc = 5 := by
  obtain ⟨t3, e3, k3, -, hseq3, hcyc3⟩ := runInstr_raiseS .rti .rti hc
    (fun u hu => by simp only [Sequence.micro, returnFromInterrupt, hu])
    (fun u hu => by simp only [Sequence.micro, returnFromInterrupt, hu])
  have hs3 : t3.stackAddr = stackAt (s.cpu.s + 1) := congrArg stackAt k3.sp
  have c3 : Calm 5 t3 := k3.toPassed.of_setS.calm (n := 5) hc.clearLogs
  obtain ⟨d, u, e4, k4, -, q4, hd⟩ := runSeq_next_read (Feed.ofInstr .rti) .rti 4 (s := t3) (c3.mono (by omega))
    (by rw [hseq3]; simp) (addr := t3.stackAddr) (act := fun d t => (t.unpack d).incS.nextCycle)
    (fun u hsq _ hs => by simp only [Sequence.micro, returnFromInterrupt, hsq, hcyc3, State.stackAddr, hs])
    (fun d u => ⟨(OpFrame.unpack u d).stays.trans ⟨rfl, rfl⟩,
      show (u.unpack d).sq.seq = u.sq.seq by rw [(OpFrame.unpack u d).sq], (OpFrame.unpack u d).sound⟩)
  have hv : d = s.peek (stackAt (s.cpu.s + 1)) := by
    rw [hd (by rw [hs3]; exact State.isStored_stack c3.pages _), hs3]
    simp only [State.peek, k3.mem]
    rfl
  have k := k3.trans k4
  have hregs : u.regs = { s.regs with s := s.cpu.s + 1, pc := u.cpu.pc } := k.regs_setS
  have hframe := OpFrame.unpack u d
  have hsq : (u.unpack d).sq = t3.sq := hframe.sq.trans q4
  have hraised : ∀ w : State, w.incS.nextCycle.regs = { w.regs with s := w.cpu.s + 1 } := fun _ => rfl
  rw [← hv]
  refine ⟨_, by rw [e3, e4], (hframe.passed k.toPassed.of_setS).incS_nextCycle, hframe.mem.trans k.mem,
    State.unpack_v u d, ?_, ?_, ?_⟩
  · refine (hraised _).trans ?_
    rw [State.unpack_regs, State.unpack_s, hregs, show u.cpu.s = s.cpu.s + 1 from k.sp]
    rw [show (State.endTick (u.unpack d).incS.nextCycle .executed).cpu.pc = u.cpu.pc from hframe.pc]
    rfl
  · exact (congrArg Latches.seq hsq).trans hseq3
  · exact congrArg (· + 1) ((congrArg Latches.cyc hsq).trans hcyc3)

/-- The last cycles of RTI pull PC. -/
theorem rti_pulls_pc (feed : Feed) {t : State} (hc : Calm 4 t) (hseq : t.sq.seq = .op) (hcyc : t.sq.cyc = 5) :
    ∃ u : State, runSeq feed .rti 4 t = State.endTick (u.setPC
        (joinBytes (t.peek (stackAt (t.cpu.s + 1))) (t.peek (stackAt t.cpu.s)))).finish .executed ∧
      Kept (t.setS (t.cpu.s + 1)) (u.endTick .executed) 2 := by
  obtain ⟨lo, t5, e5, k5, -, q5, hlo⟩ := runSeq_stack_read feed .rti 3 (s := t) (hc.mono (by omega))
    (by rw [hseq]; simp) (· + 1) (act := fun d t => (t.setLo d).incS.nextCycle) (l := fun d k => { k with lo := d, cyc := k.cyc + 1 })
    (fun u hsq => by simp only [Sequence.micro, returnFromInterrupt, hsq, hcyc]) (fun _ _ => rfl) (fun _ _ => rfl)
  have c5 : Calm 3 t5 := k5.toPassed.of_setS.calm (n := 3) hc
  have hs5 : t5.stackAddr = stackAt (t.cpu.s + 1) := congrArg stackAt k5.sp
  obtain ⟨hi, u, e6, k6, -, q6, -, hhi⟩ := runSeq_final_read feed .rti 2 (s := t5) (c5.mono (by omega))
    (by rw [q5, hseq]; simp) (addr := t5.stackAddr) (act := fun d t => t.setPC (joinBytes d t.sq.lo))
    (fun u hsq _ hs => by simp only [Sequence.micro, returnFromInterrupt, hsq, q5, hcyc, State.stackAddr, hs])
    (fun _ _ => ⟨rfl, rfl⟩)
  have hv : hi = t.peek (stackAt (t.cpu.s + 1)) := by
    rw [hhi (by rw [hs5]; exact State.isStored_stack c5.pages _), hs5]
    simp only [State.peek, k5.mem]
    rfl
  refine ⟨u, ?_, k5.trans k6⟩
  rw [e5, e6, q6, q5, hv, hlo]

/-- Settles O37: the status, then PC, are pulled. -/
theorem returnsFromInterrupt : Obligations.ReturnFromInterrupt := by
  intro s hready
  have hc := State.ready_calm hready
  obtain ⟨t, e4, hp, hmem, hv, hregs, hseq, hcyc⟩ := rti_pulls_status hc
  obtain ⟨u, e6, k⟩ := rti_pulls_pc (Feed.ofInstr .rti) (hp.calm (n := 4) hc.clearLogs) hseq hcyc
  have hs : t.cpu.s = s.cpu.s + 2 := by
    rw [show t.cpu.s = s.cpu.s + 1 + 1 from congrArg Regs.s hregs, BitVec.add_assoc]
    rfl
  have hs3 : t.cpu.s + 1 = s.cpu.s + 3 := by
    rw [hs, BitVec.add_assoc]
    rfl
  have hpeek : ∀ a, t.peek a = s.peek a := fun a => by simp only [State.peek, hmem]
  refine runs_of_passed hready ((exec_eq .rti s).trans (e4.trans (congrArg State.outcome e6)))
    ((hp.trans k.toPassed.of_setS).setPC _).finish rfl ⟨k.mem.trans hmem, ?_, ?_⟩
  · have hvk : u.cpu.p.v = t.cpu.p.v ∨ (u.cpu.p.v = true ∧ t.params.platform = .drive) := k.v
    rw [hv, hp.params] at hvk
    exact hvk
  · have hu : u.regs = { t.regs with s := t.cpu.s + 1, pc := u.cpu.pc } := k.toMoved.regs
    have hset : ∀ pc, (u.setPC pc).finish.regs = { u.regs with pc := pc } := fun _ => rfl
    refine (hset _).trans ?_
    rw [hu, hregs, hs3, hs, hpeek, hpeek]

end Sys2Proof.Machine

namespace Sys2Proof.Machine

/-! ### The reset entry (R486) -/

/-- A due reset is what the terminal decides, and it polls no I (R477). -/
theorem Calm.decides_reset {n : Nat} {s : State} (hc : Calm n s) (hp : s.irq.rstPending = true) (hl : s.irq.rstLat = .two) :
    s.clearLogs.phi1.pollFaults = false ∧ s.decided = some .rst := by
  have hd := s.clearLogs.phi1_dev (hc.mono (Nat.zero_le n)).clearLogs.quiet
  have hp1 : s.clearLogs.phi1.irq.rstPending = true := hd.irq_rstPending.trans hp
  have hl1 : s.clearLogs.phi1.irq.rstLat = .two := hd.irq_rstLat.trans hl
  constructor
  · simp [State.pollFaults, hp1, hl1]
  · simp [State.decided, State.decision, hp1, hl1]

/-- Device activity does not see what a decision consumes (R477). -/
theorem Dev.accept_rst {s u : State} (h : Dev { s with half := .phi2 } u) :
    Dev { s.accept .rst with half := .phi2 } (u.accept .rst) :=
  ⟨congrArg (fun b : State => b.accept .rst) h.bare, h.half, h.v, h.written, h.sound⟩

/-- The latches of an entry's first tick (R152). -/
def Latches.atEntry (k : Entry) (l : Latches) : Latches :=
  { l with seq := .entry k, cyc := 2, brkb := false, ichg := false, iprev := false, iprevKnown := false, shstall := false }

/-- The terminal tick of a reset entry (R152). -/
theorem enter_rst_start {s : State} (hc : Calm 6 s) :
    ∃ t, s.clearLogs.phi1.enter .rst = runSeq .live (.entry .rst) 6 t ∧ Kept (s.clearLogs.accept .rst) t 1 ∧
      t.cpu.pc = s.cpu.pc ∧ t.sq.seq = .entry .rst ∧ t.sq.cyc = 2 := by
  have hd := (s.clearLogs.phi1_dev (hc.mono (by omega)).clearLogs.quiet).accept_rst
  show ∃ t, runSeq .live (.entry .rst) 6 ((s.clearLogs.phi1.accept .rst).executeTick .live
    (terminalEntry .rst s.clearLogs.phi1)) = _ ∧ _
  generalize s.clearLogs.phi1 = u at hd ⊢
  obtain ⟨w, hw, hdw, -⟩ := (u.accept .rst).busRead_dev u.cpu.pc
  have hx := hd.trans hdw
  generalize hr : (u.accept .rst).busRead u.cpu.pc = r at hw
  have hperf : (terminalEntry .rst u).perform .live (u.accept .rst) =
      { w.logBus (.read u.cpu.pc r.1) with sq := w.sq.atEntry .rst } := by
    simp only [terminalEntry, MicroOp.discard, MicroOp.perform, hr, hw]
    exact State.unlessStopped_eq (s := w.logBus _) (hx.sound ⟨hc.running, hc.lines⟩).1 _
  have hquiet : ((terminalEntry .rst u).perform .live (u.accept .rst)).quietFor 0 = true := by
    rw [hperf]
    exact (hx.stays.trans (Stays.mk rfl rfl)).quiet (n := 0) (hc.mono (by omega)).clearLogs.quiet
  rw [State.executeTick_quiet hquiet, hperf]
  exact ⟨_, rfl, hx.kept (.read u.cpu.pc r.1) w.cpu.pc (w.sq.atEntry .rst), hx.cpu_pc, rfl, rfl⟩

/-- A cycle of the reset entry that reads the stack and lowers S (R486). -/
theorem runSeq_rst_stack (n : Nat) {t : State} (hc : Calm 0 t) (hseq : t.sq.seq = .entry .rst)
    (hcyc : t.sq.cyc ∈ [3, 4, 5]) :
    ∃ t', runSeq .live (.entry .rst) (n + 1) t = runSeq .live (.entry .rst) n t' ∧ Kept (t.setS (t.cpu.s - 1)) t' 1 ∧
      t'.sq.seq = .entry .rst ∧ t'.sq.cyc = t.sq.cyc + 1 := by
  have hmicro : ∀ u : State, u.sq.cyc ∈ [3, 4, 5] →
      (Sequence.entry .rst).micro u = .read u.stackAddr (fun _ t => t.decS.nextCycle) := by
    intro u h
    show entryCycle .rst u u.sq.cyc = _
    generalize u.sq.cyc = c at h
    simp only [List.mem_cons, List.not_mem_nil, or_false] at h
    rcases h with rfl | rfl | rfl <;> rfl
  obtain ⟨-, t', e, k, -, hsq, -⟩ := runSeq_stack_read .live (.entry .rst) n hc (by rw [hseq]; simp) (· - 1)
    (act := fun _ t => t.decS.nextCycle) (l := fun _ k => { k with cyc := k.cyc + 1 })
    (fun u hsq => hmicro u (by rw [hsq]; exact hcyc)) (fun _ _ => rfl) (fun _ _ => rfl)
  exact ⟨t', e, k, by rw [hsq]; exact hseq, by rw [hsq]⟩

/-- The reset entry up to the read of its vector (R486). -/
theorem enter_rst_stack {s : State} (hc : Calm 6 s) :
    ∃ t, s.clearLogs.phi1.enter .rst = runSeq .live (.entry .rst) 2 t ∧
      Kept ((s.clearLogs.accept .rst).setS (s.cpu.s - 1 - 1 - 1)) t 5 ∧ t.sq.seq = .entry .rst ∧ t.sq.cyc = 6 := by
  obtain ⟨t0, e0, k0, p0, hseq0, hcyc0⟩ := enter_rst_start hc
  have hc' : Calm 6 (s.clearLogs.accept .rst) := ⟨hc.running, hc.lines, hc.hold, hc.quiet, hc.pages⟩
  have c0 : Calm 5 t0 := k0.calm (n := 5) hc'
  obtain ⟨-, t1, e1, k1, -, q1, -, -⟩ := runSeq_latch_read .live (.entry .rst) 5 (s := t0) (c0.mono (by omega))
    (by rw [hseq0]; simp) (addr := t0.cpu.pc) (act := fun _ => State.nextCycle) (l := fun _ => { t0.sq with cyc := 3 })
    (fun u hsq hpc _ => by simp only [Sequence.micro, entryCycle, hsq, hcyc0, hpc, MicroOp.discard])
    (fun _ u hsq _ _ _ => by simp only [State.nextCycle, hsq, hcyc0]) (fun _ => by simp only [hseq0]; simp)
  have k1 := k0.trans k1
  have hs1 : t1.cpu.s = s.cpu.s := k1.sp
  obtain ⟨t2, e2, k2, hseq2, hcyc2⟩ := runSeq_rst_stack 4 (t := t1) ((k1.calm (n := 4) hc').mono (by omega))
    (by rw [q1]; exact hseq0) (by rw [q1]; simp)
  have k2 := (k1.setS (t1.cpu.s - 1)).trans k2
  obtain ⟨t3, e3, k3, hseq3, hcyc3⟩ := runSeq_rst_stack 3 (t := t2)
    ((k2.toPassed.of_setS.calm (n := 3) hc').mono (by omega)) hseq2 (by rw [hcyc2, q1]; simp)
  have k3 := (k2.setS (t2.cpu.s - 1)).trans k3
  obtain ⟨t4, e4, k4, hseq4, hcyc4⟩ := runSeq_rst_stack 2 (t := t3)
    ((k3.toPassed.of_setS.of_setS.calm (n := 2) hc').mono (by omega)) hseq3 (by rw [hcyc3, hcyc2, q1]; simp)
  have k4 := (k3.setS (t3.cpu.s - 1)).trans k4
  have hs3 : t3.cpu.s - 1 = s.cpu.s - 1 - 1 - 1 := by
    rw [show t3.cpu.s = t2.cpu.s - 1 from k3.sp, show t2.cpu.s = t1.cpu.s - 1 from k2.sp, hs1]
  refine ⟨t4, by rw [e0, e1, e2, e3, e4], ?_, hseq4, by rw [hcyc4, hcyc3, hcyc2, q1]⟩
  rw [hs3] at k4
  exact k4

/-- The cycle of the reset entry that reads the low byte of the vector and sets I (R486). -/
theorem runSeq_rst_setI {t : State} (hc : Calm 2 t) (hseq : t.sq.seq = .entry .rst) (hcyc : t.sq.cyc = 6) :
    ∃ t', runSeq .live (.entry .rst) 2 t = runSeq .live (.entry .rst) 1 t' ∧ Passed t t' 1 ∧ t'.mem = t.mem ∧ VKept t t' ∧
      t'.sq.seq = .entry .rst ∧ t'.sq.cyc = 7 ∧ t'.sq.data = t.peek 0xFFFC ∧ t'.regs = { t.regs with i := true } := by
  obtain ⟨d, u, e, k, p, hsq, hd⟩ := runSeq_next_read .live (.entry .rst) 1 (s := t) (hc.mono (by omega))
    (by rw [hseq]; simp) (addr := 0xFFFC) (act := fun d u => ((u.setDATA d).setI true).nextCycle)
    (fun u hu _ _ => by simp only [Sequence.micro, entryCycle, takeReset, vectorCycle, hu, hcyc, if_true])
    (fun _ _ => ⟨⟨rfl, rfl⟩, rfl, id⟩)
  have hstored : t.isStored 0xFFFC = true := State.isStored_vector hc.pages (by decide)
  have hregs : u.regs = t.regs := k.toMoved.regs.trans (by rw [show (u.endTick .executed).cpu.pc = t.cpu.pc from p]; rfl)
  have hpassed : Passed t (((u.setDATA d).setI true).nextCycle.endTick .executed) 1 :=
    ((OpFrame.setI u true).passed k.toPassed).latched { u.sq with data := d, cyc := u.sq.cyc + 1 }
  refine ⟨_, e, hpassed, k.mem, k.v, ?_, ?_, hd hstored, ?_⟩
  · exact (show u.sq.seq = t.sq.seq by rw [hsq]).trans hseq
  · exact congrArg (· + 1) ((show u.sq.cyc = t.sq.cyc by rw [hsq]).trans hcyc)
  · exact congrArg (fun r : Regs => { r with i := true }) hregs

/-- The last cycle of the reset entry reads the high byte of the vector and loads PC (R486). -/
theorem runSeq_rst_loadPC {t : State} (hc : Calm 1 t) (hseq : t.sq.seq = .entry .rst) (hcyc : t.sq.cyc = 7) :
    ∃ t', runSeq .live (.entry .rst) 1 t = t' ∧ Passed t t' 1 ∧ t'.mem = t.mem ∧ VKept t t' ∧ t'.sq.seq = .boundary ∧
      t'.regs = { t.regs with pc := joinBytes (t.peek 0xFFFD) t.sq.data } := by
  obtain ⟨d, u, e, k, p, hsq, -, hd⟩ := runSeq_final_read .live (.entry .rst) 0 (s := t) (hc.mono (by omega))
    (by rw [hseq]; simp) (addr := 0xFFFC + 1)
    (act := fun d u => { u.setPC (joinBytes d u.sq.data) with sq := { u.sq with brkb := false } })
    (fun u hu _ _ => by simp [Sequence.micro, entryCycle, takeReset, vectorCycle, hu, hcyc])
    (fun _ _ => ⟨rfl, rfl⟩)
  have hstored : t.isStored (0xFFFC + 1) = true := State.isStored_vector hc.pages (by decide)
  have hpassed := ((k.toPassed.setPC (joinBytes d u.sq.data)).latched { u.sq with brkb := false }).finish
  refine ⟨_, e, hpassed, k.mem, k.v, rfl, ?_⟩
  have hset : ∀ pc l, (State.endTick (State.finish { u.setPC pc with sq := l }) .executed).regs = { u.regs with pc := pc } :=
    fun _ _ => rfl
  have hregs : u.regs = { t.regs with pc := u.cpu.pc } := k.toMoved.regs
  refine (hset _ _).trans ?_
  rw [hd hstored, hsq, hregs]
  rfl

/-- A reset entry from a calm terminal (R486). -/
theorem Calm.step_reset {s : State} (hc : Calm 7 s) (hseq : s.sq.seq = .boundary) (hp : s.irq.rstPending = true)
    (hl : s.irq.rstLat = .two) :
    ∃ t, step s = .next t ∧ Passed (s.clearLogs.accept .rst) t 7 ∧ t.mem = s.mem ∧ VKept s t ∧ t.sq.seq = .boundary ∧
      t.regs = { s.regs with i := true, s := s.cpu.s - 1 - 1 - 1, pc := s.peekWord 0xFFFC } := by
  have hc' : Calm 7 (s.clearLogs.accept .rst) := ⟨hc.running, hc.lines, hc.hold, hc.quiet, hc.pages⟩
  obtain ⟨hpoll, hdec⟩ := hc.decides_reset hp hl
  obtain ⟨t, e, k, hseqt, hcyct⟩ := enter_rst_stack (hc.mono (by omega))
  have hpassed : Passed (s.clearLogs.accept .rst) t 5 := k.toPassed.of_setS
  obtain ⟨u, e6, p6, m6, v6, hsequ, hcycu, hdata, hregs6⟩ := runSeq_rst_setI (hpassed.calm (n := 2) hc') hseqt hcyct
  have hpassed6 := hpassed.trans p6
  obtain ⟨w, e7, p7, m7, v7, hseqw, hregs7⟩ := runSeq_rst_loadPC (hpassed6.calm (n := 1) hc') hsequ hcycu
  have hpassed7 := hpassed6.trans p7
  have hstop := (hpassed7.sound ⟨hc'.running, hc'.lines⟩).1
  have hmem : t.mem = s.mem := k.mem
  have hregs : t.regs = { s.regs with s := s.cpu.s - 1 - 1 - 1, pc := t.cpu.pc } := k.toMoved.regs
  have hv : VKept s t := k.v
  refine ⟨w, ?_, hpassed7, (m7.trans m6).trans hmem, ?_, hseqw, ?_⟩
  · rw [step_enter hc hseq hpoll hdec, e, e6, e7]
    exact State.outcome_eq_next.mpr ⟨rfl, hstop⟩
  · exact (hv.trans hpassed.params v6).trans hpassed6.params v7
  · rw [hregs7, hregs6, hregs, hdata]
    simp only [State.peek, m6, hmem, State.peekWord]
    rfl

theorem State.reset_calm (m : List Host.Cell) : Calm 7 { State.reset with mem := m } :=
  ⟨rfl, rfl, rfl, rfl, rfl⟩

/-- Settles O5: power-on by evaluation, the first step as a reset entry from a calm terminal. -/
theorem powerOn : Obligations.PowerOn := by
  refine ⟨⟨rfl, rfl, rfl, rfl, rfl, rfl, rfl, rfl, rfl, fun k => ?_, rfl, rfl, rfl, rfl, rfl, rfl, rfl, rfl, rfl, rfl, rfl,
    rfl⟩, fun m => ?_⟩
  · cases k <;> exact ⟨rfl, rfl⟩
  · obtain ⟨t, he, hp, hmem, -, hseq, hregs⟩ := (State.reset_calm m).step_reset rfl rfl rfl
    have hs : t.cpu.s = State.reset.cpu.s - 1 - 1 - 1 := congrArg Regs.s hregs
    exact ⟨t, he, hp.tick, hseq, congrArg Regs.pc hregs, congrArg Regs.i hregs, hs, hmem, hp.rstPending⟩

end Sys2Proof.Machine

namespace Sys2Proof.Machine

/-! ### An instruction is decoded from the bytes that it owns (R110, R112, R114) -/

/-- Decoding an instruction's own bytes gives it back. -/
theorem decodeBytes_encode (i : Instr) : decodeBytes i.opcode (operand1 i) (operand2 i) = i := by
  have hword : ∀ {f : Word → Instr} {w : Word}, f (joinBytes (hi w) (lo w)) = f w := fun {f w} => by rw [joinBytes_hi_lo]
  cases i <;> simp only [Instr.opcode, Instr.row] <;> first | rfl | exact hword (f := _)

theorem encode_length (i : Instr) : (encode i).length = i.length := by
  cases i <;> rfl

theorem operand1_none {i : Instr} (h : ¬ 1 < i.length) : operand1 i = 0 :=
  List.getD_eq_default _ _ (by rw [encode_length]; omega)

theorem operand2_none {i : Instr} (h : ¬ 2 < i.length) : operand2 i = 0 :=
  List.getD_eq_default _ _ (by rw [encode_length]; omega)

theorem decodeBytes_length (b x y : Byte) : (decodeBytes b x y).length = (decodeBytes b 0 0).length := by
  rw [Instr.length, Instr.mode, (decodeBytes_faithful b x y).1]
  rfl

/-- Bytes that an instruction does not own do not matter. -/
theorem decodeBytes_congr {b x y x' y' : Byte} (h1 : 1 < (decodeBytes b 0 0).length → x = x')
    (h2 : 2 < (decodeBytes b 0 0).length → y = y') : decodeBytes b x y = decodeBytes b x' y' := by
  have hown : ∀ x y, decodeBytes b (operand1 (decodeBytes b x y)) (operand2 (decodeBytes b x y)) = decodeBytes b x y :=
    fun x y => by
      have h := decodeBytes_encode (decodeBytes b x y)
      rwa [decodeBytes_opcode] at h
  have hop1 : operand1 (decodeBytes b x y) = operand1 (decodeBytes b x' y') := by
    by_cases h : 1 < (decodeBytes b 0 0).length
    · rw [(decodeBytes_faithful b x y).2.1 (by rwa [decodeBytes_length]),
        (decodeBytes_faithful b x' y').2.1 (by rwa [decodeBytes_length]), h1 h]
    · rw [operand1_none (by rwa [decodeBytes_length]), operand1_none (by rwa [decodeBytes_length])]
  have hop2 : operand2 (decodeBytes b x y) = operand2 (decodeBytes b x' y') := by
    by_cases h : 2 < (decodeBytes b 0 0).length
    · rw [(decodeBytes_faithful b x y).2.2 (by rwa [decodeBytes_length]),
        (decodeBytes_faithful b x' y').2.2 (by rwa [decodeBytes_length]), h2 h]
    · rw [operand2_none (by rwa [decodeBytes_length]), operand2_none (by rwa [decodeBytes_length])]
  rw [← hown x y, hop1, hop2, hown]

/-- What `decode` answers for three bytes. -/
theorem decode_three {b x y : Byte} {i : Instr} {rest : List Byte} (h : decode [b, x, y] = .ok (i, rest)) :
    i = decodeBytes b x y := by
  simp only [decode] at h
  split at h
  · rename_i hlen heq
    cases h
    exact decodeBytes_congr (by omega) (by omega)
  · rename_i hlen heq
    cases heq
    cases h
    exact decodeBytes_congr (fun _ => rfl) (by omega)
  · rename_i heq _ _
    cases heq
    cases h
    rfl
  · cases h

/-! ### The cycles that fetch the operand bytes -/

/-- The modes of the sequences that compute an effective address. -/
def Sequence.fits : Sequence → Bool
  | .read m _ => memoryMode m || m == .imm
  | .write m _ _ | .rmw m _ | .sh m _ _ => memoryMode m
  | _ => true

theorem sequenceOf_fits (i : Instr) : (sequenceOf i).fits = true := by
  cases i <;> rfl

theorem accessCycle_memory {m : Mode} (hm : memoryMode m = true) (always : Bool) : 2 < accessCycle m always := by
  cases m <;> first | exact absurd hm (by decide) | (cases always <;> decide)

theorem accessCycle_long {m : Mode} (hm : memoryMode m = true) (h : 2 < m.length) (always : Bool) :
    3 < accessCycle m always := by
  cases m <;> first | exact absurd hm (by decide) | exact absurd h (by decide) | (cases always <;> decide)

/-- The address cycles of a memory mode fetch the first operand byte in cycle 2. -/
theorem Follows.fetches_first {q : Sequence} {m : Mode} {always : Bool} (hf : Follows q m always)
    (hm : memoryMode m = true) {u : State} (hu : u.sq.cyc = 2) : ∃ act, q.micro u = .fetch .first act := by
  rw [hf u (by rw [hu]; exact accessCycle_memory hm always), hu]
  cases m <;> first | exact ⟨_, rfl⟩ | exact absurd hm (by decide)

/-- Of two bytes the first is the low one. -/
theorem Follows.fetches_low {q : Sequence} {m : Mode} {always : Bool} (hf : Follows q m always)
    (hm : memoryMode m = true) (hlen : 2 < m.length) {u : State} (hu : u.sq.cyc = 2) :
    q.micro u = .fetch .first (fun v t => (t.setLo v).nextCycle) := by
  rw [hf u (by rw [hu]; exact accessCycle_memory hm always), hu]
  cases m <;> first | rfl | exact absurd hm (by decide) | exact absurd hlen (by decide)

/-- The second byte is fetched in cycle 3. -/
theorem Follows.fetches_second {q : Sequence} {m : Mode} {always : Bool} (hf : Follows q m always)
    (hm : memoryMode m = true) (hlen : 2 < m.length) {u : State} (hu : u.sq.cyc = 3) :
    ∃ act, q.micro u = .fetch .second act := by
  rw [hf u (by rw [hu]; exact accessCycle_long hm hlen always), hu]
  cases m <;> first | exact ⟨_, rfl⟩ | exact absurd hm (by decide) | exact absurd hlen (by decide)

theorem memoryMode_ne_imm {m : Mode} (hm : memoryMode m = true) : m ≠ .imm := by
  rintro rfl
  exact absurd hm (by decide)

theorem Sequence.fetches_first {q : Sequence} (hfit : q.fits = true) (h : 1 < q.bytes) {u : State} (hu : u.sq.cyc = 2) :
    ∃ act, q.micro u = .fetch .first act := by
  cases q with
  | read m rd =>
    rcases (Bool.or_eq_true _ _).mp hfit with hm | hm
    · exact (follows_read (memoryMode_ne_imm hm) rd).fetches_first hm hu
    · cases beq_iff_eq.mp hm
      exact ⟨_, rfl⟩
  | write m l value => exact (follows_write m l value).fetches_first hfit hu
  | rmw m f => exact (follows_rmw m f).fetches_first hfit hu
  | sh m prep src => exact (follows_sh m prep src).fetches_first hfit hu
  | branch cond => exact ⟨_, congrArg (branchCycle cond u) hu⟩
  | jmpAbs => exact ⟨_, congrArg (jmpAbsCycle u) hu⟩
  | jmpInd => exact ⟨_, congrArg (jmpIndCycle u) hu⟩
  | jsr => exact ⟨_, congrArg (jsrCycle u) hu⟩
  | _ => exact absurd h (Nat.lt_irrefl 1)

theorem Sequence.fetches_low {q : Sequence} (hfit : q.fits = true) (h : 2 < q.bytes) {u : State} (hu : u.sq.cyc = 2) :
    q.micro u = .fetch .first (fun v t => (t.setLo v).nextCycle) := by
  cases q with
  | read m rd =>
    rcases (Bool.or_eq_true _ _).mp hfit with hm | hm
    · exact (follows_read (memoryMode_ne_imm hm) rd).fetches_low hm h hu
    · cases beq_iff_eq.mp hm
      exact absurd h (Nat.lt_irrefl 2)
  | write m l value => exact (follows_write m l value).fetches_low hfit h hu
  | rmw m f => exact (follows_rmw m f).fetches_low hfit h hu
  | sh m prep src => exact (follows_sh m prep src).fetches_low hfit h hu
  | jmpAbs => exact congrArg (jmpAbsCycle u) hu
  | jmpInd => exact congrArg (jmpIndCycle u) hu
  | jsr => exact congrArg (jsrCycle u) hu
  | branch cond => exact absurd h (Nat.lt_irrefl 2)
  | _ => exact absurd h (Nat.not_lt_of_gt (Nat.lt_succ_self 1))

/-- JSR fetches its second operand byte after its pushes (R351), every other sequence in cycle 3. -/
theorem Sequence.fetches_second {q : Sequence} (hfit : q.fits = true) (h : 2 < q.bytes) (hjsr : q ≠ .jsr) {u : State}
    (hu : u.sq.cyc = 3) : ∃ act, q.micro u = .fetch .second act := by
  cases q with
  | read m rd =>
    rcases (Bool.or_eq_true _ _).mp hfit with hm | hm
    · exact (follows_read (memoryMode_ne_imm hm) rd).fetches_second hm h hu
    · cases beq_iff_eq.mp hm
      exact absurd h (Nat.lt_irrefl 2)
  | write m l value => exact (follows_write m l value).fetches_second hfit h hu
  | rmw m f => exact (follows_rmw m f).fetches_second hfit h hu
  | sh m prep src => exact (follows_sh m prep src).fetches_second hfit h hu
  | jmpAbs => exact ⟨_, congrArg (jmpAbsCycle u) hu⟩
  | jmpInd => exact ⟨_, congrArg (jmpIndCycle u) hu⟩
  | jsr => exact absurd rfl hjsr
  | branch cond => exact absurd h (Nat.lt_irrefl 2)
  | _ => exact absurd h (Nat.not_lt_of_gt (Nat.lt_succ_self 1))

theorem sequenceOf_ne_jsr {i : Instr} (h : i.mnem ≠ .jsr) : sequenceOf i ≠ .jsr := by
  cases i <;> first | exact absurd rfl h | exact nofun

/-! ### The bytes that a live run fetches -/

/-- A calm live tick that fetches an operand byte from plain storage: the byte is in its latch when the run ends. -/
theorem runSeq_fetched {q : Sequence} {i : Bool} {l : List Source} (hq : q.Operates i l) (n : Nat) {s : State}
    (hc : Calm 0 s) (hne : s.sq.seq ≠ .boundary) (hcyc : 2 ≤ s.sq.cyc) {slot : Slot}
    (hm : ∀ u : State, u.sq = s.sq → ∃ act, q.micro u = .fetch slot act) (hst : s.isStored s.cpu.pc = true) :
    (runSeq .live q (n + 1) s).operand slot = s.peek s.cpu.pc := by
  have hd := s.phi1_dev hc.quiet
  have hsound := hd.sound ⟨hc.running, hc.lines⟩
  obtain ⟨act, hact⟩ := hm s.phi1 hd.sq
  have hacts := Sequence.micro_acts hq s.phi1
  have hf := Sequence.micro_fetches hq (s := s.phi1) (by rw [hd.sq]; exact hcyc) (by rw [hact]; rfl)
  have hrun : (s.phi1.busRead s.phi1.cpu.pc).2.stopped = none := by
    obtain ⟨w, hw, hdw, -⟩ := s.phi1.busRead_dev s.phi1.cpu.pc
    rw [hw]
    exact (hdw.sound hsound).1
  have hbyte : (s.phi1.busRead s.phi1.cpu.pc).1 = s.peek s.cpu.pc := by
    obtain ⟨w, -, -, hv⟩ := s.phi1.busRead_dev s.phi1.cpu.pc
    rw [hv (by rw [hd.isStored, hd.cpu_pc]; exact hst), hd.peek, hd.cpu_pc]
    rfl
  have hslot : slot ≠ .opcode := by
    rcases hf with ⟨-, hf⟩ | ⟨-, hf⟩ <;> exact hf.operand
  have hgo : ¬ s.phi1.settled = true := State.not_settled_iff.mpr ⟨hsound.1, by rw [hd.sq]; exact hne⟩
  have hstall : ¬ s.phi1.stalls (q.micro s.phi1) = true := by simp [State.stalls, hd.busHold, hc.hold]
  rw [runSeq_succ, if_neg hgo, if_neg hstall]
  rw [hact] at hf hacts ⊢
  obtain ⟨hop, t, htc, hnext⟩ := executeTick_fetched hacts hslot hrun
  rw [hbyte] at hop hnext
  split
  · exact hop
  · rename_i hx
    obtain ⟨hgoes, hcyct⟩ := hnext (by simpa using hx)
    rcases hf with ⟨hlast, hf⟩ | ⟨-, hf⟩
    · rw [runSeq_operand hq hlast _ _ ?_, hop]
      have hafter := (hf.next act rfl (s.peek s.cpu.pc) t).resolve_left (by simp [hgoes])
      have := hf.cycle
      omega
    · have hend := State.settled_of_boundary (hf.ends act rfl (s.peek s.cpu.pc) t)
      simp [hgoes] at hend

end Sys2Proof.Machine

namespace Sys2Proof.Machine

/-! ### O4: the fetched instruction is the decoded one -/

/-- The terminal fetch, live (R152). -/
theorem terminalFetch_live {s : State} (hc : Calm 8 s) (hst : s.isStored s.cpu.pc = true) :
    ∃ t, s.clearLogs.phi1.executeTick .live terminalFetch = t ∧ Kept s.clearLogs t 1 ∧ t.cpu.pc = s.cpu.pc + 1 ∧
      t.sq.ir = s.peek s.cpu.pc ∧ t.sq.seq = .op ∧ t.sq.cyc = 2 := by
  have hd := s.clearLogs.phi1_dev (hc.mono (by omega)).clearLogs.quiet
  generalize s.clearLogs.phi1 = u at hd ⊢
  obtain ⟨w, hw, hdw, hv⟩ := u.busRead_dev u.cpu.pc
  have hx := hd.trans hdw
  have hpc : u.cpu.pc = s.cpu.pc := hd.cpu_pc
  have hbyte : (u.busRead u.cpu.pc).1 = s.peek s.cpu.pc := by
    rw [hv (by rw [hd.isStored, hpc]; exact hst), hd.peek, hpc]
    rfl
  have hperf : terminalFetch.perform .live u = State.startSequence
      { ((w.logBus (.read u.cpu.pc (u.busRead u.cpu.pc).1)).incPC) with sq := { w.sq with ir := s.peek s.cpu.pc } } .op := by
    simp only [MicroOp.perform, terminalFetch, hw, ← hbyte]
    exact State.unlessStopped_eq (s := w.logBus _) (hx.sound ⟨hc.running, hc.lines⟩).1 _
  have hquiet : (terminalFetch.perform .live u).quietFor 0 = true := by
    rw [hperf]
    exact (hx.stays.trans (Stays.mk rfl rfl)).quiet (n := 0) (hc.mono (by omega)).clearLogs.quiet
  rw [State.executeTick_quiet hquiet, hperf]
  refine ⟨_, rfl, hx.kept (.read u.cpu.pc (u.busRead u.cpu.pc).1) (w.cpu.pc + 1) { w.sq with
    ir := s.peek s.cpu.pc, seq := .op, cyc := 2, ichg := false, iprev := false, iprevKnown := false, shstall := false },
    ?_, rfl, rfl, rfl⟩
  exact congrArg (· + 1) hx.cpu_pc

/-- The live run of a sequence latches the first operand byte from PC. -/
theorem runSeq_first {q : Sequence} {i : Bool} {l : List Source} (hq : q.Operates i l) (hfit : q.fits = true)
    (hlen : 1 < q.bytes) {t : State} (hc : Calm 7 t) (hseq : t.sq.seq = .op) (hcyc : t.sq.cyc = 2)
    (hst : t.isStored t.cpu.pc = true) : (runSeq .live q 7 t).sq.op1 = t.peek t.cpu.pc :=
  runSeq_fetched hq 6 (slot := .first) (hc.mono (by omega)) (by rw [hseq]; simp) (by omega)
    (fun u hu => Sequence.fetches_first hfit hlen (by rw [hu, hcyc])) hst

/-- After the fetch of the low byte. -/
theorem runSeq_low {q : Sequence} (hfit : q.fits = true) (hlen : 2 < q.bytes) {t : State} (hc : Calm 7 t)
    (hseq : t.sq.seq = .op) (hcyc : t.sq.cyc = 2) :
    ∃ u, runSeq .live q 7 t = runSeq .live q 6 u ∧ Kept t u 1 ∧ u.cpu.pc = t.cpu.pc + 1 ∧ u.sq.seq = .op ∧ u.sq.cyc = 3 := by
  obtain ⟨d, u, e, k, hpc, hsq, -, -⟩ := runSeq_latch_fetch .live q 6 (s := t) (hc.mono (by omega)) (by rw [hseq]; simp)
    (slot := .first) (act := fun v t => (t.setLo v).nextCycle) (l := fun v => { t.sq with op1 := v, lo := v, cyc := 3 })
    (fun u hu _ _ => Sequence.fetches_low hfit hlen (by rw [hu, hcyc]))
    (fun v u hu _ _ _ => by simp only [State.setLo, State.nextCycle, State.keepOperand, hu, hcyc])
    (fun v => by simp only [hseq]; simp)
  exact ⟨u, e, k, hpc, by rw [hsq]; exact hseq, by rw [hsq]⟩

/-- The second operand byte, in every sequence but JSR's. -/
theorem runSeq_second {q : Sequence} {i : Bool} {l : List Source} (hq : q.Operates i l) (hfit : q.fits = true)
    (hlen : 2 < q.bytes) (hjsr : q ≠ .jsr) {t : State} (hc : Calm 7 t) (hseq : t.sq.seq = .op) (hcyc : t.sq.cyc = 2)
    (hst : t.isStored (t.cpu.pc + 1) = true) : (runSeq .live q 7 t).sq.op2 = t.peek (t.cpu.pc + 1) := by
  obtain ⟨u, e, k, hpc, hsequ, hcycu⟩ := runSeq_low hfit hlen hc hseq hcyc
  rw [e]
  have h := runSeq_fetched hq 5 (slot := .second) (s := u) ((k.calm (n := 6) hc).mono (by omega)) (by rw [hsequ]; simp)
    (by omega) (fun w hw => Sequence.fetches_second hfit hlen hjsr (by rw [hw, hcycu]))
    (by rw [k.isStored, hpc]; exact hst)
  rw [hpc] at h
  exact h.trans (by simp only [State.peek, k.mem])

/-- A push of JSR. -/
theorem runSeq_jsr_push (n : Nat) {t : State} (hc : Calm 0 t) (hseq : t.sq.seq = .op) {value : State → Byte}
    (hm : ∀ u : State, u.sq = t.sq → Sequence.jsr.micro u = .push id value State.nextCycle) :
    ∃ u v, runSeq .live .jsr (n + 1) t = runSeq .live .jsr n u ∧ Moved (t.setS (t.cpu.s - 1)) u 1 ∧
      u.mem = t.afterWrites [(stackAt t.cpu.s, v)] ∧ u.cpu.pc = t.cpu.pc ∧ u.sq.seq = .op ∧ u.sq.cyc = t.sq.cyc + 1 := by
  obtain ⟨u, hu, e⟩ := runSeq_push .live .jsr n hc (by rw [hseq]; simp) (fun u hu _ _ => hm u hu)
    (fun u _ => Dev.refl u) (fun _ => ⟨rfl, rfl⟩)
  have hk := (hu.pushed (value u)).latched { u.sq with cyc := u.sq.cyc + 1 }
  have hgo : ¬ ((u.pushedByte (value u)).nextCycle.endTick .executed).settled = true :=
    State.not_settled_iff.mpr ⟨(hu.sound ⟨hc.running, hc.lines⟩).1, by
      show u.sq.seq ≠ _
      rw [hu.sq]
      exact fun h => by rw [hseq] at h; cases h⟩
  simp only at e
  rw [if_neg hgo] at e
  refine ⟨_, value u, e, hk, hu.pushed_mem hc.pages _, hu.cpu_pc, ?_, ?_⟩
  · exact (show u.sq.seq = t.sq.seq by rw [hu.sq]).trans hseq
  · show u.sq.cyc + 1 = _
    rw [hu.sq]

/-- A write leaves every other byte (R80). -/
theorem State.read_afterWrites {s : State} {a b : Word} (h : a ≠ b) (v : Byte) :
    Memory.read (s.afterWrites [(b, v)]) a.toNat = s.peek a := by
  simp only [State.afterWrites, List.foldl_cons, List.foldl_nil]
  split
  · exact Memory.read_write_other _ _ _ _ fun hab => h (BitVec.eq_of_toNat_eq hab.symm)
  · rfl

/-- JSR's second operand byte is fetched after its pushes (R351). -/
theorem runSeq_jsr_second {t : State} (hc : Calm 7 t) (hseq : t.sq.seq = .op) (hcyc : t.sq.cyc = 2)
    (hst : t.isStored (t.cpu.pc + 1) = true) (h1 : t.cpu.pc + 1 ≠ stackAt t.cpu.s)
    (h2 : t.cpu.pc + 1 ≠ stackAt (t.cpu.s - 1)) : (runSeq .live .jsr 7 t).sq.op2 = t.peek (t.cpu.pc + 1) := by
  obtain ⟨u3, e3, k3, hpc3, hseq3, hcyc3⟩ := runSeq_low (q := .jsr) rfl (by decide) hc hseq hcyc
  have c3 : Calm 6 u3 := k3.calm (n := 6) hc
  obtain ⟨-, u4, e4, k4, hpc4, hsq4, -, -⟩ := runSeq_latch_read .live .jsr 5 (s := u3) (c3.mono (by omega))
    (by rw [hseq3]; simp) (addr := u3.stackAddr) (act := fun _ => State.nextCycle) (l := fun _ => { u3.sq with cyc := 4 })
    (fun u hu _ hs => by simp only [Sequence.micro, jsrCycle, hu, hcyc3, State.stackAddr, hs, MicroOp.discard])
    (fun _ u hu _ _ _ => by simp only [State.nextCycle, hu, hcyc3]) (fun _ => by simp only [hseq3]; simp)
  have c4 : Calm 5 u4 := k4.calm (n := 5) c3
  have hs4 : u4.cpu.s = t.cpu.s := k4.sp.trans k3.sp
  have hcyc4 : u4.sq.cyc = 4 := by rw [hsq4]
  obtain ⟨u5, v5, e5, k5, hmem5, hpc5, hseq5, hcyc5⟩ := runSeq_jsr_push 4 (t := u4) (c4.mono (by omega))
    (by rw [hsq4]; exact hseq3) (value := fun t => hi t.cpu.pc)
    (fun u hu => by simp only [Sequence.micro, jsrCycle, hu, hcyc4])
  have p5 : Passed u4 u5 1 := k5.toPassed.of_setS
  have c5 : Calm 4 u5 := p5.calm (n := 4) c4
  have hs5 : u5.cpu.s = t.cpu.s - 1 := k5.sp.trans (congrArg (· - 1) hs4)
  obtain ⟨u6, v6, e6, k6, hmem6, hpc6, hseq6, hcyc6⟩ := runSeq_jsr_push 3 (t := u5) (c5.mono (by omega)) hseq5
    (value := fun t => lo t.cpu.pc) (fun u hu => by simp only [Sequence.micro, jsrCycle, hu, hcyc5, hcyc4])
  have p6 : Passed u5 u6 1 := k6.toPassed.of_setS
  have hpc : u6.cpu.pc = t.cpu.pc + 1 := hpc6.trans (hpc5.trans (hpc4.trans hpc3))
  have hbyte : u6.peek (t.cpu.pc + 1) = t.peek (t.cpu.pc + 1) := by
    rw [State.peek, hmem6, State.read_afterWrites (by rw [hs5]; exact h2), State.peek, hmem5,
      State.read_afterWrites (by rw [hs4]; exact h1)]
    simp only [State.peek, k4.mem, k3.mem]
  rw [e3, e4, e5, e6]
  refine (runSeq_fetched (q := .jsr) (sequenceOf_operates (.jsr 0)) 2 (slot := .second) ((p6.calm (n := 3) c5).mono (by omega))
    (by rw [hseq6]; simp) (by omega) (fun u hu => ?_) ?_).trans (by rw [hpc]; exact hbyte)
  · exact ⟨_, congrArg (jsrCycle u) (show u.sq.cyc = 6 by rw [hu, hcyc6, hcyc5, hcyc4])⟩
  · rw [hpc, p6.isStored, p5.isStored, k4.isStored, k3.isStored]
    exact hst

/-- The instruction that a calm terminal fetches is the one whose bytes lie at PC (R151, R152). -/
theorem Calm.fetchedInstr {s : State} (hc : Calm 8 s) (hcode : s.plainCode s.cpu.pc = true) {i : Instr}
    (hi : i = decodeBytes (s.peek s.cpu.pc) (s.peek (s.cpu.pc + 1)) (s.peek (s.cpu.pc + 2)))
    (hjsr : i.mnem = .jsr → s.cpu.pc + 2 ≠ stackAt s.cpu.s ∧ s.cpu.pc + 2 ≠ stackAt (s.cpu.s - 1)) :
    s.clearLogs.phi1.fetchedInstr = i := by
  simp only [State.plainCode, Bool.and_eq_true] at hcode
  obtain ⟨⟨hst0, hst1⟩, hst2⟩ := hcode
  obtain ⟨t, ht, k, hpc, hir, hseq, hcyc⟩ := terminalFetch_live hc hst0
  have ct : Calm 7 t := k.calm (n := 7) hc.clearLogs
  have hpc2 : t.cpu.pc + 1 = s.cpu.pc + 2 := by
    rw [hpc, BitVec.add_assoc]
    rfl
  have hpeek : ∀ a, t.peek a = s.peek a := fun a => by simp only [State.peek, k.mem]; rfl
  have hstored : ∀ a, t.isStored a = s.isStored a := k.isStored
  show decodeBytes (s.clearLogs.phi1.executeTick .live terminalFetch).sq.ir _ _ = _
  rw [ht, hir, hi]
  rw [hi] at hjsr
  generalize hb : s.peek s.cpu.pc = b at *
  have hq : (opcodeSequence b).Operates _ _ := sequenceOf_operates (decodeBytes b 0 0)
  have hbytes : (opcodeSequence b).bytes = (decodeBytes b 0 0).length := sequenceOf_bytes _
  have hfit : (opcodeSequence b).fits = true := sequenceOf_fits _
  refine decodeBytes_congr (fun h1 => ?_) (fun h2 => ?_)
  · rw [← hpc, ← hpeek]
    exact runSeq_first hq hfit (by rwa [hbytes]) ct hseq hcyc (by rw [hstored, hpc]; exact hst1)
  · rw [← hpc2, ← hpeek]
    have hst : t.isStored (t.cpu.pc + 1) = true := by rw [hstored, hpc2]; exact hst2
    have hmnem : ∀ x y, (decodeBytes b x y).mnem = (decodeBytes b 0 0).mnem := fun x y => by
      rw [Instr.mnem, (decodeBytes_faithful b x y).1]
      rfl
    by_cases hj : (decodeBytes b 0 0).mnem = .jsr
    · obtain ⟨hs1, hs2⟩ := hjsr ((hmnem _ _).trans hj)
      have hs : t.cpu.s = s.cpu.s := k.sp
      rw [show opcodeSequence b = .jsr from congrArg (fun n => mnemSequence n _) hj]
      exact runSeq_jsr_second ct hseq hcyc hst (by rw [hpc2, hs]; exact hs1) (by rw [hpc2, hs]; exact hs2)
    · exact runSeq_second hq hfit (by rwa [hbytes]) (sequenceOf_ne_jsr hj) ct hseq hcyc hst

/-- Settles O4: the terminal decides to fetch, and it fetches what lies at PC. -/
theorem stepRunsTheDecodedInstruction : Obligations.StepRunsTheDecodedInstruction := by
  intro s i rest hready hseq hdec hpoll hcode hi hjsr
  have hc := State.ready_calm hready
  obtain ⟨hrun, hterm, hstall⟩ := hc.comes_to_poll hseq
  have hpoll : s.clearLogs.phi1.pollFaults = false := by simpa [State.pollable] using hpoll
  have hstep : step s = exec s.clearLogs.phi1.fetchedInstr s := by
    unfold State.decided at hdec
    simp [step, State.stepOnce, hrun, hterm, hstall, hpoll, hdec]
  rw [hstep, hc.fetchedInstr hcode (decode_three hi) hjsr]

end Sys2Proof.Machine

namespace Sys2Proof.Machine

/-! ### What decides where an instruction stores -/

/-- What the addresses that a sequence stores to are computed from: the latches of the address cycles, the registers, memory and
the model's arguments. -/
structure View where
  seq : Seq
  cyc : Nat
  ea : Word
  ptr : Byte
  lo : Byte
  cross : Bool
  bah : Byte
  shstall : Bool
  a : Byte
  x : Byte
  y : Byte
  s : Byte
  mem : List Host.Cell
  params : Params

def State.view (u : State) : View where
  seq := u.sq.seq
  cyc := u.sq.cyc
  ea := u.sq.ea
  ptr := u.sq.ptr
  lo := u.sq.lo
  cross := u.sq.cross
  bah := u.sq.bah
  shstall := u.sq.shstall
  a := u.cpu.a
  x := u.cpu.x
  y := u.cpu.y
  s := u.cpu.s
  mem := u.mem
  params := u.params

/-- Nothing outside the CPU changes the view, but that a forced jump ends the sequence (R158). -/
theorem Outside.view_seq {s t : State} (h : Outside s t) : t.view = { s.view with seq := t.sq.seq } := by
  rw [State.view, h.latches]
  simp only [State.view, h.a, h.x, h.y, h.sp, h.mem, h.params]

theorem Outside.view {s t : State} (h : Outside s t) (hseq : t.sq.seq ≠ .boundary) : t.view = s.view := by
  rw [h.view_seq, (h.jump.resolve_right hseq).2]
  rfl

theorem Outside.running {s t : State} (h : Outside s t) (hseq : t.sq.seq ≠ .boundary) : s.sq.seq ≠ .boundary := by
  rcases h.jump with ⟨-, hs⟩ | hs
  · rwa [← hs]
  · exact absurd hs hseq

theorem Dev.view {s t : State} (h : Dev s t) : t.view = s.view := by
  simp only [State.view, h.sq, h.cpu_a, h.cpu_x, h.cpu_y, h.cpu_s, h.mem, h.params]

/-! ### A micro-op that raises no fault -/

theorem MicroOp.perform_read_running {addr : Word} {act : Byte → State → State} {f : Feed} {u : State}
    (h : ((MicroOp.read addr act).perform f u).stopped = none) :
    ∃ d x, (MicroOp.read addr act).perform f u = act d x ∧ x.view = u.view ∧ (u.isStored addr = true → d = u.peek addr) := by
  obtain ⟨w, hw, hdw, hv⟩ := u.busRead_dev addr
  rw [MicroOp.perform_read] at h ⊢
  rw [(State.unlessStopped_running h).2, hw]
  exact ⟨_, _, rfl, hdw.view, hv⟩

theorem MicroOp.perform_fetch_running {slot : Slot} {act : Byte → State → State} {f : Feed} {u : State}
    (h : ((MicroOp.fetch slot act).perform f u).stopped = none) :
    ∃ d x, (MicroOp.fetch slot act).perform f u = act (f.pick slot d) x ∧ x.view = u.view := by
  obtain ⟨w, hw, hdw, -⟩ := u.busRead_dev u.cpu.pc
  rw [MicroOp.perform_fetch] at h ⊢
  rw [(State.unlessStopped_running h).2, hw]
  refine ⟨_, _, rfl, Eq.trans ?_ hdw.view⟩
  cases slot <;> rfl

theorem MicroOp.perform_write_running {pre : State → State} {addr : State → Word} {value : State → Byte}
    {post : State → State} {f : Feed} {u : State} (h : ((MicroOp.write pre addr value post).perform f u).stopped = none) :
    (pre u).stopped = none ∧ ∃ x, (MicroOp.write pre addr value post).perform f u = post x ∧
      x.view = { (pre u).view with mem := (pre u).afterWrites [(addr (pre u), value (pre u))] } := by
  rw [MicroOp.perform_write] at h ⊢
  obtain ⟨hpre, he⟩ := State.unlessStopped_running h
  rw [he] at h ⊢
  rw [(State.unlessStopped_running h).2]
  refine ⟨hpre, _, rfl, ?_⟩
  obtain ⟨w, hw, hcase⟩ := (pre u).busWrite_dev (addr (pre u)) (value (pre u))
  rw [hw]
  rcases hcase with ⟨hram, rfl⟩ | ⟨hram, hdev⟩
  · rw [State.afterWrites_ram hram]
    rfl
  · refine Eq.trans (show (w.logBus _).view = w.view from rfl) (hdev.view.trans ?_)
    simp only [State.afterWrites, List.foldl_cons, List.foldl_nil, hram, Bool.false_eq_true, if_false]
    rfl

/-- A guarded operation that raises no fault has run. -/
theorem State.using_running {u : State} {l : List Source} {k : State → State} (h : (u.using l k).stopped = none) :
    u.using l k = k u := by
  cases hm : u.mayUse l with
  | true => exact State.using_eq hm k
  | false =>
    rw [State.using_fault hm] at h
    cases hs : u.stopped <;> simp [State.uninitFault, hs] at h

/-! ### An invariant along a run that raises no fault -/

/-- Every byte but those at the addresses `l` is as in `s`. -/
def KeepsMemory (s : State) (l : List Word) (m : List Host.Cell) : Prop := ∀ a : Word, a ∉ l → Memory.read m a.toNat = s.peek a

theorem KeepsMemory.refl (s : State) (l : List Word) : KeepsMemory s l s.mem := fun _ _ => rfl

/-- A write at one of the addresses. -/
theorem KeepsMemory.write {s u : State} {l : List Word} (h : KeepsMemory s l u.mem) {a : Word} (ha : a ∈ l) (v : Byte) :
    KeepsMemory s l (u.afterWrites [(a, v)]) := fun b hb => by
  have hne : b ≠ a := fun hab => hb (hab.symm ▸ ha)
  rw [State.read_afterWrites hne]
  exact h b hb

/-- `J` holds of the view before every cycle of the sequence, and every cycle keeps memory but for `l`. -/
structure CycleKeeps (s : State) (l : List Word) (J : View → Prop) (f : Feed) (q : Sequence) : Prop where
  mem : ∀ u, J u.view → KeepsMemory s l u.mem → ((q.micro u).perform f u).stopped = none →
    KeepsMemory s l ((q.micro u).perform f u).mem
  next : ∀ u, J u.view → ((q.micro u).perform f u).stopped = none → ((q.micro u).perform f u).sq.seq ≠ .boundary →
    J ((q.micro u).perform f u).view

theorem Sequence.markStall_mem (q : Sequence) (u : State) : (q.markStall u).mem = u.mem := by
  unfold Sequence.markStall
  split
  · split <;> rfl
  · rfl

theorem CycleKeeps.runSeq {s : State} {l : List Word} {J : View → Prop} {f : Feed} {q : Sequence} (h : CycleKeeps s l J f q)
    (n : Nat) {u : State} (hu : KeepsMemory s l u.mem) (hJ : u.sq.seq ≠ .boundary → J u.view)
    (hrun : (runSeq f q n u).stopped = none) : KeepsMemory s l (runSeq f q n u).mem := by
  induction n generalizing u with
  | zero => exact hu
  | succ n ih =>
    rw [runSeq_succ] at hrun ⊢
    have hout := Outside.phi1 u
    have hu1 : KeepsMemory s l u.phi1.mem := by rw [hout.mem]; exact hu
    have hJ1 : u.phi1.sq.seq ≠ .boundary → J u.phi1.view := fun hne => by
      rw [hout.view hne]
      exact hJ (hout.running hne)
    generalize u.phi1 = v at hu1 hJ1 hrun ⊢
    split at hrun <;> rename_i hset
    · rw [if_pos hset]
      exact hu1
    rw [if_neg hset]
    obtain ⟨-, hne⟩ := State.not_settled_iff.mp hset
    split at hrun <;> rename_i hstall
    · rw [if_pos hstall]
      have hmem : ((q.markStall v).stallTick).mem = v.mem :=
        (Outside.hostCalls (q.markStall v) .afterCpu).mem.trans (q.markStall_mem v)
      rw [hmem]
      exact hu1
    rw [if_neg hstall]
    have hlate := Outside.hostCalls ((q.micro v).perform f v) .afterCpu
    have hmem : (v.executeTick f (q.micro v)).mem = ((q.micro v).perform f v).mem := hlate.mem
    have hkeep : (v.executeTick f (q.micro v)).stopped = none → KeepsMemory s l (v.executeTick f (q.micro v)).mem :=
      fun hs => by
        rw [hmem]
        exact h.mem v (hJ1 hne) hu1 (State.executeTick_running hs)
    split at hrun <;> rename_i hend
    · rw [if_pos hend]
      exact hkeep hrun
    · rw [if_neg hend]
      obtain ⟨hs, hgo⟩ := State.not_settled_iff.mp hend
      refine ih (hkeep hs) (fun _ => ?_) hrun
      have hview : (v.executeTick f (q.micro v)).view = _ := hlate.view hgo
      rw [hview]
      exact h.next v (hJ1 hne) (State.executeTick_running hs) (hlate.running hgo)

/-- The view in which the sequence of an instruction begins (R152). -/
def State.startView (s : State) : View := { s.view with seq := .op, cyc := 2, shstall := false }

/-- The frame of memory of an instruction, from the cycles of its sequence. -/
theorem CycleKeeps.exec {i : Instr} {s t : State} {l : List Word} {J : View → Prop}
    (h : CycleKeeps s l J (Feed.ofInstr i) (sequenceOf i)) (h0 : J s.startView) (he : exec i s = .next t) {a : Word}
    (ha : a ∉ l) : t.peek a = s.peek a := by
  obtain ⟨-, hrun, hcase⟩ := exec_cases he
  have hout : Outside s.clearLogs s.clearLogs.phi1 := Outside.phi1 _
  have hmem : s.clearLogs.phi1.mem = s.mem := hout.mem
  rcases hcase with ⟨-, rfl⟩ | ⟨-, rfl⟩
  · have hlate : s.clearLogs.phi1.stallTick.mem = _ := (Outside.hostCalls s.clearLogs.phi1 .afterCpu).mem
    rw [State.peek, hlate, hmem]
    rfl
  · have hu : (s.clearLogs.phi1).mem = s.mem := hmem
    have hview := hout.view_seq
    generalize s.clearLogs.phi1 = u at hu hview hrun ⊢
    obtain ⟨d, x, hx, hxu⟩ := MicroOp.perform_fetch_running (State.executeTick_running (running_of_runSeq hrun))
    have hlate := Outside.hostCalls (terminalFetch.perform (Feed.ofInstr i) u) .afterCpu
    have hxmem : (terminalFetch.perform (Feed.ofInstr i) u).mem = s.mem :=
      (congrArg State.mem hx).trans ((congrArg View.mem hxu).trans hu)
    have hstart : (terminalFetch.perform (Feed.ofInstr i) u).view = s.startView := by
      refine (congrArg State.view hx).trans ?_
      show { x.view with seq := .op, cyc := 2, shstall := false } = s.startView
      rw [hxu, hview]
      rfl
    refine h.runSeq 7 (u := u.executeTick (Feed.ofInstr i) terminalFetch) ?_ (fun hne => ?_) hrun a ha
    · have hxlate : (u.executeTick (Feed.ofInstr i) terminalFetch).mem = _ := hlate.mem
      rw [hxlate, hxmem]
      exact KeepsMemory.refl s l
    · have hxview : (u.executeTick (Feed.ofInstr i) terminalFetch).view = _ := hlate.view hne
      rw [hxview, hstart]
      exact h0

end Sys2Proof.Machine

namespace Sys2Proof.Machine

/-! ### The address cycles (R160 to R178), whatever the environment does -/

/-- Before its operation a sequence has changed no register, no byte of memory and no argument, and it has not been stalled. -/
structure View.Unchanged (v : View) (s : State) : Prop where
  mem : v.mem = s.mem
  params : v.params = s.params
  a : v.a = s.cpu.a
  x : v.x = s.cpu.x
  y : v.y = s.cpu.y
  shstall : v.shstall = false

/-- The latches before cycle `c` of a mode, the last of them the cycle in which the operand is first accessed. -/
def View.Latched (v : View) (s : State) (m : Mode) (b1 b2 : Byte) (c : Nat) : Prop :=
  match m, c with
  | _, 2 => True
  | .zpx, 3 | .zpy, 3 | .izx, 3 | .izy, 3 => v.ptr = b1
  | .abs, 3 | .abx, 3 | .aby, 3 => v.lo = b1
  | .izx, 4 => v.ptr = b1 + s.cpu.x
  | .izx, 5 => v.ptr = b1 + s.cpu.x ∧ v.lo = s.peek (zext16 (b1 + s.cpu.x))
  | .izy, 4 => v.ptr = b1 ∧ v.lo = s.peek (zext16 b1)
  | .abx, 4 | .aby, 4 | .izy, 5 =>
    v.ea = unfixed (s.indexBase m b1 b2) (s.index m) ∧ v.cross = crosses (s.indexBase m b1 b2) (s.index m) ∧
      v.bah = hi (s.indexBase m b1 b2)
  | _, _ => v.ea = s.effectiveAddress m b1 b2 ∧ (canCross m = true →
      v.cross = crosses (s.indexBase m b1 b2) (s.index m) ∧ v.bah = hi (s.indexBase m b1 b2))

/-- An address cycle of `m` that answers `w` and goes on. -/
def View.Advanced (w : View) (s : State) (m : Mode) (b1 b2 : Byte) (c : Nat) : Prop :=
  w.Unchanged s ∧ w.cyc = c + 1 ∧ w.Latched s m b1 b2 (c + 1)

section
variable {s u : State} {f : Feed} {m : Mode} {b1 b2 : Byte} {c : Nat}

/-- A cycle that fetches an operand byte. -/
theorem View.Advanced.of_fetch {slot : Slot} {act : Byte → State → State} {b : Byte} (hf : ∀ d, f.pick slot d = b)
    (h : ((MicroOp.fetch slot act).perform f u).stopped = none)
    (hact : ∀ x : State, x.view = u.view → (act b x).stopped = none → (act b x).view.Advanced s m b1 b2 c) :
    ((MicroOp.fetch slot act).perform f u).view.Advanced s m b1 b2 c := by
  obtain ⟨d, x, he, hx⟩ := MicroOp.perform_fetch_running h
  rw [hf] at he
  rw [he] at h ⊢
  exact hact x hx h

/-- A cycle that reads a byte of the zero page. -/
theorem View.Advanced.of_read {z : Byte} {act : Byte → State → State} (hu : u.view.Unchanged s) (hp : s.plainPages = true)
    (h : ((MicroOp.read (zext16 z) act).perform f u).stopped = none)
    (hact : ∀ x : State, x.view = u.view → (act (s.peek (zext16 z)) x).stopped = none →
      (act (s.peek (zext16 z)) x).view.Advanced s m b1 b2 c) :
    ((MicroOp.read (zext16 z) act).perform f u).view.Advanced s m b1 b2 c := by
  obtain ⟨d, x, he, hx, hd⟩ := MicroOp.perform_read_running h
  have hpar : u.params = s.params := hu.params
  have hmem : u.mem = s.mem := hu.mem
  have hst : u.isStored (zext16 z) = true := by
    rw [State.isStored_of_params hpar]
    exact State.isStored_of_isRam (State.isRam_zext16 hp z)
  have hv : d = s.peek (zext16 z) := by rw [hd hst, State.peek, hmem]; rfl
  rw [hv] at he
  rw [he] at h ⊢
  exact hact x hx h

/-- A cycle whose byte is dropped. -/
theorem View.Advanced.of_discard {addr : Word} {act : State → State}
    (h : ((MicroOp.discard addr act).perform f u).stopped = none)
    (hact : ∀ x : State, x.view = u.view → (act x).stopped = none → (act x).view.Advanced s m b1 b2 c) :
    ((MicroOp.discard addr act).perform f u).view.Advanced s m b1 b2 c := by
  obtain ⟨d, x, he, hx, -⟩ := MicroOp.perform_read_running h
  rw [MicroOp.discard, he] at h ⊢
  exact hact x hx h

/-- The latches of an indexed base whose high byte is still to be fixed (R170, R176). -/
theorem View.Advanced.latchIndexed {x : State} (hu : u.view.Unchanged s) (hc : u.sq.cyc = c) (hx : x.view = u.view)
    (hl : ∀ v : View, v.ea = unfixed (s.indexBase m b1 b2) (s.index m) → v.cross = crosses (s.indexBase m b1 b2) (s.index m) →
      v.bah = hi (s.indexBase m b1 b2) → v.Latched s m b1 b2 (c + 1))  {base : Word} {idx : Byte}
    (hbase : base = s.indexBase m b1 b2) (hidx : idx = s.index m) :
    (x.latchIndexed base idx).nextCycle.view.Advanced s m b1 b2 c := by
  subst hbase hidx
  have hview : (x.latchIndexed (s.indexBase m b1 b2) (s.index m)).nextCycle.view = { x.view with
      ea := unfixed (s.indexBase m b1 b2) (s.index m), cross := crosses (s.indexBase m b1 b2) (s.index m)
      bah := hi (s.indexBase m b1 b2), cyc := x.view.cyc + 1 } := rfl
  rw [hview, hx]
  exact ⟨⟨hu.mem, hu.params, hu.a, hu.x, hu.y, hu.shstall⟩, congrArg (· + 1) hc, hl _ rfl rfl rfl⟩

/-- The cycle that fixes the high byte (R170, R171). -/
theorem View.Advanced.fixEA {x : State} (hu : u.view.Unchanged s) (hc : u.sq.cyc = c) (hx : x.view = u.view)
    (hea : u.view.ea = unfixed (s.indexBase m b1 b2) (s.index m))
    (hcross : u.view.cross = crosses (s.indexBase m b1 b2) (s.index m)) (hbah : u.view.bah = hi (s.indexBase m b1 b2))
    (hm : canCross m = true)
    (hl : ∀ v : View, v.ea = s.effectiveAddress m b1 b2 → v.cross = crosses (s.indexBase m b1 b2) (s.index m) →
      v.bah = hi (s.indexBase m b1 b2) → v.Latched s m b1 b2 (c + 1)) : x.fixEA.nextCycle.view.Advanced s m b1 b2 c := by
  have hview : x.fixEA.nextCycle.view = { x.view with ea := s.effectiveAddress m b1 b2, cyc := x.view.cyc + 1 } := by
    have hxe : x.sq.ea = unfixed (s.indexBase m b1 b2) (s.index m) := (congrArg View.ea hx).trans hea
    have hxc : x.sq.cross = crosses (s.indexBase m b1 b2) (s.index m) := (congrArg View.cross hx).trans hcross
    rw [State.effectiveAddress_indexed s hm, State.fixEA, hxc]
    split
    · rename_i hcr
      rw [← unfixed_add_of_crosses hcr, ← hxe]
      rfl
    · rename_i hcr
      rw [← unfixed_of_not_crosses (by simpa using hcr), ← hxe]
      rfl
  rw [hview, hx]
  exact ⟨⟨hu.mem, hu.params, hu.a, hu.x, hu.y, hu.shstall⟩, congrArg (· + 1) hc, hl _ rfl hcross hbah⟩

/-- A change of the latches of the address. -/
theorem View.Advanced.latches {w : View} (hu : u.view.Unchanged s) (hc : u.sq.cyc = c) (ea : Word) (ptr lo : Byte)
    (hw : w = { u.view with ea := ea, ptr := ptr, lo := lo, cyc := u.view.cyc + 1 })
    (hl : w.ea = ea → w.ptr = ptr → w.lo = lo → w.Latched s m b1 b2 (c + 1)) : w.Advanced s m b1 b2 c := by
  subst hw
  exact ⟨⟨hu.mem, hu.params, hu.a, hu.x, hu.y, hu.shstall⟩, congrArg (· + 1) hc, hl rfl rfl rfl⟩

variable (hf1 : ∀ d, f.pick .first d = b1) (hf2 : ∀ d, f.pick .second d = b2) (hp : s.plainPages = true)
  (hu : u.view.Unchanged s) (hc : u.sq.cyc = c)
include hu hc

include hf1 in
theorem addressCycle_zp (h2 : 2 ≤ c) (ha : c < accessCycle .zp true)
    (hrun : ((addressCycle .zp u c).perform f u).stopped = none) :
    ((addressCycle .zp u c).perform f u).view.Advanced s .zp b1 b2 c := by
  obtain rfl : c = 2 := by simp only [accessCycle] at ha; omega
  exact .of_fetch hf1 hrun fun x hx _ =>
    .latches hu hc (zext16 b1) u.view.ptr u.view.lo (by rw [← hx]; rfl) fun he _ _ => ⟨he, fun h => by cases h⟩

include hf1 in
/-- The indexed zero page. -/
theorem addressCycle_zpIndexed (hm : m = .zpx ∨ m = .zpy) (hl : u.view.Latched s m b1 b2 c) (h2 : 2 ≤ c)
    (ha : c < accessCycle m true) (hrun : ((addressCycle m u c).perform f u).stopped = none) :
    ((addressCycle m u c).perform f u).view.Advanced s m b1 b2 c := by
  have hidx : ∀ x : State, x.view = u.view → x.index m = s.index m := fun x hx => by
    have hxx : x.cpu.x = s.cpu.x := (congrArg View.x hx).trans hu.x
    have hxy : x.cpu.y = s.cpu.y := (congrArg View.y hx).trans hu.y
    rcases hm with rfl | rfl <;> simp only [State.index, hxx, hxy]
  obtain rfl | rfl : c = 2 ∨ c = 3 := by rcases hm with rfl | rfl <;> simp only [accessCycle] at ha <;> omega
  · have hmicro : addressCycle m u 2 = .fetch .first (fun v t => (t.setPTR v).nextCycle) := by
      rcases hm with rfl | rfl <;> rfl
    rw [hmicro] at hrun ⊢
    refine .of_fetch hf1 hrun fun x hx _ => .latches hu hc u.view.ea b1 u.view.lo (by rw [← hx]; rfl) fun _ hptr _ => ?_
    rcases hm with rfl | rfl <;> exact hptr
  · have hmicro : addressCycle m u 3 = .discard (zext16 u.sq.ptr) (fun t => t.using (indexSources m) fun t =>
        (t.setEA (zpIndexed t.sq.ptr (t.index m))).nextCycle) := by
      rcases hm with rfl | rfl <;> rfl
    have hptr : u.view.ptr = b1 := by rcases hm with rfl | rfl <;> exact hl
    rw [hmicro] at hrun ⊢
    refine .of_discard hrun fun x hx hk => ?_
    rw [State.using_running hk]
    have hxp : x.sq.ptr = b1 := (congrArg View.ptr hx).trans hptr
    refine .latches hu hc (zpIndexed b1 (s.index m)) u.view.ptr u.view.lo ?_ fun he _ _ => ?_
    · rw [← hx, ← hxp, ← hidx x hx]
      rfl
    · rcases hm with rfl | rfl <;> exact ⟨he, fun h => by cases h⟩

include hf1 hf2 in
theorem addressCycle_abs (hl : u.view.Latched s .abs b1 b2 c) (h2 : 2 ≤ c) (ha : c < accessCycle .abs true)
    (hrun : ((addressCycle .abs u c).perform f u).stopped = none) :
    ((addressCycle .abs u c).perform f u).view.Advanced s .abs b1 b2 c := by
  obtain rfl | rfl : c = 2 ∨ c = 3 := by simp only [accessCycle] at ha; omega
  · exact .of_fetch hf1 hrun fun x hx _ =>
      .latches hu hc u.view.ea u.view.ptr b1 (by rw [← hx]; rfl) fun _ _ hlo => hlo
  · have hlo : u.view.lo = b1 := hl
    refine .of_fetch hf2 hrun fun x hx _ => .latches hu hc (joinBytes b2 b1) u.view.ptr u.view.lo ?_
      fun he _ _ => ⟨he, fun h => by cases h⟩
    rw [← hx] at hlo ⊢
    rw [← hlo]
    rfl

include hf1 hf2 in
/-- The indexed absolute modes. -/
theorem addressCycle_absIndexed (hm : m = .abx ∨ m = .aby) (hl : u.view.Latched s m b1 b2 c) (h2 : 2 ≤ c)
    (ha : c < accessCycle m true) (hrun : ((addressCycle m u c).perform f u).stopped = none) :
    ((addressCycle m u c).perform f u).view.Advanced s m b1 b2 c := by
  have hidx : ∀ x : State, x.view = u.view → x.index m = s.index m := fun x hx => by
    have hxx : x.cpu.x = s.cpu.x := (congrArg View.x hx).trans hu.x
    have hxy : x.cpu.y = s.cpu.y := (congrArg View.y hx).trans hu.y
    rcases hm with rfl | rfl <;> simp only [State.index, hxx, hxy]
  obtain rfl | rfl | rfl : c = 2 ∨ c = 3 ∨ c = 4 := by
    rcases hm with rfl | rfl <;> simp only [accessCycle, if_true] at ha <;> omega
  · have hmicro : addressCycle m u 2 = .fetch .first (fun v t => (t.setLo v).nextCycle) := by
      rcases hm with rfl | rfl <;> rfl
    rw [hmicro] at hrun ⊢
    refine .of_fetch hf1 hrun fun x hx _ => .latches hu hc u.view.ea u.view.ptr b1 (by rw [← hx]; rfl) fun _ _ hlo => ?_
    rcases hm with rfl | rfl <;> exact hlo
  · have hmicro : addressCycle m u 3 = .fetch .second (fun v t => t.using (indexSources m) fun t =>
        (t.latchIndexed (joinBytes v t.sq.lo) (t.index m)).nextCycle) := by
      rcases hm with rfl | rfl <;> rfl
    have hlo : u.view.lo = b1 := by rcases hm with rfl | rfl <;> exact hl
    rw [hmicro] at hrun ⊢
    refine .of_fetch hf2 hrun fun x hx hk => ?_
    rw [State.using_running hk]
    have hxlo : x.sq.lo = b1 := (congrArg View.lo hx).trans hlo
    refine .latchIndexed hu hc hx (fun v he hcr hb => ?_) ?_ (hidx x hx)
    · rcases hm with rfl | rfl <;> exact ⟨he, hcr, hb⟩
    · rcases hm with rfl | rfl <;> rw [hxlo] <;> rfl
  · have hmicro : addressCycle m u 4 = .discard u.sq.ea (fun t => t.fixEA.nextCycle) := by
      rcases hm with rfl | rfl <;> rfl
    have hbase : u.view.ea = unfixed (s.indexBase m b1 b2) (s.index m) ∧
        u.view.cross = crosses (s.indexBase m b1 b2) (s.index m) ∧ u.view.bah = hi (s.indexBase m b1 b2) := by
      rcases hm with rfl | rfl <;> exact hl
    obtain ⟨hea, hcross, hbah⟩ := hbase
    rw [hmicro] at hrun ⊢
    refine .of_discard hrun fun x hx _ => .fixEA hu hc hx hea hcross hbah ?_ fun v he hcr hb => ?_
    · rcases hm with rfl | rfl <;> rfl
    · rcases hm with rfl | rfl <;> exact ⟨he, fun _ => ⟨hcr, hb⟩⟩

include hf1 hp in
theorem addressCycle_izx (hl : u.view.Latched s .izx b1 b2 c) (h2 : 2 ≤ c) (ha : c < accessCycle .izx true)
    (hrun : ((addressCycle .izx u c).perform f u).stopped = none) :
    ((addressCycle .izx u c).perform f u).view.Advanced s .izx b1 b2 c := by
  obtain rfl | rfl | rfl | rfl : c = 2 ∨ c = 3 ∨ c = 4 ∨ c = 5 := by simp only [accessCycle] at ha; omega
  · exact .of_fetch hf1 hrun fun x hx _ =>
      .latches hu hc u.view.ea b1 u.view.lo (by rw [← hx]; rfl) fun _ hptr _ => hptr
  · have hptr : u.view.ptr = b1 := hl
    refine .of_discard hrun fun x hx hk => ?_
    rw [State.using_running hk]
    refine .latches hu hc u.view.ea (b1 + s.cpu.x) u.view.lo ?_ fun _ hptr _ => hptr
    have hxx : x.view.x = s.cpu.x := (congrArg View.x hx).trans hu.x
    rw [← hx] at hptr ⊢
    rw [← hptr, ← hxx]
    rfl
  · have hptr : u.sq.ptr = b1 + s.cpu.x := hl
    refine .of_read hu hp hrun fun x hx _ => ?_
    refine .latches hu hc u.view.ea u.view.ptr (s.peek (zext16 u.sq.ptr)) (by rw [← hx]; rfl) fun _ hp' hlo => ?_
    exact ⟨hp'.trans hptr, hlo.trans (by rw [hptr])⟩
  · obtain ⟨hptr, hlo⟩ : u.sq.ptr = b1 + s.cpu.x ∧ u.view.lo = s.peek (zext16 (b1 + s.cpu.x)) := hl
    refine .of_read hu hp hrun fun x hx _ => ?_
    have hxlo : x.sq.lo = s.peek (zext16 (b1 + s.cpu.x)) := (congrArg View.lo hx).trans hlo
    refine .latches hu hc (s.zpPointer (b1 + s.cpu.x)) u.view.ptr u.view.lo ?_ fun he _ _ => ⟨he, fun h => by cases h⟩
    rw [← hx, State.zpPointer, ← hxlo, ← hptr]
    rfl

include hf1 hp in
theorem addressCycle_izy (hl : u.view.Latched s .izy b1 b2 c) (h2 : 2 ≤ c) (ha : c < accessCycle .izy true)
    (hrun : ((addressCycle .izy u c).perform f u).stopped = none) :
    ((addressCycle .izy u c).perform f u).view.Advanced s .izy b1 b2 c := by
  obtain rfl | rfl | rfl | rfl : c = 2 ∨ c = 3 ∨ c = 4 ∨ c = 5 := by simp only [accessCycle, if_true] at ha; omega
  · exact .of_fetch hf1 hrun fun x hx _ =>
      .latches hu hc u.view.ea b1 u.view.lo (by rw [← hx]; rfl) fun _ hptr _ => hptr
  · have hptr : u.sq.ptr = b1 := hl
    refine .of_read hu hp hrun fun x hx _ => ?_
    refine .latches hu hc u.view.ea u.view.ptr (s.peek (zext16 u.sq.ptr)) (by rw [← hx]; rfl) fun _ hp' hlo => ?_
    exact ⟨hp'.trans hptr, hlo.trans (by rw [hptr])⟩
  · obtain ⟨hptr, hlo⟩ : u.sq.ptr = b1 ∧ u.view.lo = s.peek (zext16 b1) := hl
    refine .of_read hu hp hrun fun x hx hk => ?_
    rw [State.using_running hk]
    have hxlo : x.sq.lo = s.peek (zext16 b1) := (congrArg View.lo hx).trans hlo
    have hbase : joinBytes (s.peek (zext16 (u.sq.ptr + 1))) x.sq.lo = s.indexBase .izy b1 b2 := by
      rw [hxlo, hptr]
      rfl
    have hlatched : ∀ v : View, v.ea = unfixed (s.indexBase .izy b1 b2) (s.index .izy) →
        v.cross = crosses (s.indexBase .izy b1 b2) (s.index .izy) → v.bah = hi (s.indexBase .izy b1 b2) →
        v.Latched s .izy b1 b2 5 := fun v he hcr hb => ⟨he, hcr, hb⟩
    exact .latchIndexed hu hc hx hlatched hbase ((congrArg View.y hx).trans hu.y)
  · obtain ⟨hea, hcross, hbah⟩ : u.view.ea = unfixed (s.indexBase .izy b1 b2) (s.index .izy) ∧
        u.view.cross = crosses (s.indexBase .izy b1 b2) (s.index .izy) ∧ u.view.bah = hi (s.indexBase .izy b1 b2) := hl
    exact .of_discard hrun fun x hx _ => .fixEA hu hc hx hea hcross hbah rfl fun v he hcr hb => ⟨he, fun _ => ⟨hcr, hb⟩⟩

include hf1 hf2 hp in
/-- An address cycle that raises no fault, in any memory mode. -/
theorem addressCycle_advances (hm : memoryMode m = true) (hl : u.view.Latched s m b1 b2 c) (h2 : 2 ≤ c)
    (ha : c < accessCycle m true) (hrun : ((addressCycle m u c).perform f u).stopped = none) :
    ((addressCycle m u c).perform f u).view.Advanced s m b1 b2 c := by
  cases m with
  | zp => exact addressCycle_zp hf1 hu hc h2 ha hrun
  | zpx => exact addressCycle_zpIndexed hf1 hu hc (.inl rfl) hl h2 ha hrun
  | zpy => exact addressCycle_zpIndexed hf1 hu hc (.inr rfl) hl h2 ha hrun
  | abs => exact addressCycle_abs hf1 hf2 hu hc hl h2 ha hrun
  | abx => exact addressCycle_absIndexed hf1 hf2 hu hc (.inl rfl) hl h2 ha hrun
  | aby => exact addressCycle_absIndexed hf1 hf2 hu hc (.inr rfl) hl h2 ha hrun
  | izx => exact addressCycle_izx hf1 hp hu hc hl h2 ha hrun
  | izy => exact addressCycle_izy hf1 hp hu hc hl h2 ha hrun
  | _ => exact absurd hm (by decide)

end

/-- At its last address cycle a mode has computed its address. -/
theorem View.Latched.arrived {v : View} {s : State} {m : Mode} {b1 b2 : Byte} (hm : memoryMode m = true)
    (h : v.Latched s m b1 b2 (accessCycle m true)) : v.ea = s.effectiveAddress m b1 b2 ∧ (canCross m = true →
      v.cross = crosses (s.indexBase m b1 b2) (s.index m) ∧ v.bah = hi (s.indexBase m b1 b2)) := by
  cases m <;> first | exact h | exact absurd hm (by decide)

end Sys2Proof.Machine

namespace Sys2Proof.Machine

/-! ### Sequences that store nothing -/

/-- No act of a micro-op changes memory: a bus write alone does. -/
theorem memory_actClosed : ActClosed (fun _ => true) (fun s t => t.mem = s.mem) where
  trans h g := g.trans h
  rewrites h := by
    obtain ⟨_, _, _, _, rfl⟩ := h.rest
    rfl
  hook s := (Dev.onVAccess s).mem
  guard h := State.using_keeps (P := fun t => t.mem = _) h rfl

theorem sequenceOf_does_memory (i : Instr) : (sequenceOf i).Does (fun _ => true) (fun s t => t.mem = s.mem) :=
  memory_actClosed.mnemSequence i.mnem i.mode (fun _ _ => rfl) (fun _ => rfl)

def MicroOp.isWrite : MicroOp → Bool
  | .write _ _ _ _ => true
  | _ => false

theorem MicroOp.perform_mem {m : MicroOp} (hw : m.isWrite = false) (h : m.Acts (fun s t => t.mem = s.mem)) {f : Feed} {u : State}
    (hrun : (m.perform f u).stopped = none) : (m.perform f u).mem = u.mem := by
  cases m with
  | read addr act =>
    obtain ⟨d, x, he, hx, -⟩ := MicroOp.perform_read_running hrun
    rw [he, h d x]
    exact congrArg View.mem hx
  | fetch slot act =>
    obtain ⟨d, x, he, hx⟩ := MicroOp.perform_fetch_running hrun
    rw [he, h _ x]
    exact congrArg View.mem hx
  | write pre addr value post => cases hw

/-- The addresses that the sequence of `i` stores to. -/
def Sequence.storesTo (s : State) (i : Instr) : Sequence → List Word
  | .write _ _ _ | .rmw _ _ => [s.operandAddr i]
  | .sh _ _ _ => [s.shTarget i (s.shStored i (shSource i.mnem s.regs))]
  | .push _ _ => [stackAt s.cpu.s]
  | .jsr => [stackAt s.cpu.s, stackAt (s.cpu.s - 1)]
  | .brk => [stackAt s.cpu.s, stackAt (s.cpu.s - 1), stackAt (s.cpu.s - 2)]
  | _ => []

theorem storeAddrs_eq (s : State) (i : Instr) : s.storeAddrs i = (sequenceOf i).storesTo s i := by
  cases i <;> rfl

def Sequence.isStoring : Sequence → Bool
  | .write _ _ _ | .rmw _ _ | .sh _ _ _ | .push _ _ | .jsr | .brk | .entry _ => true
  | _ => false

theorem addressCycle_isWrite (m : Mode) (u : State) (c : Nat) : (addressCycle m u c).isWrite = false := by
  unfold addressCycle
  split <;> rfl

theorem Sequence.micro_isWrite {q : Sequence} (h : q.isStoring = false) (u : State) : (q.micro u).isWrite = false := by
  cases q with
  | implied op => rfl
  | jam => rfl
  | read m rd =>
    simp only [Sequence.micro]
    unfold readCycle
    split
    · rfl
    · split
      · exact addressCycle_isWrite m u _
      · split <;> rfl
  | branch cond => simp only [Sequence.micro]; unfold branchCycle; split <;> rfl
  | pull act => simp only [Sequence.micro]; unfold pullCycle; split <;> rfl
  | jmpAbs => simp only [Sequence.micro]; unfold jmpAbsCycle; split <;> rfl
  | jmpInd => simp only [Sequence.micro]; unfold jmpIndCycle; split <;> rfl
  | rts => simp only [Sequence.micro]; unfold rtsCycle; split <;> rfl
  | rti => simp only [Sequence.micro]; unfold returnFromInterrupt; split <;> rfl
  | _ => cases h

theorem cycleKeeps_silent {i : Instr} {q : Sequence} (hi : sequenceOf i = q) (h : q.isStoring = false) (s : State)
    (l : List Word) (f : Feed) : CycleKeeps s l (fun _ => True) f q where
  mem u _ hk hrun := by
    have hacts := memory_actClosed.micro (hi ▸ sequenceOf_does_memory i) u
    rw [MicroOp.perform_mem (Sequence.micro_isWrite h u) hacts hrun]
    exact hk
  next _ _ _ _ := trivial

/-! ### Sequences that store to the effective address -/

/-- The cycles up to the first access of the operand. -/
structure View.Addressing (v : View) (s : State) (m : Mode) (b1 b2 : Byte) : Prop where
  unchanged : v.Unchanged s
  low : 2 ≤ v.cyc
  high : v.cyc ≤ accessCycle m true
  latched : v.Latched s m b1 b2 v.cyc

theorem State.startView_addressing (s : State) (m : Mode) (b1 b2 : Byte) : s.startView.Addressing s m b1 b2 where
  unchanged := ⟨rfl, rfl, rfl, rfl, rfl, rfl⟩
  low := Nat.le_refl 2
  high := (accessCycle_bounds m true).1
  latched := by cases m <;> trivial

section
variable {s u : State} {f : Feed} {q : Sequence} {m : Mode} {b1 b2 : Byte}

/-- An address cycle that raises no fault. -/
theorem Follows.addressing (hfol : Follows q m true) (hm : memoryMode m = true) (hf1 : ∀ d, f.pick .first d = b1)
    (hf2 : ∀ d, f.pick .second d = b2) (hp : s.plainPages = true) (h : u.view.Addressing s m b1 b2)
    (hc : u.sq.cyc < accessCycle m true) (hrun : ((q.micro u).perform f u).stopped = none) :
    ((q.micro u).perform f u).view.Addressing s m b1 b2 := by
  rw [hfol u hc] at hrun ⊢
  obtain ⟨hun, hcyc, hl⟩ := addressCycle_advances hf1 hf2 hp h.unchanged rfl hm h.latched h.low hc hrun
  exact ⟨hun, by rw [hcyc]; exact Nat.le_succ_of_le h.low, by rw [hcyc]; exact hc, by rw [hcyc]; exact hl⟩

theorem View.Addressing.keeps (h : u.view.Addressing s m b1 b2) (l : List Word) : KeepsMemory s l u.mem := by
  have hmem : u.mem = s.mem := h.unchanged.mem
  rw [hmem]
  exact KeepsMemory.refl s l

/-- In the cycle of the first access the effective address is in EA. -/
theorem View.Addressing.arrived (hm : memoryMode m = true) (h : u.view.Addressing s m b1 b2)
    (hc : ¬ u.sq.cyc < accessCycle m true) : u.sq.cyc = accessCycle m true ∧ u.sq.ea = s.effectiveAddress m b1 b2 ∧
      (canCross m = true → u.sq.cross = crosses (s.indexBase m b1 b2) (s.index m) ∧
        u.sq.bah = hi (s.indexBase m b1 b2)) := by
  have hcyc : u.sq.cyc = accessCycle m true := Nat.le_antisymm h.high (Nat.not_lt.mp hc)
  have hl : u.view.Latched s m b1 b2 u.sq.cyc := h.latched
  rw [hcyc] at hl
  exact ⟨hcyc, hl.arrived hm⟩

end

/-- Write class. -/
theorem cycleKeeps_write {s : State} {f : Feed} {m : Mode} {b1 b2 : Byte} (hm : memoryMode m = true)
    (hf1 : ∀ d, f.pick .first d = b1) (hf2 : ∀ d, f.pick .second d = b2) (hp : s.plainPages = true) (l : List Source)
    (value : State → Byte) :
    CycleKeeps s [s.effectiveAddress m b1 b2] (fun v => v.Addressing s m b1 b2) f (.write m l value) where
  mem u h hk hrun := by
    by_cases hc : u.sq.cyc < accessCycle m true
    · exact ((follows_write m l value).addressing hm hf1 hf2 hp h hc hrun).keeps _
    · have hmicro : (Sequence.write m l value).micro u = .write (fun t => t.uses l) (fun t => t.sq.ea) value State.finish :=
        if_neg hc
      rw [hmicro] at hrun ⊢
      obtain ⟨hpre, x, he, hx⟩ := MicroOp.perform_write_running hrun
      rw [show u.uses l = u from State.using_running hpre] at hx
      obtain ⟨-, hea, -⟩ := h.arrived hm hc
      have hmem : x.finish.mem = _ := congrArg View.mem hx
      rw [he, hmem]
      exact hk.write (by rw [hea]; exact List.mem_singleton_self _) _
  next u h hrun hne := by
    by_cases hc : u.sq.cyc < accessCycle m true
    · exact (follows_write m l value).addressing hm hf1 hf2 hp h hc hrun
    · have hmicro : (Sequence.write m l value).micro u = .write (fun t => t.uses l) (fun t => t.sq.ea) value State.finish :=
        if_neg hc
      rw [hmicro] at hrun hne
      obtain ⟨-, x, he, -⟩ := MicroOp.perform_write_running hrun
      rw [he] at hne
      exact absurd rfl hne

end Sys2Proof.Machine

namespace Sys2Proof.Machine

/-! ### Read-modify-write sequences -/

theorem State.using_sq {u : State} {l : List Source} {k : State → State} (h : (k u).sq = u.sq) : (u.using l k).sq = u.sq :=
  State.using_keeps (P := fun t => t.sq = u.sq) h rfl

theorem State.setAlu_sq (u : State) (r : AluResult) : (u.setAlu r).sq = u.sq := (Dev.onVAccess ((u.setA r.value).setC r.c)).sq

/-- The operation of a read-modify-write instruction leaves the latches alone, with or without the fault of R46. -/
theorem modifyOp_sq {n : Mnem} {m k : Mode} {f : Byte → State → Byte × State} (h : mnemSequence n m = .rmw k f) (d : Byte)
    (u : State) : (f d u).2.sq = u.sq := by
  have hand : ∀ (v : Byte) (t : State), (readAnd v t).sq = t.sq := fun _ _ => State.using_sq rfl
  have hora : ∀ (v : Byte) (t : State), (readOra v t).sq = t.sq := fun _ _ => State.using_sq rfl
  have heor : ∀ (v : Byte) (t : State), (readEor v t).sq = t.sq := fun _ _ => State.using_sq rfl
  have hadc : ∀ (v : Byte) (t : State), (readAdc v t).sq = t.sq := fun _ _ => State.using_sq (State.setAlu_sq _ _)
  have hsbc : ∀ (v : Byte) (t : State), (readSbc v t).sq = t.sq := fun _ _ => State.using_sq (State.setAlu_sq _ _)
  cases n <;> simp only [mnemSequence, reduceCtorEq, Sequence.rmw.injEq] at h
  case inc | dec => obtain ⟨-, rfl⟩ := h; rfl
  case dcp => obtain ⟨-, rfl⟩ := h; exact State.using_sq rfl
  case isb => obtain ⟨-, rfl⟩ := h; exact hsbc _ _
  case slo => obtain ⟨-, rfl⟩ := h; exact hora _ _
  case sre => obtain ⟨-, rfl⟩ := h; exact heor _ _
  case rla => obtain ⟨-, rfl⟩ := h; exact State.using_sq (hand _ _)
  case rra => obtain ⟨-, rfl⟩ := h; exact State.using_sq (hadc _ _)
  case nop | jmp => split at h <;> simp only [reduceCtorEq] at h
  case asl | lsr =>
    split at h <;> simp only [reduceCtorEq, Sequence.rmw.injEq] at h
    obtain ⟨-, rfl⟩ := h
    rfl
  case rol | ror =>
    split at h <;> simp only [reduceCtorEq, Sequence.rmw.injEq] at h
    obtain ⟨-, rfl⟩ := h
    exact State.using_sq rfl

section
variable {m : Mode} {f : Byte → State → Byte × State} {u : State}

theorem rmwCycle_read (hc : u.sq.cyc = accessCycle m true) :
    (Sequence.rmw m f).micro u = .read u.sq.ea (fun d t => (t.setDATA d).nextCycle) := by
  simp only [Sequence.micro, rmwCycle, hc, Nat.lt_irrefl, if_true, if_false]

/-- After the read of the operand there are two writes, the second of them the last cycle. -/
theorem rmwCycle_write (hsq : ∀ d u, (f d u).2.sq = u.sq) (hmem : ∀ d u, (f d u).2.mem = u.mem)
    (hc : accessCycle m true < u.sq.cyc) : ∃ post : State → State,
      (Sequence.rmw m f).micro u = .write id (fun t => t.sq.ea) (fun t => t.sq.data) post ∧ ∀ x, (post x).mem = x.mem ∧
        ((post x).sq.seq ≠ .boundary → (post x).sq.ea = x.sq.ea ∧ (post x).sq.cyc = x.sq.cyc + 1) := by
  have h1 : ¬ u.sq.cyc < accessCycle m true := by omega
  have h2 : ¬ u.sq.cyc = accessCycle m true := by omega
  by_cases h3 : u.sq.cyc = accessCycle m true + 1
  · refine ⟨_, (if_neg h1).trans ((if_neg h2).trans (if_pos h3)), fun x => ⟨hmem _ _, fun _ => ?_⟩⟩
    have hea : (f x.sq.data x).2.sq.ea = x.sq.ea := by rw [hsq]
    have hcyc : (f x.sq.data x).2.sq.cyc = x.sq.cyc := by rw [hsq]
    exact ⟨hea, congrArg (· + 1) hcyc⟩
  · exact ⟨_, (if_neg h1).trans ((if_neg h2).trans (if_neg h3)), fun x => ⟨rfl, fun hne => absurd rfl hne⟩⟩

end

/-- Read-modify-write class: both writes go to the effective address. -/
theorem cycleKeeps_rmw {s : State} {g : Feed} {m : Mode} {b1 b2 : Byte} (hm : memoryMode m = true)
    (hf1 : ∀ d, g.pick .first d = b1) (hf2 : ∀ d, g.pick .second d = b2) (hp : s.plainPages = true)
    {f : Byte → State → Byte × State} (hsq : ∀ d u, (f d u).2.sq = u.sq) (hmem : ∀ d u, (f d u).2.mem = u.mem) :
    CycleKeeps s [s.effectiveAddress m b1 b2]
      (fun v => v.Addressing s m b1 b2 ∨ (accessCycle m true < v.cyc ∧ v.ea = s.effectiveAddress m b1 b2)) g (.rmw m f) where
  mem u h hk hrun := by
    rcases h with h | ⟨hc, hea⟩
    · by_cases hc : u.sq.cyc < accessCycle m true
      · exact ((follows_rmw m f).addressing hm hf1 hf2 hp h hc hrun).keeps _
      · rw [rmwCycle_read (h.arrived hm hc).1] at hrun ⊢
        obtain ⟨d, x, he, hx, -⟩ := MicroOp.perform_read_running hrun
        have hxm : x.mem = u.mem := congrArg View.mem hx
        rw [he]
        show KeepsMemory s _ x.mem
        rw [hxm]
        exact hk
    · obtain ⟨post, hmicro, hpost⟩ := rmwCycle_write hsq hmem hc
      rw [hmicro] at hrun ⊢
      obtain ⟨-, x, he, hx⟩ := MicroOp.perform_write_running hrun
      have hxm : x.mem = _ := congrArg View.mem hx
      rw [he, (hpost x).1, hxm]
      exact hk.write (u := u) (List.mem_singleton.mpr hea) _
  next u h hrun hne := by
    rcases h with h | ⟨hc, hea⟩
    · by_cases hc : u.sq.cyc < accessCycle m true
      · exact .inl ((follows_rmw m f).addressing hm hf1 hf2 hp h hc hrun)
      · obtain ⟨hcyc, hea, -⟩ := h.arrived hm hc
        rw [rmwCycle_read hcyc] at hrun ⊢
        obtain ⟨d, x, he, hx, -⟩ := MicroOp.perform_read_running hrun
        have hxc : x.sq.cyc = u.sq.cyc := congrArg View.cyc hx
        have hxe : x.sq.ea = u.sq.ea := congrArg View.ea hx
        rw [he]
        refine .inr ⟨?_, hxe.trans hea⟩
        show accessCycle m true < x.sq.cyc + 1
        omega
    · obtain ⟨post, hmicro, hpost⟩ := rmwCycle_write hsq hmem hc
      rw [hmicro] at hrun hne ⊢
      obtain ⟨-, x, he, hx⟩ := MicroOp.perform_write_running hrun
      have hxc : x.sq.cyc = u.sq.cyc := congrArg View.cyc hx
      have hxe : x.sq.ea = u.sq.ea := congrArg View.ea hx
      rw [he] at hne ⊢
      obtain ⟨hpe, hpc⟩ := (hpost x).2 hne
      have hcu : accessCycle m true < u.sq.cyc := hc
      refine .inr ⟨?_, hpe.trans (hxe.trans hea)⟩
      show accessCycle m true < (post x).sq.cyc
      omega

/-! ### The masked stores (R431) -/

/-- What the preparation of a masked store leaves, and the byte it chooses (R426 to R429). -/
structure ShOperation (n : Mnem) (prep : State → State) (src : State → Byte) : Prop where
  sq : ∀ u, (prep u).stopped = none → (prep u).sq = u.sq
  mem : ∀ u, (prep u).stopped = none → (prep u).mem = u.mem
  params : ∀ u, (prep u).stopped = none → (prep u).params = u.params
  source : ∀ u, (prep u).stopped = none → src (prep u) = shSource n u.regs

theorem shOperation {n : Mnem} {m k : Mode} {prep : State → State} {src : State → Byte}
    (h : mnemSequence n m = .sh k prep src) : ShOperation n prep src := by
  have huses : ∀ (l : List Source) {u : State}, (u.uses l).stopped = none → u.uses l = u := fun l u h => State.using_running h
  cases n <;> simp only [mnemSequence, reduceCtorEq, Sequence.sh.injEq] at h
  case nop | jmp | asl | lsr | rol | ror => split at h <;> simp only [reduceCtorEq] at h
  case shs =>
    obtain ⟨-, rfl, rfl⟩ := h
    have hrun : ∀ u : State, (prepareShs u).stopped = none → prepareShs u = u.setS (u.cpu.a &&& u.cpu.x) :=
      fun u h => State.using_running h
    exact ⟨fun u h => by rw [hrun u h]; rfl, fun u h => by rw [hrun u h]; rfl, fun u h => by rw [hrun u h]; rfl,
      fun u h => by rw [hrun u h]; rfl⟩
  all_goals
    obtain ⟨-, rfl, rfl⟩ := h
    exact ⟨fun u h => congrArg State.sq (huses _ h), fun u h => congrArg State.mem (huses _ h),
      fun u h => congrArg State.params (huses _ h), fun u h => congrArg _ (huses _ h)⟩

/-- Where a masked store goes: the byte that is stored replaces the high byte of a crossed address. -/
theorem ShOperation.shAddr {n : Mnem} {prep : State → State} {src : State → Byte} (hop : ShOperation n prep src)
    {s u : State} {m : Mode} {b1 b2 : Byte} (hm : memoryMode m = true) (hcross : canCross m = true)
    (h : u.view.Addressing s m b1 b2) (hc : ¬ u.sq.cyc < accessCycle m true) (hrun : (prep u).stopped = none) :
    shAddr src (prep u) = if crosses (s.indexBase m b1 b2) (s.index m) then
      joinBytes (shSource n s.regs &&& (hi (s.indexBase m b1 b2) + 1)) (lo (s.effectiveAddress m b1 b2))
      else s.effectiveAddress m b1 b2 := by
  obtain ⟨-, hea, hlatch⟩ := h.arrived hm hc
  obtain ⟨hcr, hbah⟩ := hlatch hcross
  have hsh : u.sq.shstall = false := h.unchanged.shstall
  have hsrc : src (prep u) = shSource n s.regs := by
    have ha : u.cpu.a = s.cpu.a := h.unchanged.a
    have hx : u.cpu.x = s.cpu.x := h.unchanged.x
    have hy : u.cpu.y = s.cpu.y := h.unchanged.y
    rw [hop.source u hrun]
    cases n <;> simp only [shSource, State.regs, ha, hx, hy]
  have hvalue : shValue src (prep u) = shSource n s.regs &&& (hi (s.indexBase m b1 b2) + 1) := by
    rw [shValue, hop.sq u hrun, hsh, Bool.and_false, if_neg (by decide), hsrc, hbah]
  rw [Machine.shAddr, hvalue, hop.sq u hrun, hcr, hea]

/-- SHA, SHS, SHX and SHY. -/
theorem cycleKeeps_sh {s : State} {g : Feed} {m : Mode} {b1 b2 : Byte} (hm : memoryMode m = true) (hcross : canCross m = true)
    (hf1 : ∀ d, g.pick .first d = b1) (hf2 : ∀ d, g.pick .second d = b2) (hp : s.plainPages = true) {n : Mnem}
    {prep : State → State} {src : State → Byte} (hop : ShOperation n prep src) :
    CycleKeeps s [if crosses (s.indexBase m b1 b2) (s.index m) then
      joinBytes (shSource n s.regs &&& (hi (s.indexBase m b1 b2) + 1)) (lo (s.effectiveAddress m b1 b2))
      else s.effectiveAddress m b1 b2] (fun v => v.Addressing s m b1 b2) g (.sh m prep src) where
  mem u h hk hrun := by
    by_cases hc : u.sq.cyc < accessCycle m true
    · exact ((follows_sh m prep src).addressing hm hf1 hf2 hp h hc hrun).keeps _
    · have hmicro : (Sequence.sh m prep src).micro u = .write prep (shAddr src) (shValue src) State.finish := if_neg hc
      rw [hmicro] at hrun ⊢
      obtain ⟨hpre, x, he, hx⟩ := MicroOp.perform_write_running hrun
      have hmem : x.finish.mem = _ := congrArg View.mem hx
      rw [he, hmem]
      refine KeepsMemory.write ?_ (List.mem_singleton.mpr (hop.shAddr hm hcross h hc hpre)) _
      rw [hop.mem u hpre]
      exact hk
  next u h hrun hne := by
    by_cases hc : u.sq.cyc < accessCycle m true
    · exact (follows_sh m prep src).addressing hm hf1 hf2 hp h hc hrun
    · have hmicro : (Sequence.sh m prep src).micro u = .write prep (shAddr src) (shValue src) State.finish := if_neg hc
      rw [hmicro] at hrun hne
      obtain ⟨-, x, he, -⟩ := MicroOp.perform_write_running hrun
      rw [he] at hne
      exact absurd rfl hne

/-! ### Sequences that push -/

section
variable {s : State} {l : List Word} {f : Feed} {u : State}

/-- A push at one of the addresses `l`. -/
theorem KeepsMemory.push (hk : KeepsMemory s l u.mem) {pre post : State → State} {value : State → Byte}
    (hpre : (pre u).view = u.view) (hpost : ∀ x, (post x).mem = x.mem) (ha : stackAt u.cpu.s ∈ l)
    (hrun : ((MicroOp.push pre value post).perform f u).stopped = none) :
    KeepsMemory s l ((MicroOp.push pre value post).perform f u).mem := by
  obtain ⟨-, x, he, hx⟩ := MicroOp.perform_write_running hrun
  have hxm : x.mem = _ := congrArg View.mem hx
  have haddr : (pre u).stackAddr = stackAt u.cpu.s := congrArg (fun v : View => stackAt v.s) hpre
  have hmem : (pre u).mem = u.mem := congrArg View.mem hpre
  rw [MicroOp.push, he, hpost]
  show KeepsMemory s l x.mem
  rw [hxm]
  refine KeepsMemory.write (by rw [hmem]; exact hk) (by rw [haddr]; exact ha) _

theorem State.uses_view {l : List Source} : (u.uses l).view = u.view := State.using_keeps (P := fun t => t.view = u.view) rfl rfl

theorem State.packAccess_view : u.packAccess.view = u.view := State.uses_view.trans (Dev.onVAccess u).view

end

/-- A read or a fetch that leaves memory alone and, where the sequence goes on, S. -/
def MicroOp.KeepsS : MicroOp → Prop
  | .read _ act | .fetch _ act => ∀ d x, (act d x).mem = x.mem ∧
      ((act d x).sq.seq ≠ .boundary → (act d x).cpu.s = x.cpu.s ∧ (act d x).sq.cyc = x.sq.cyc + 1)
  | .write _ _ _ _ => False

theorem MicroOp.KeepsS.perform {m : MicroOp} (h : m.KeepsS) {f : Feed} {u : State} (hrun : (m.perform f u).stopped = none) :
    (m.perform f u).mem = u.mem ∧ ((m.perform f u).sq.seq ≠ .boundary →
      (m.perform f u).cpu.s = u.cpu.s ∧ (m.perform f u).sq.cyc = u.sq.cyc + 1) := by
  have hat : ∀ {act : Byte → State → State} {d : Byte} {x : State}, m.perform f u = act d x → x.view = u.view →
      ((act d x).mem = x.mem ∧ ((act d x).sq.seq ≠ .boundary → (act d x).cpu.s = x.cpu.s ∧
        (act d x).sq.cyc = x.sq.cyc + 1)) → (m.perform f u).mem = u.mem ∧ ((m.perform f u).sq.seq ≠ .boundary →
      (m.perform f u).cpu.s = u.cpu.s ∧ (m.perform f u).sq.cyc = u.sq.cyc + 1) := by
    intro act d x he hx hact
    have hxs : x.cpu.s = u.cpu.s := congrArg View.s hx
    have hxc : x.sq.cyc = u.sq.cyc := congrArg View.cyc hx
    have hxm : x.mem = u.mem := congrArg View.mem hx
    rw [he, ← hxs, ← hxc, ← hxm]
    exact hact
  cases m with
  | read addr act =>
    obtain ⟨d, x, he, hx, -⟩ := MicroOp.perform_read_running hrun
    exact hat he hx (h d x)
  | fetch slot act =>
    obtain ⟨d, x, he, hx⟩ := MicroOp.perform_fetch_running hrun
    exact hat he hx (h _ x)
  | write pre addr value post => exact h.elim

/-- A cycle of a sequence that uses the stack, `sp c` being S before cycle `c`. -/
inductive StackCycle (l : List Word) (sp : Nat → Byte) (u : State) : MicroOp → Prop
  | keeps {m : MicroOp} (h : m.KeepsS) (hsp : sp (u.sq.cyc + 1) = sp u.sq.cyc) : StackCycle l sp u m
  | pushes {pre post : State → State} {value : State → Byte} (hpre : (pre u).view = u.view)
      (hpost : ∀ x, (post x).mem = x.mem ∧ (post x).cpu.s = x.cpu.s ∧ (post x).sq.cyc = x.sq.cyc + 1)
      (hsp : sp (u.sq.cyc + 1) = sp u.sq.cyc - 1) (hl : stackAt (sp u.sq.cyc) ∈ l) : StackCycle l sp u (.push pre value post)
  | last {pre : State → State} {value : State → Byte} (hpre : (pre u).view = u.view) (hl : stackAt (sp u.sq.cyc) ∈ l) :
      StackCycle l sp u (.push pre value State.finish)

theorem cycleKeeps_stack {s : State} {l : List Word} {f : Feed} {q : Sequence} (sp : Nat → Byte)
    (h : ∀ u, StackCycle l sp u (q.micro u)) : CycleKeeps s l (fun v => v.s = sp v.cyc) f q where
  mem u hs hk hrun := by
    have hs : u.cpu.s = sp u.sq.cyc := hs
    have hcycle := h u
    generalize q.micro u = m at hcycle hrun ⊢
    cases hcycle with
    | keeps hm hsp => rw [(hm.perform hrun).1]; exact hk
    | pushes hpre hpost hsp hl => exact hk.push hpre (fun x => (hpost x).1) (by rw [hs]; exact hl) hrun
    | last hpre hl => exact hk.push hpre (fun _ => rfl) (by rw [hs]; exact hl) hrun
  next u hs hrun hne := by
    have hs : u.cpu.s = sp u.sq.cyc := hs
    have hcycle := h u
    show (State.view _).s = sp (State.view _).cyc
    generalize q.micro u = m at hcycle hrun hne ⊢
    cases hcycle with
    | keeps hm hsp =>
      obtain ⟨hms, hmc⟩ := (hm.perform hrun).2 hne
      exact hms.trans (hs.trans (hsp.symm.trans (congrArg sp hmc.symm)))
    | pushes hpre hpost hsp hl =>
      obtain ⟨-, x, he, hx⟩ := MicroOp.perform_write_running hrun
      have hxs : x.cpu.s = u.cpu.s := (congrArg View.s hx).trans (congrArg View.s hpre)
      have hxc : x.sq.cyc = u.sq.cyc := (congrArg View.cyc hx).trans (congrArg View.cyc hpre)
      obtain ⟨-, hps, hpc⟩ := hpost x.decS
      have hafter : sp (x.sq.cyc + 1) = x.cpu.s - 1 := by rw [hxc, hsp, hxs, hs]
      rw [MicroOp.push, he]
      exact hps.trans (hafter.symm.trans (congrArg sp hpc.symm))
    | last hpre hl =>
      obtain ⟨-, x, he, -⟩ := MicroOp.perform_write_running hrun
      rw [MicroOp.push, he] at hne
      exact absurd rfl hne

end Sys2Proof.Machine

namespace Sys2Proof.Machine

/-! ### PHA, PHP, JSR and BRK -/

theorem pushOperation_view {n : Mnem} {m : Mode} {pre : State → State} {value : State → Byte}
    (h : mnemSequence n m = .push pre value) (u : State) : (pre u).view = u.view := by
  cases n <;> simp only [mnemSequence, reduceCtorEq, Sequence.push.injEq] at h
  case nop | jmp | asl | lsr | rol | ror => split at h <;> simp only [reduceCtorEq] at h
  case pha => obtain ⟨rfl, -⟩ := h; exact State.uses_view
  case php => obtain ⟨rfl, -⟩ := h; exact State.packAccess_view

/-- A read or a fetch that goes on to the next cycle. -/
theorem MicroOp.keepsS_next {addr : Word} {act : State → State}
    (h : ∀ x, (act x).mem = x.mem ∧ (act x).cpu.s = x.cpu.s ∧ (act x).sq.cyc = x.sq.cyc + 1) :
    (MicroOp.discard addr act).KeepsS := fun _ x => ⟨(h x).1, fun _ => (h x).2⟩

/-- PHA and PHP push in cycle 3. -/
theorem pushCycle_stack {pre : State → State} {value : State → Byte} (hpre : ∀ u, (pre u).view = u.view) (b : Byte)
    (u : State) : StackCycle [stackAt b] (fun _ => b) u ((Sequence.push pre value).micro u) := by
  show StackCycle _ _ u (pushCycle pre value u u.sq.cyc)
  unfold pushCycle
  split
  · exact .keeps (MicroOp.keepsS_next fun _ => ⟨rfl, rfl, rfl⟩) rfl
  · exact .last (hpre u) (List.mem_singleton_self _)

/-- S before each cycle of a sequence that pushes from cycle `first` to cycle `last` (R351, R352). -/
def stackPointer (b : Byte) (first last c : Nat) : Byte := b - BitVec.ofNat 8 (min c (last + 1) - first)

theorem stackPointer_push {b : Byte} {first last c : Nat} (h1 : first ≤ c) (h2 : c ≤ last) :
    stackPointer b first last (c + 1) = stackPointer b first last c - 1 := by
  have hc : min (c + 1) (last + 1) - first = (min c (last + 1) - first) + 1 := by omega
  rw [stackPointer, hc, BitVec.ofNat_add]
  exact sub_add_eq_sub_sub _ _ _

theorem stackPointer_keep {b : Byte} {first last c : Nat} (h : c < first ∨ last < c) (hle : first ≤ last + 1) :
    stackPointer b first last (c + 1) = stackPointer b first last c := by
  have hc : min (c + 1) (last + 1) - first = min c (last + 1) - first := by omega
  rw [stackPointer, hc, stackPointer]

theorem jsrCycle_stack (b : Byte) (u : State) :
    StackCycle [stackAt b, stackAt (b - 1)] (stackPointer b 4 5) u (Sequence.jsr.micro u) := by
  show StackCycle _ _ u (jsrCycle u u.sq.cyc)
  unfold jsrCycle
  split
  case h_1 hc => exact .keeps (fun _ _ => ⟨rfl, fun _ => ⟨rfl, rfl⟩⟩) (by rw [hc]; rfl)
  case h_2 hc => exact .keeps (MicroOp.keepsS_next fun _ => ⟨rfl, rfl, rfl⟩) (by rw [hc]; rfl)
  case h_3 hc =>
    refine .pushes rfl (fun _ => ⟨rfl, rfl, rfl⟩) (stackPointer_push (by omega) (by omega)) ?_
    rw [hc]
    simp [stackPointer]
  case h_4 hc =>
    refine .pushes rfl (fun _ => ⟨rfl, rfl, rfl⟩) (stackPointer_push (by omega) (by omega)) ?_
    rw [hc]
    simp [stackPointer]
  case h_5 h2 h3 h4 h5 =>
    have hc4 : u.sq.cyc ≠ 4 := h4
    have hc5 : u.sq.cyc ≠ 5 := h5
    exact .keeps (fun _ _ => ⟨rfl, fun hne => absurd rfl hne⟩) (stackPointer_keep (by omega) (by omega))

theorem selectVector_view (u : State) : u.selectVector.view = u.view := by
  unfold State.selectVector
  split <;> rfl

theorem vectorCycle_keepsS (vec : Word) (c : Nat) : (vectorCycle vec c).KeepsS := by
  unfold vectorCycle
  split
  · exact fun _ _ => ⟨rfl, fun _ => ⟨rfl, rfl⟩⟩
  · exact fun _ _ => ⟨rfl, fun hne => absurd rfl hne⟩

theorem brkCycle_stack (b : Byte) (u : State) :
    StackCycle [stackAt b, stackAt (b - 1), stackAt (b - 2)] (stackPointer b 3 5) u (Sequence.brk.micro u) := by
  show StackCycle _ _ u (brkCycle u u.sq.cyc)
  unfold brkCycle
  split
  case h_1 hc => exact .keeps (MicroOp.keepsS_next fun _ => ⟨rfl, rfl, rfl⟩) (by rw [hc]; rfl)
  case h_2 h2 =>
    unfold takeInterrupt
    split
    case h_1 hc =>
      refine .pushes rfl (fun _ => ⟨rfl, rfl, rfl⟩) (stackPointer_push (by omega) (by omega)) ?_
      rw [hc]
      simp [stackPointer]
    case h_2 hc =>
      refine .pushes rfl (fun x => ?_) (stackPointer_push (by omega) (by omega)) ?_
      · have hv := selectVector_view x
        exact ⟨congrArg View.mem hv, congrArg View.s hv, congrArg (fun v : View => v.cyc + 1) hv⟩
      · rw [hc]
        simp [stackPointer]
    case h_3 hc =>
      refine .pushes State.packAccess_view (fun _ => ⟨rfl, rfl, rfl⟩) (stackPointer_push (by omega) (by omega)) ?_
      rw [hc]
      simp [stackPointer]
    case h_4 h3 h4 h5 =>
      have hc3 : u.sq.cyc ≠ 3 := h3
      have hc4 : u.sq.cyc ≠ 4 := h4
      have hc5 : u.sq.cyc ≠ 5 := h5
      exact .keeps (vectorCycle_keepsS _ _) (stackPointer_keep (by omega) (by omega))

/-! ### O48 -/

/-- A sequence that computes an effective address does it in the mode of its instruction. -/
theorem sequenceOf_mode {i : Instr} (h : (sequenceOf i).mode ≠ .imp) : (sequenceOf i).mode = i.mode := by
  have hrow : ∀ j : Instr, ((sequenceOf j).mode == .imp || (sequenceOf j).mode == j.mode) = true := by
    intro j
    cases j <;> rfl
  exact ((Bool.or_eq_true _ _).mp (hrow i)).elim (fun hi => absurd (beq_iff_eq.mp hi) h) beq_iff_eq.mp

theorem memoryMode_ne_imp {m : Mode} (hm : memoryMode m = true) : m ≠ .imp := by
  rintro rfl
  exact absurd hm (by decide)

theorem sequenceOf_ne_entry (i : Instr) (k : Entry) : sequenceOf i ≠ .entry k := by
  cases i <;> exact nofun

theorem mnem_of_sh {n : Mnem} {m k : Mode} {prep : State → State} {src : State → Byte}
    (h : mnemSequence n m = .sh k prep src) : n ∈ [Mnem.sha, .shs, .shx, .shy] := by
  cases n <;> simp only [mnemSequence, reduceCtorEq] at h
  case nop | jmp | asl | lsr | rol | ror => split at h <;> simp only [reduceCtorEq] at h
  all_goals decide

/-- The masked stores have indexed modes. -/
theorem canCross_of_mnem {i : Instr} (h : i.mnem ∈ [Mnem.sha, .shs, .shx, .shy]) : canCross i.mode = true := by
  have hrow : ∀ j : Instr, (!([Mnem.sha, .shs, .shx, .shy].contains j.mnem) || canCross j.mode) = true := by
    intro j
    cases j <;> rfl
  have hi := hrow i
  rwa [List.contains_iff_mem.mpr h] at hi

/-- The frame of memory, from the cycles of the sequence. -/
theorem CycleKeeps.frame {i : Instr} {s t : State} {q : Sequence} {J : View → Prop} {a : Word} (hq : sequenceOf i = q)
    (h : CycleKeeps s (q.storesTo s i) J (Feed.ofInstr i) q) (h0 : J s.startView) (he : Machine.exec i s = .next t)
    (ha : a ∉ s.storeAddrs i) : t.peek a = s.peek a := by
  subst hq
  exact h.exec h0 he (by rwa [← storeAddrs_eq])

/-- Settles O48: an instruction's writes go to the addresses that its address cycles compute, or to the stack. -/
theorem frameOfMemory : Obligations.FrameOfMemory := by
  intro i s t a hp he ha
  have hfit := sequenceOf_fits i
  have hmode := sequenceOf_mode (i := i)
  have hdoes := sequenceOf_does_memory i
  have h1 : ∀ d, (Feed.ofInstr i).pick .first d = operand1 i := fun _ => rfl
  have h2 : ∀ d, (Feed.ofInstr i).pick .second d = operand2 i := fun _ => rfl
  have haddressing := s.startView_addressing i.mode (operand1 i) (operand2 i)
  have hsilent : ∀ {q}, sequenceOf i = q → q.isStoring = false → t.peek a = s.peek a := fun hq hstore =>
    (cycleKeeps_silent hq hstore s _ _).frame hq trivial he ha
  cases hq : sequenceOf i with
  | write m l value =>
    rw [hq] at hfit hmode
    have hm : memoryMode m = true := hfit
    obtain rfl : m = i.mode := hmode (memoryMode_ne_imp hm)
    exact (cycleKeeps_write hm h1 h2 hp l value).frame hq haddressing he ha
  | rmw m f =>
    rw [hq] at hfit hmode hdoes
    have hm : memoryMode m = true := hfit
    obtain rfl : m = i.mode := hmode (memoryMode_ne_imp hm)
    exact (cycleKeeps_rmw hm h1 h2 hp (modifyOp_sq hq) hdoes).frame hq (.inl haddressing) he ha
  | sh m prep src =>
    rw [hq] at hfit hmode
    have hm : memoryMode m = true := hfit
    obtain rfl : m = i.mode := hmode (memoryMode_ne_imp hm)
    have hcross := canCross_of_mnem (mnem_of_sh hq)
    have hpage : s.pageCross i = crosses (s.indexBase i.mode (operand1 i) (operand2 i)) (s.index i.mode) := by
      rw [State.pageCross_eq, hcross, Bool.true_and]
    have hkeeps := cycleKeeps_sh hm hcross h1 h2 hp (shOperation hq)
    rw [← hpage] at hkeeps
    exact hkeeps.frame hq haddressing he ha
  | push pre value => exact (cycleKeeps_stack _ (pushCycle_stack (pushOperation_view hq) s.cpu.s)).frame hq rfl he ha
  | jsr => exact (cycleKeeps_stack _ (jsrCycle_stack s.cpu.s)).frame hq (BitVec.sub_zero _).symm he ha
  | brk => exact (cycleKeeps_stack _ (brkCycle_stack s.cpu.s)).frame hq (BitVec.sub_zero _).symm he ha
  | entry k => exact absurd hq (sequenceOf_ne_entry i k)
  | implied op => exact hsilent hq rfl
  | read m rd => exact hsilent hq rfl
  | branch cond => exact hsilent hq rfl
  | pull act => exact hsilent hq rfl
  | jmpAbs => exact hsilent hq rfl
  | jmpInd => exact hsilent hq rfl
  | rts => exact hsilent hq rfl
  | rti => exact hsilent hq rfl
  | jam => exact hsilent hq rfl

end Sys2Proof.Machine

namespace Sys2Proof.Machine

/-! ### O7: the canonical form of memory (R80) -/

/-- Memory is in canonical form in `t` if it is in `s`. -/
def MemoryFormKept (s t : State) : Prop := Memory.wf s.mem = true → Memory.wf t.mem = true

theorem MemoryFormKept.of_mem {s t : State} (h : t.mem = s.mem) : MemoryFormKept s t := by
  rw [MemoryFormKept, h]
  exact id

/-- The acts of a micro-op leave memory alone (`memory_actClosed`). -/
theorem memoryForm_actClosed : ActClosed (fun _ => true) MemoryFormKept where
  trans h g := g ∘ h
  rewrites h := .of_mem (memory_actClosed.rewrites h)
  hook s := .of_mem (memory_actClosed.hook s)
  guard h := State.using_keeps (P := MemoryFormKept _) h (.of_mem rfl)

/-- Of the bus accesses a write to RAM alone changes memory: it is a `poke`, which keeps the canonical form. -/
theorem memoryForm_busClosed : BusClosed MemoryFormKept where
  trans h g := g ∘ h
  read s a := by
    obtain ⟨t, ht, hd, -⟩ := s.busRead_dev a
    rw [ht]
    exact .of_mem hd.mem
  write s a v := by
    obtain ⟨t, ht, hd⟩ := s.busWrite_dev a v
    rw [ht]
    rcases hd with ⟨-, rfl⟩ | ⟨-, hd⟩
    · exact s.poke_wf a v
    · exact .of_mem hd.mem

/-- Neither the devices nor a host call reach memory. -/
theorem memoryForm_tickClosed : TickClosed MemoryFormKept where
  phi1 s := .of_mem (Outside.phi1 s).mem
  late s := .of_mem (Outside.hostCalls s _).mem
  endTick _ _ := .of_mem rfl

/-- Settles O7: all that a step does to memory is a run of bus writes to RAM, and each keeps the canonical form. -/
theorem stepKeepsMemoryForm : Obligations.StepKeepsMemoryForm := by
  intro s t h hwf
  obtain ⟨u, hu, hR⟩ := memoryForm_actClosed.step memoryForm_busClosed memoryForm_tickClosed (fun _ _ => .of_mem rfl) s
  obtain ⟨rfl, -⟩ := State.outcome_eq_next.mp (hu.symm.trans h)
  exact hR hwf

/-! ### O6: the power-on state -/

/-- Settles O6: the power-on values meet each invariant. -/
theorem invariantsHoldAtReset : Obligations.InvariantsHoldAtReset := by
  have houtputs : State.reset.irqOutputs := ⟨rfl, rfl⟩
  have hwired : State.reset.portBWired := ⟨rfl, rfl, rfl⟩
  have hbounds : State.reset.rotationBounds := ⟨by decide, by decide, by decide, by decide⟩
  have hhead : State.reset.headInBuffer := show powerOnHalfTrack < initialMaxHalftracks by decide
  have htracks : State.reset.tracksFit := rfl
  have hpos : State.reset.bitPosOnTrack := .inl rfl
  exact ⟨State.reset_mem_wf, rfl, rfl, rfl, rfl, houtputs, hwired, hbounds, hhead, htracks, hpos⟩

/-! ### O52: what answers an address (R80, R530) -/

section
variable {s : State} {a : Word}

/-- On the drive each VIA answers the 1024 addresses of its window (R530). -/
theorem State.deviceAt_drive (h : s.params.platform = .drive) :
    (s.deviceAt a = some .via1 ↔ 0x1800 ≤ a.toNat ∧ a.toNat ≤ 0x1BFF) ∧
      (s.deviceAt a = some .via2 ↔ 0x1C00 ≤ a.toNat ∧ a.toNat ≤ 0x1FFF) := by
  simp only [State.deviceAt, h]
  split
  · simp; omega
  · split <;> simp <;> omega

theorem State.regionAt_nil (h : s.params.regions = []) : s.regionAt a = .ram := by
  simp [State.regionAt, h]

theorem Region.holds_iff (r : Region) (n : Nat) : r.holds n = true ↔ r.base ≤ n ∧ n < r.base + r.size := by
  simp [Region.holds]

/-- The first region that holds the address decides. -/
theorem State.regionAt_cons {r : Region} {rest : List Region} (h : s.params.regions = r :: rest) :
    s.regionAt a =
      if r.base ≤ a.toNat ∧ a.toNat < r.base + r.size then r.kind
      else State.regionAt { s with params := { s.params with regions := rest } } a := by
  by_cases hr : r.holds a.toNat = true
  · rw [if_pos ((r.holds_iff _).mp hr)]
    simp [State.regionAt, h, hr]
  · rw [if_neg (mt (r.holds_iff _).mpr hr)]
    simp [State.regionAt, h, hr]

theorem State.busRead_stored (hd : s.deviceAt a = none) (hr : s.regionAt a ≠ .unmapped) :
    s.busRead a = (s.peek a, s.logBus (.read a (s.peek a))) := by
  cases hk : s.regionAt a with
  | unmapped => exact absurd hk hr
  | ram | rom => simp only [State.busRead, State.readMemory, hd, hk]

theorem State.busRead_unmapped (hd : s.deviceAt a = none) (hr : s.regionAt a = .unmapped) :
    s.busRead a = (Config.environmentByte s.draws, s.advanceDraws.logBus (.read a (Config.environmentByte s.draws))) := by
  simp only [State.busRead, State.readMemory, hd, hr]

theorem State.busWrite_ram (hd : s.deviceAt a = none) (hr : s.regionAt a = .ram) (v : Byte) :
    s.busWrite a v = (s.poke a v).logBus (.write a v) := by
  simp only [State.busWrite, State.writeMemory, hd, hr]

theorem State.busWrite_ignored (hd : s.deviceAt a = none) (hr : s.regionAt a ≠ .ram) (v : Byte) :
    s.busWrite a v = s.logBus (.write a v) := by
  cases hk : s.regionAt a with
  | ram => exact absurd hk hr
  | rom | unmapped => simp only [State.busWrite, State.writeMemory, hd, hk]

end

/-- Settles O52: the windows of the VIAs, the memory map region by region, and what RAM, ROM and nothing do with an access. -/
theorem memoryEnvironment : Obligations.MemoryEnvironment := by
  intro s a v
  have hram (hd : s.deviceAt a = none) (hr : s.regionAt a = .ram) :
      (Memory.wf s.mem = true → (s.busWrite a v).peek a = v) ∧ ∀ b, b ≠ a → (s.busWrite a v).peek b = s.peek b := by
    rw [State.busWrite_ram hd hr]
    exact ⟨s.peek_poke_same a v, fun b hb => s.peek_poke_other a b v hb.symm⟩
  exact ⟨fun hc => State.deviceAt_core hc a, State.deviceAt_drive, State.regionAt_nil,
    fun _ _ => State.regionAt_cons, State.busRead_stored, State.busRead_unmapped, hram,
    fun hd hr => State.busWrite_ignored hd hr v⟩

end Sys2Proof.Machine

namespace Sys2Proof.Machine

/-! ### O1, O2, O3: the decoder and the encoder (R110, R112, R114) -/

/-- An instruction is one, two or three bytes long (R111). -/
theorem Instr.length_cases (i : Instr) : i.length = 1 ∨ i.length = 2 ∨ i.length = 3 := by
  unfold Instr.length
  cases i.mode <;> simp [Mode.length]

theorem Instr.wellFormed_true (i : Instr) : i.wellFormed = true := by
  cases i <;> rfl

/-- Decoding consumes the bytes that the opcode's mode owns, and those decide the instruction. -/
theorem decode_take_append (b x y : Byte) (rest : List Byte) :
    decode ([b, x, y].take (decodeBytes b x y).length ++ rest) = .ok (decodeBytes b x y, rest) := by
  rw [decodeBytes_length]
  obtain h | h | h := Instr.length_cases (decodeBytes b 0 0)
  · have hown : decodeBytes b 0 0 = decodeBytes b x y := decodeBytes_congr (by omega) (by omega)
    simp only [h, ← hown, decode, List.take, List.cons_append, List.nil_append]
  · have hown : decodeBytes b x 0 = decodeBytes b x y := decodeBytes_congr (fun _ => rfl) (by omega)
    simp only [h, ← hown, decode, List.take, List.cons_append, List.nil_append]
  · simp only [h, decode, List.take, List.cons_append, List.nil_append]

/-- Bytes that decode start with the bytes that the opcode's mode owns. -/
theorem exists_of_decode {bytes rest : List Byte} {i : Instr} (h : decode bytes = .ok (i, rest)) :
    ∃ b x y, i = decodeBytes b x y ∧ bytes = [b, x, y].take i.length ++ rest := by
  cases bytes with
  | nil => cases h
  | cons b tail =>
    simp only [decode] at h
    split at h
    next hlen =>
      cases h
      exact ⟨b, 0, 0, rfl, by rw [hlen]; rfl⟩
    next x _ hlen =>
      cases h
      exact ⟨b, x, 0, rfl, by rw [decodeBytes_length, hlen]; rfl⟩
    next x y _ h1 h2 =>
      cases h
      have hlen : (decodeBytes b 0 0).length = 3 := ((Instr.length_cases _).resolve_left h1).resolve_left h2
      exact ⟨b, x, y, rfl, by rw [decodeBytes_length, hlen]; rfl⟩
    next => cases h

/-- The encoding is the opcode byte and the operand bytes, as many as the mode has. -/
theorem encode_eq_take (i : Instr) : encode i = [i.opcode, operand1 i, operand2 i].take i.length := by
  cases i <;> rfl

/-- The bytes that the opcode's mode owns are the encoding of what they decode to. -/
theorem encode_decodeBytes (b x y : Byte) :
    encode (decodeBytes b x y) = [b, x, y].take (decodeBytes b x y).length := by
  obtain ⟨-, h1, h2⟩ := decodeBytes_faithful b x y
  rw [encode_eq_take, decodeBytes_opcode]
  obtain h | h | h := Instr.length_cases (decodeBytes b x y)
  · rw [h]; rfl
  · rw [h, h1 (by omega)]; rfl
  · rw [h, h1 (by omega), h2 (by omega)]

/-- Settles O1: an instruction is what its opcode and its operand bytes decode to. -/
theorem decodeEncodeRoundTrip : Obligations.DecodeEncodeRoundTrip := by
  intro i rest
  have h := decode_take_append i.opcode (operand1 i) (operand2 i) rest
  rwa [decodeBytes_encode, ← encode_eq_take] at h

/-- Settles O2: what decodes is an opcode with the bytes that its mode owns, and three bytes are enough for any mode. -/
theorem decodedBytesAreTheEncoding : Obligations.DecodedBytesAreTheEncoding := by
  constructor
  · intro bytes rest i h
    obtain ⟨b, x, y, rfl, rfl⟩ := exists_of_decode h
    rw [encode_decodeBytes]
  · intro b x y
    have h := decode_take_append b x y ([b, x, y].drop (decodeBytes b x y).length)
    rw [List.take_append_drop] at h
    exact ⟨_, _, h, decodeBytes_opcode b x y, Instr.wellFormed_true _⟩

/-- Settles O3: each word is the encoding of its instruction, so it decodes to it. -/
theorem wordsOfTheTable : Obligations.WordsOfTheTable := by
  have h (i : Instr) : decode (encode i ++ []) = .ok (i, []) := decodeEncodeRoundTrip i []
  exact ⟨h (.ldaImm 0x05), h (.staIndY 0x20), h .txs, h (.adcAbs 0x1234), h (.sbcIndX 0x40), h (.bitZp 0x80), h .rolA,
    h (.incAbsX 0x2000), h (.bne 0xFE), h (.jmpInd 0x30FF), h (.jsr 0x8000), h .rti, h .plp, h .sei, h (.shaAbsY 0x4000),
    h (.sbxImm 0x11), h .jam02⟩

end Sys2Proof.Machine

namespace Sys2Proof.Machine

/-! ### Loads, stores and the operations on memory (R160 to R163) -/

/-- Settles O23: each load is a read whose operation gives the operand to its register. -/
theorem loads : Obligations.Loads := by
  intro i s hready hi
  obtain ⟨hr, hu⟩ := State.readyFor_iff.mp hready
  have hidx := (State.mayUse_sources hu).1
  have hcls : i.row.cls = .read := by
    have hrow : ∀ j : Instr, (!([Mnem.lda, .ldx, .ldy, .lax].contains j.mnem) || j.row.cls == .read) = true := by
      intro j
      cases j <;> rfl
    have hrow := hrow i
    rw [List.contains_iff_mem.mpr hi] at hrow
    exact beq_iff_eq.mp hrow
  have hq : sequenceOf i = mnemSequence i.mnem i.mode := rfl
  have hnil := s.mayUse_nil
  generalize i.mnem = n at hi hq ⊢
  simp only [List.mem_cons, List.not_mem_nil, or_false] at hi
  rcases hi with rfl | rfl | rfl | rfl
  · exact runs_read_result (g := fun v r => (loaded .lda r v).withNZ v) hq hcls (fun v => (readLda_spec v).endsCalmly)
      hr hidx hnil fun _ _ _ => ⟨rfl, rfl⟩
  · exact runs_read_result (g := fun v r => (loaded .ldx r v).withNZ v) hq hcls (fun v => (readLdx_spec v).endsCalmly)
      hr hidx hnil fun _ _ _ => ⟨rfl, rfl⟩
  · exact runs_read_result (g := fun v r => (loaded .ldy r v).withNZ v) hq hcls (fun v => (readLdy_spec v).endsCalmly)
      hr hidx hnil fun _ _ _ => ⟨rfl, rfl⟩
  · exact runs_read_result (g := fun v r => (loaded .lax r v).withNZ v) hq hcls (fun v => (readLax_spec v).endsCalmly)
      hr hidx hnil fun _ _ _ => ⟨rfl, rfl⟩

/-- A write class instruction has a memory operand, and its ticks are those of the mode. -/
theorem writeClass_ticks {i : Instr} (h : i.row.cls = .write) :
    memoryMode i.mode = true ∧ i.row.cycles = accessCycle i.mode true := by
  have hrow : ∀ j : Instr,
      (j.row.cls != .write || (memoryMode j.mode && j.row.cycles == accessCycle j.mode true)) = true := by
    intro j
    cases j <;> rfl
  have hi := hrow i
  simpa only [h, bne_self_eq_false, Bool.false_or, Bool.and_eq_true, beq_iff_eq] using hi

/-- A read-modify-write instruction has a memory operand, and its ticks are two more than those of the mode. -/
theorem rmwClass_ticks {i : Instr} (h : i.row.cls = .rmw) :
    memoryMode i.mode = true ∧ i.row.cycles = accessCycle i.mode true + 2 := by
  have hrow : ∀ j : Instr,
      (j.row.cls != .rmw || (memoryMode j.mode && j.row.cycles == accessCycle j.mode true + 2)) = true := by
    intro j
    cases j <;> rfl
  have hi := hrow i
  simpa only [h, bne_self_eq_false, Bool.false_or, Bool.and_eq_true, beq_iff_eq] using hi

/-- The index adds a tick to the read class alone. -/
theorem State.ticksOf_eq_cycles (s : State) {i : Instr} (h : i.row.cls ≠ .read) : s.ticksOf i = i.row.cycles := by
  simp only [State.ticksOf, h, false_and, if_false, Nat.add_zero]

/-- A write class instruction stores its byte at the effective address. -/
theorem runs_write {i : Instr} {l : List Source} {value : State → Byte} {v : Byte} {s : State}
    (hq : sequenceOf i = .write i.mode l value) (hcls : i.row.cls = .write)
    (hv : ∀ u : State, u.cpu.a = s.cpu.a → u.cpu.x = s.cpu.x → u.cpu.y = s.cpu.y → value u = v) (hready : s.ready = true)
    (hu : s.mayUse (indexSources i.mode) = true) (hl : s.mayUse l = true) :
    Runs i s (s.ticksOf i) (fun t => VKept s t ∧ t.regs = { s.regs with pc := s.nextPC i } ∧
      t.mem = s.afterWrites [(s.operandAddr i, v)] ∧ [.write (s.operandAddr i) v] <:+ t.bus) := by
  obtain ⟨hm, hcycles⟩ := writeClass_ticks hcls
  have hticks : s.ticksOf i = accessCycle i.mode true := by
    rw [s.ticksOf_eq_cycles (by rw [hcls]; decide), hcycles]
  obtain ⟨t, he, hk, hpc, hmem, hbus, hb, -⟩ := write_class i i.mode hm rfl l value hv (State.ready_calm hready) hu hl
  rw [hticks]
  refine runs_of_passed hready ((exec_eq i s).trans (hq ▸ he)) hk.toPassed hb ⟨hk.v, ?_, hmem, hbus⟩
  rw [← hpc]
  exact hk.regs

/-- Settles O24: each store writes its register's byte. -/
theorem stores : Obligations.Stores := by
  intro i s hready hi
  obtain ⟨hr, hu⟩ := State.readyFor_iff.mp hready
  obtain ⟨hidx, hl⟩ := State.mayUse_sources hu
  have hcls : i.row.cls = .write := by
    have hrow : ∀ j : Instr, (!([Mnem.sta, .stx, .sty, .sax].contains j.mnem) || j.row.cls == .write) = true := by
      intro j
      cases j <;> rfl
    have hrow := hrow i
    rw [List.contains_iff_mem.mpr hi] at hrow
    exact beq_iff_eq.mp hrow
  have hq : sequenceOf i = mnemSequence i.mnem i.mode := rfl
  generalize i.mnem = n at hi hl hq ⊢
  simp only [List.mem_cons, List.not_mem_nil, or_false] at hi
  rcases hi with rfl | rfl | rfl | rfl
  · exact runs_write hq hcls (fun _ ha _ _ => ha) hr hidx hl
  · exact runs_write hq hcls (fun _ _ hx _ => hx) hr hidx hl
  · exact runs_write hq hcls (fun _ _ _ hy => hy) hr hidx hl
  · exact runs_write hq hcls (fun _ ha hx _ => congrArg₂ (· &&& ·) ha hx) hr hidx hl

/-- A read-modify-write instruction stores the result of its operation, which maps the programmer's view by `g v`. -/
theorem runs_rmw {i : Instr} {f : Byte → State → Byte × State} {l : List Source} {s : State} {r : Byte → Byte}
    {g : Byte → Regs → Regs} (hq : sequenceOf i = .rmw i.mode f) (hcls : i.row.cls = .rmw)
    (hop : ∀ v, OpSpec l (fun u => (f v u).2)) (hready : s.ready = true) (hu : s.mayUse (indexSources i.mode) = true)
    (hl : s.mayUse l = true)
    (hg : ∀ v u, u.mayUse l = true → u.cpu.p.c = s.cpu.p.c →
      (f v u).1 = r v ∧ (f v u).2.regs = g v u.regs ∧ (f v u).2.cpu.p.v = u.cpu.p.v)
    (hpc : ∀ v q p, ({ g v { q with pc := p } with pc := s.nextPC i } : Regs) = { g v q with pc := s.nextPC i }) :
    Runs i s (s.ticksOf i) (fun t => VKept s t ∧ ∃ v, OperandModified s i t v (r v) ∧
      t.regs = { g v s.regs with pc := s.nextPC i }) := by
  obtain ⟨hm, hcycles⟩ := rmwClass_ticks hcls
  have hticks : s.ticksOf i = accessCycle i.mode true + 2 := by
    rw [s.ticksOf_eq_cycles (by rw [hcls]; decide), hcycles]
  obtain ⟨v, u, t, he, hsu, -, -, hut, hp, htpc, hmod, hb, -⟩ := rmw_class i i.mode hm rfl f (fun v u => (hop v).stays u)
    (s := s) (fun v u hmay => (hop v).frame u (hmay l hl)) (State.ready_calm hready) hu
  have hmay : u.mayUse l = true := hsu.mayUse (s := s.clearLogs) hl
  obtain ⟨hbyte, hregs, hv⟩ := hg v u hmay hsu.c
  have hVu : VKept s (u.endTick .executed) := hsu.v
  have hVop : VKept (u.endTick .executed) ((f v u).2.endTick .executed) := .inl hv
  rw [hticks]
  refine runs_of_passed hready ((exec_eq i s).trans (hq ▸ he)) hp hb ⟨?_, v, hbyte ▸ hmod, ?_⟩
  · exact (hVu.trans hsu.params hVop).trans (((hop v).frame u hmay).params.trans hsu.params) hut.v
  · have hview : u.regs = { s.regs with pc := u.cpu.pc } := hsu.regs
    calc t.regs = { (f v u).2.regs with pc := s.nextPC i } := by rw [← htpc]; exact hut.regs
      _ = { g v s.regs with pc := s.nextPC i } := by rw [hregs, hview, hpc]

/-- The bit shifted out, as a number's property (R300). -/
theorem getLsbD_seven_eq_decide : ∀ v : Byte, v.getLsbD 7 = decide (128 ≤ v.toNat) := by decide

theorem getLsbD_zero_eq_decide : ∀ v : Byte, v.getLsbD 0 = decide (v.toNat % 2 = 1) := by decide

theorem aslByte_eq_shifted (v : Byte) (c : Bool) : aslByte v = shifted .asl v c := by
  rw [aslByte_eq, getLsbD_seven_eq_decide]; rfl

theorem lsrByte_eq_shifted (v : Byte) (c : Bool) : lsrByte v = shifted .lsr v c := by
  rw [lsrByte_eq, getLsbD_zero_eq_decide]; rfl

theorem rolByte_eq_shifted (v : Byte) (c : Bool) : rolByte v c = shifted .rol v c := by
  rw [rolByte_eq, getLsbD_seven_eq_decide]; rfl

theorem rorByte_eq_shifted (v : Byte) (c : Bool) : rorByte v c = shifted .ror v c := by
  rw [rorByte_eq, getLsbD_zero_eq_decide]; rfl

/-- The programmer's view after a shift or rotate with the carry `c`. -/
def shiftedWith (n : Mnem) (c : Bool) (v : Byte) (r : Regs) : Regs :=
  { r with c := (shifted n v c).2 }.withNZ (shifted n v c).1

/-- A shift or rotate of memory. -/
theorem runs_shift {i : Instr} {n : Mnem} {f : Byte → State → Byte × State} {l : List Source} {s : State}
    (hq : sequenceOf i = .rmw i.mode f) (hcls : i.row.cls = .rmw)
    (hop : ∀ v, OpSpec l (fun u => (f v u).2)) (hready : s.ready = true) (hu : s.mayUse (indexSources i.mode) = true)
    (hl : s.mayUse l = true)
    (hf : ∀ v u, u.mayUse l = true → f v u = shiftWith (shifted n v u.cpu.p.c) u) :
    Runs i s (s.ticksOf i) (fun t => VKept s t ∧ ∃ v, ModifyResult s i t v (shifted n v s.cpu.p.c).1
      ({ s.regs with c := (shifted n v s.cpu.p.c).2 }.withNZ (shifted n v s.cpu.p.c).1)) :=
  runs_rmw (r := fun v => (shifted n v s.cpu.p.c).1) (g := shiftedWith n s.cpu.p.c) hq hcls hop hready hu hl
    (fun v u hm hc => by rw [hf v u hm, hc]; exact ⟨rfl, rfl, rfl⟩) fun _ _ _ => rfl

/-- Settles O30: each operation on memory reads the byte, writes it back and writes the result. -/
theorem memoryModify : Obligations.MemoryModify := by
  intro i s hready hcls
  obtain ⟨hr, hu⟩ := State.readyFor_iff.mp hready
  obtain ⟨hidx, hl⟩ := State.mayUse_sources hu
  have hnil := s.mayUse_nil
  have hacc : i.mode ≠ .acc := fun h => absurd (h ▸ (rmwClass_ticks hcls).1) (by decide)
  have hq : sequenceOf i = mnemSequence i.mnem i.mode := rfl
  have hshift : ∀ {x y : Sequence}, (if i.mode = .acc then x else y) = y := if_neg hacc
  generalize i.mnem = n at hl hq ⊢
  refine ⟨fun hi => ?_, ?_, ?_⟩
  · simp only [List.mem_cons, List.not_mem_nil, or_false] at hi
    rcases hi with rfl | rfl | rfl | rfl
    · exact runs_shift (hq.trans hshift) hcls modifyAsl_spec hr hidx hnil fun v u _ =>
        congrArg (shiftWith · u) (aslByte_eq_shifted v u.cpu.p.c)
    · exact runs_shift (hq.trans hshift) hcls modifyLsr_spec hr hidx hnil fun v u _ =>
        congrArg (shiftWith · u) (lsrByte_eq_shifted v u.cpu.p.c)
    · exact runs_shift (hq.trans hshift) hcls modifyRol_spec hr hidx hl fun v u hm =>
        (rotateWith_eq hm _).trans (congrArg (shiftWith · u) (rolByte_eq_shifted v u.cpu.p.c))
    · exact runs_shift (hq.trans hshift) hcls modifyRor_spec hr hidx hl fun v u hm =>
        (rotateWith_eq hm _).trans (congrArg (shiftWith · u) (rorByte_eq_shifted v u.cpu.p.c))
  · rintro rfl
    exact runs_rmw (r := (· + 1)) (g := fun v r => r.withNZ (v + 1)) hq hcls modifyInc_spec hr hidx hnil
      (fun _ _ _ _ => ⟨rfl, rfl, rfl⟩) fun _ _ _ => rfl
  · rintro rfl
    exact runs_rmw (r := (· - 1)) (g := fun v r => r.withNZ (v - 1)) hq hcls modifyDec_spec hr hidx hnil
      (fun _ _ _ _ => ⟨rfl, rfl, rfl⟩) fun _ _ _ => rfl

end Sys2Proof.Machine

namespace Sys2Proof.Machine

/-! ### Sequences that count their cycles (R150, R155) -/

/-- `t` comes `n` ticks and `k` bus accesses after `s`, with no fault and no interference from outside. The registers,
memory, the latches and the interrupt requests may differ. -/
structure Went (s t : State) (n k : Nat) : Prop where
  params : t.params = s.params
  agenda : t.agenda = s.agenda
  hold : t.busHold = s.busHold
  written : WrittenKept s t
  sound : s.sound → t.sound
  tick : t.tick = s.tick + n
  bus : t.bus.length = s.bus.length + k

theorem Went.trans {s t u : State} {m n j k : Nat} (h : Went s t m j) (g : Went t u n k) : Went s u (m + n) (j + k) where
  params := g.params.trans h.params
  agenda := g.agenda.trans h.agenda
  hold := g.hold.trans h.hold
  written := h.written.trans g.written
  sound := fun hs => g.sound (h.sound hs)
  tick := by rw [g.tick, h.tick, Nat.add_assoc]
  bus := by rw [g.bus, h.bus, Nat.add_assoc]

theorem Went.mayUse {s t : State} {n k : Nat} (h : Went s t n k) {l : List Source} (hu : s.mayUse l = true) :
    t.mayUse l = true := h.written.mayUse h.params hu

theorem Dev.went {s t : State} (h : Dev s t) : Went s t 0 0 :=
  ⟨h.params, h.agenda, h.busHold, h.written, h.sound, h.tick, by rw [h.bus]; rfl⟩

theorem Went.logBus (s : State) (e : BusAccess) : Went s (s.logBus e) 0 1 :=
  ⟨rfl, rfl, rfl, WrittenKept.refl s, id, rfl, List.length_append⟩

theorem Went.poke (s : State) (a : Word) (v : Byte) : Went s (s.poke a v) 0 0 :=
  ⟨rfl, rfl, rfl, WrittenKept.refl s, id, rfl, rfl⟩

theorem Went.endTick (s : State) : Went s (s.endTick .executed) 1 0 :=
  ⟨rfl, rfl, rfl, WrittenKept.refl s, id, rfl, rfl⟩

theorem Passed.went {s t : State} {k : Nat} (h : Passed s t k) : Went s t k k :=
  ⟨h.params, h.agenda, h.hold, h.written, h.sound, h.tick, h.bus⟩

theorem Went.calm {s t : State} {n k m : Nat} (h : Went s t n k) (hc : Calm (m + n) s) : Calm m t := by
  have hs := h.sound ⟨hc.running, hc.lines⟩
  refine ⟨hs.1, hs.2, h.hold.trans hc.hold, ?_, by simp only [State.plainPages, h.params]; exact hc.pages⟩
  have hq := hc.quiet
  simp only [State.quietFor, h.agenda, h.tick, List.all_eq_true, decide_eq_true_eq] at hq ⊢
  intro d hd
  have := hq d hd
  omega

/-- What the act of a micro-op makes of its sequence: it goes on to the next cycle, it ends, or it does one of them. -/
inductive Turn where
  | next
  | last
  | either

def Turn.Is (r : Turn) (seq : Seq) (cyc : Nat) (l : Latches) : Prop :=
  match r with
  | .next => l.seq = seq ∧ l.cyc = cyc + 1
  | .last => l.seq = .boundary
  | .either => (l.seq = seq ∧ l.cyc = cyc + 1) ∨ l.seq = .boundary

/-- An act that takes no time, makes no access, does not fault, and turns the sequence as `r` says. -/
def Turned (r : Turn) (s t : State) : Prop := Went s t 0 0 ∧ r.Is s.sq.seq s.sq.cyc t.sq

/-- A micro-op whose acts, where the registers `l` may be used, turn the sequence as `r` says. -/
def MicroOp.Turns (l : List Source) (r : Turn) : MicroOp → Prop
  | .read _ act => ∀ d u, State.mayUse u l = true → Turned r u (act d u)
  | .fetch _ act => ∀ d u, State.mayUse u l = true → Turned r u (act d u)
  | .write pre _ _ post => (∀ u, State.mayUse u l = true → Went u (pre u) 0 0 ∧ (pre u).sq = u.sq) ∧
    ∀ u, State.mayUse u l = true → Turned r u (post u)

/-- The act after a bus access. -/
theorem Turned.after {r : Turn} {s w t : State} (h : Turned r w t) (hw : Went s w 0 1) (hseq : w.sq.seq = s.sq.seq)
    (hcyc : w.sq.cyc = s.sq.cyc) : Went s t 0 1 ∧ r.Is s.sq.seq s.sq.cyc t.sq := by
  refine ⟨hw.trans h.1, ?_⟩
  rw [← hseq, ← hcyc]
  exact h.2

/-- A micro-op that executes makes one bus access and turns the sequence. -/
theorem MicroOp.Turns.perform {l : List Source} {r : Turn} {m : MicroOp} (h : m.Turns l r) (f : Feed) {u : State}
    (hs : u.sound) (hu : u.mayUse l = true) :
    Went u (m.perform f u) 0 1 ∧ r.Is u.sq.seq u.sq.cyc (m.perform f u).sq := by
  cases m with
  | read addr act =>
    obtain ⟨w, hw, hd, -⟩ := u.busRead_dev addr
    have hgo := hd.went.trans (Went.logBus w (.read addr (u.busRead addr).1))
    rw [MicroOp.perform_read, hw, State.unlessStopped_eq (hgo.sound hs).1]
    exact (h _ _ (hgo.mayUse hu)).after hgo (congrArg Latches.seq hd.sq) (congrArg Latches.cyc hd.sq)
  | fetch slot act =>
    obtain ⟨w, hw, hd, -⟩ := u.busRead_dev u.cpu.pc
    have hgo := hd.went.trans (Went.logBus w (.read u.cpu.pc (u.busRead u.cpu.pc).1))
    rw [MicroOp.perform_fetch, hw, State.unlessStopped_eq (hgo.sound hs).1]
    generalize f.pick slot (u.busRead u.cpu.pc).1 = v
    generalize hx : w.logBus (.read u.cpu.pc (u.busRead u.cpu.pc).1) = x at hgo ⊢
    have hseq : x.sq.seq = u.sq.seq := hx ▸ congrArg Latches.seq hd.sq
    have hcyc : x.sq.cyc = u.sq.cyc := hx ▸ congrArg Latches.cyc hd.sq
    have hkeep : Went x (x.incPC.keepOperand slot v) 0 0 := by
      cases slot <;> exact ⟨rfl, rfl, rfl, WrittenKept.refl x, id, rfl, rfl⟩
    have hturn := h v _ ((hgo.trans hkeep).mayUse hu)
    cases slot <;> exact hturn.after (hgo.trans hkeep) hseq hcyc
  | write pre addr value post =>
    obtain ⟨hpre, hpost⟩ := h
    obtain ⟨hp, hpsq⟩ := hpre u hu
    obtain ⟨w, hw, hd⟩ := (pre u).busWrite_dev (addr (pre u)) (value (pre u))
    have hstore : Went (pre u) w 0 0 ∧ w.sq = (pre u).sq := by
      rcases hd with ⟨-, rfl⟩ | ⟨-, hd⟩
      · exact ⟨Went.poke _ _ _, rfl⟩
      · exact ⟨hd.went, hd.sq⟩
    have hgo := (hp.trans hstore.1).trans (Went.logBus w (.write (addr (pre u)) (value (pre u))))
    have hsq := hstore.2.trans hpsq
    rw [MicroOp.perform_write, State.unlessStopped_eq (hp.sound hs).1, hw, State.unlessStopped_eq (hgo.sound hs).1]
    exact (hpost _ (hgo.mayUse hu)).after hgo (congrArg Latches.seq hsq) (congrArg Latches.cyc hsq)

/-- A calm tick of a sequence: the run goes on where the machine has not settled. -/
theorem runSeq_turn (f : Feed) (q : Sequence) (n : Nat) {l : List Source} {r : Turn} {s : State} (hc : Calm 0 s)
    (hq : s.sq.seq ≠ .boundary) (hl : s.mayUse l = true) (h : ∀ u : State, u.sq = s.sq → (q.micro u).Turns l r) :
    ∃ t, Went s t 1 1 ∧ t.half = .phi1 ∧ r.Is s.sq.seq s.sq.cyc t.sq ∧
      runSeq f q (n + 1) s = if t.settled then t else runSeq f q n t := by
  obtain ⟨u, hd, he⟩ := runSeq_calm f q n hc hq
  have hsu : Went s u 0 0 := ⟨hd.params, hd.agenda, hd.busHold, hd.written, hd.sound, hd.tick, congrArg List.length hd.bus⟩
  have hsq : u.sq = s.sq := hd.sq
  obtain ⟨hgo, hr⟩ := (h u hsq).perform f (hsu.sound ⟨hc.running, hc.lines⟩) (hsu.mayUse hl)
  rw [hsq] at hr
  rw [State.executeTick_quiet ((hsu.trans hgo).calm (m := 0) hc).quiet] at he
  exact ⟨_, (hsu.trans hgo).trans (Went.endTick _), rfl, hr, he⟩

/-- A sequence of `n` cycles (or, where its turns are `either`, of `n` at most). -/
structure Sequence.Cycles (q : Sequence) (l : List Source) (r : Turn) (n : Nat) : Prop where
  before : ∀ u : State, 2 ≤ u.sq.cyc → u.sq.cyc < n → (q.micro u).Turns l r
  last : ∀ u : State, u.sq.cyc = n → (q.micro u).Turns l .last

theorem Turn.Is.next_or_last {r : Turn} {seq : Seq} {cyc : Nat} {l : Latches} (h : r.Is seq cyc l) :
    (l.seq = seq ∧ l.cyc = cyc + 1) ∨ (l.seq = .boundary ∧ r ≠ .next) := by
  cases r with
  | next => exact .inl h
  | last => exact .inr ⟨h, nofun⟩
  | either => exact h.imp_right fun h => ⟨h, nofun⟩

/-- The rest of such a sequence, `k` cycles before its last, runs to its end. -/
theorem Sequence.Cycles.runSeq {q : Sequence} {l : List Source} {r : Turn} {n : Nat} (h : q.Cycles l r n) (f : Feed)
    (m k : Nat) {s : State} (hc : Calm k s) (hq : s.sq.seq ≠ .boundary) (hl : s.mayUse l = true) (h2 : 2 ≤ s.sq.cyc)
    (hn : s.sq.cyc + k = n) : ∃ t j, Sys2Proof.Machine.runSeq f q (m + k + 1) s = t ∧ Went s t j j ∧ t.half = .phi1 ∧
      t.sq.seq = .boundary ∧ j ≤ k + 1 ∧ (r = .next → j = k + 1) := by
  induction k generalizing s with
  | zero =>
    obtain ⟨t, hgo, hhalf, hend, he⟩ := runSeq_turn f q m hc hq hl fun u hu => h.last u (by rw [hu]; omega)
    exact ⟨t, 1, by rw [Nat.add_zero, he, if_pos (State.settled_of_boundary hend)], hgo, hhalf, hend, by omega, fun _ => rfl⟩
  | succ k ih =>
    obtain ⟨t, hgo, hhalf, hturn, he⟩ := runSeq_turn f q (m + k + 1) (hc.mono (by omega)) hq hl
      fun u hu => h.before u (by rw [hu]; omega) (by rw [hu]; omega)
    have hct : Calm k t := hgo.calm hc
    rcases hturn.next_or_last with ⟨hseq, hcyc⟩ | ⟨hend, hr⟩
    · have hqt : t.sq.seq ≠ .boundary := by rw [hseq]; exact hq
      obtain ⟨x, j, hx, hgx, hhx, hbx, hj, hrj⟩ := ih hct hqt (hgo.mayUse hl) (by omega) (by omega)
      refine ⟨x, 1 + j, ?_, hgo.trans hgx, hhx, hbx, by omega, fun h => by rw [hrj h]; omega⟩
      rw [← hx, ← Nat.add_assoc, he, if_neg (by simp [State.not_settled hct.running hqt])]
    · exact ⟨t, 1, by rw [← Nat.add_assoc, he, if_pos (State.settled_of_boundary hend)], hgo, hhalf, hend, by omega,
        fun h => absurd h hr⟩

/-- An instruction of such a sequence completes in its `n` ticks (or fewer). -/
theorem Sequence.Cycles.completes {i : Instr} {l : List Source} {r : Turn} {n : Nat} (h : (sequenceOf i).Cycles l r n)
    {s : State} (hready : s.ready = true) (hl : s.mayUse l = true) (h2 : 2 ≤ n) (h8 : n ≤ 8) :
    ∃ t j, exec i s = .next t ∧ Completed s t j ∧ 0 < j ∧ (r = .next → j = n) := by
  have hc := State.ready_calm hready
  obtain ⟨u, he, hk, -, hsq⟩ := runInstr_start i (sequenceOf i) hc
  have hcu : Calm (n - 2) u := (hk.calm (n := 7) hc.clearLogs).mono (by omega)
  obtain ⟨t, j, ht, hgo, hhalf, hb, hj, hr⟩ := h.runSeq (Feed.ofInstr i) (8 - n) (n - 2) hcu (by rw [hsq]; nofun)
    (hk.mayUse (s := s.clearLogs) hl) (by rw [hsq]) (by rw [hsq]; show 2 + _ = _; omega)
  have hfuel : 8 - n + (n - 2) + 1 = 7 := by omega
  rw [hfuel] at ht
  have hall : Went s.clearLogs t (1 + j) (1 + j) := hk.toPassed.went.trans hgo
  obtain ⟨hstop, hlines⟩ := hall.sound ⟨hc.running, hc.lines⟩
  refine ⟨t, 1 + j, ?_, ?_, by omega, fun h => by rw [hr h]; omega⟩
  · rw [exec_eq, he, ht]
    exact State.outcome_eq_next.mpr ⟨rfl, hstop⟩
  · exact ⟨hb, hall.tick, hhalf, hstop, hlines, hall.hold.trans hc.hold, hall.params, hall.agenda, by
      rw [hall.bus]; exact Nat.zero_add _⟩

/-! ### The cycles of each sequence -/

theorem OpFrame.went {s t : State} (h : OpFrame s t) : Went s t 0 0 :=
  ⟨h.params, h.agenda, h.hold, h.written, h.sound, h.tick, by rw [h.bus]; rfl⟩

/-- An act on the latches, and on registers that it does not newly leave unwritten. -/
theorem Went.act (s : State) (cpu : Cpu) (l : Latches) (hw : cpu.written = s.cpu.written) :
    Went s { s with cpu := cpu, sq := l } 0 0 :=
  ⟨rfl, rfl, rfl, fun r hr => show cpu.written.has r = true by rw [hw]; exact hr, id, rfl, rfl⟩

/-- Such an act that goes on to the next cycle. -/
theorem Turned.act (s : State) (cpu : Cpu) (l : Latches) (hw : cpu.written = s.cpu.written) (hseq : l.seq = s.sq.seq)
    (hcyc : l.cyc = s.sq.cyc + 1) : Turned .next s { s with cpu := cpu, sq := l } :=
  ⟨Went.act s cpu l hw, hseq, hcyc⟩

/-- An act that ends the sequence after an operation. -/
theorem Went.finish {s t : State} (h : Went s t 0 0) : Turned .last s t.finish :=
  ⟨⟨h.params, h.agenda, h.hold, h.written, h.sound, h.tick, h.bus⟩, rfl⟩

/-- An act that goes on to the next cycle after an operation. -/
theorem Went.nextCycle {s t : State} (h : Went s t 0 0) (hsq : t.sq = s.sq) : Turned .next s t.nextCycle :=
  ⟨⟨h.params, h.agenda, h.hold, h.written, h.sound, h.tick, h.bus⟩, (congrArg Latches.seq hsq :),
    (congrArg (·.cyc + 1) hsq :)⟩

theorem Turned.nextCycle (s : State) : Turned .next s s.nextCycle := Turned.act s s.cpu _ rfl rfl rfl

theorem Turned.finish (s : State) : Turned .last s s.finish := (Went.act s s.cpu s.sq rfl).finish

theorem Turned.setPC_finish (s : State) (pc : Word) : Turned .last s (s.setPC pc).finish :=
  (Went.act s (s.setPC pc).cpu s.sq rfl).finish

/-- A push whose value is ready, and which goes on with `post`. -/
theorem MicroOp.push_turns {l : List Source} {r : Turn} {pre post : State → State} {value : State → Byte}
    (hpre : ∀ u, State.mayUse u l = true → Dev u (pre u)) (h : ∀ u, Turned r u (post u.decS)) :
    (MicroOp.push pre value post).Turns l r :=
  ⟨fun u hu => ⟨(hpre u hu).went, (hpre u hu).sq⟩, fun u _ => h u⟩

theorem fixEA_turned (s : State) : Turned .next s s.fixEA.nextCycle := by
  unfold State.fixEA
  split
  · exact Turned.act s s.cpu _ rfl rfl rfl
  · exact Turned.nextCycle s

theorem addressCycle_turns {m : Mode} {l : List Source}
    (hl : ∀ u : State, u.mayUse l = true → u.mayUse (indexSources m) = true) (s : State) (c : Nat) : (addressCycle m s c).Turns l .next := by
  unfold addressCycle
  split
  case h_6 | h_7 | h_12 | h_13 | h_14 | h_18 =>
    intro _ t ht
    simp only [State.using_eq (hl t ht)]
    exact Turned.act t t.cpu _ rfl rfl rfl
  case h_19 => exact fun _ t _ => fixEA_turned t
  all_goals exact fun _ t _ => Turned.act t t.cpu _ rfl rfl rfl

section
variable {l : List Source}

theorem cycles_implied {op : State → State} (h : ∀ u, State.mayUse u l = true → Went u (op u) 0 0) :
    (Sequence.implied op).Cycles l .next 2 :=
  ⟨fun _ _ _ => by omega, fun _ _ _ t ht => (h t ht).finish⟩

theorem cycles_write {m : Mode} {uses : List Source} {value : State → Byte}
    (hm : ∀ u : State, u.mayUse l = true → u.mayUse (indexSources m) = true)
    (h : ∀ u : State, u.mayUse l = true → u.mayUse uses = true) :
    (Sequence.write m uses value).Cycles l .next (accessCycle m true) where
  before u _ hu := by
    rw [follows_write m uses value u hu]
    exact addressCycle_turns hm u _
  last u hu := by
    have hmicro : (Sequence.write m uses value).micro u =
        .write (fun t => t.uses uses) (fun t => t.sq.ea) value State.finish := if_neg (by omega)
    rw [hmicro]
    refine ⟨fun t ht => ?_, fun t _ => Turned.finish t⟩
    show Went t (t.uses uses) 0 0 ∧ (t.uses uses).sq = t.sq
    rw [State.uses_eq (h t ht)]
    exact ⟨(Dev.refl t).went, rfl⟩

theorem cycles_sh {m : Mode} {prep : State → State} {src : State → Byte}
    (hm : ∀ u : State, u.mayUse l = true → u.mayUse (indexSources m) = true)
    (h : ∀ u, State.mayUse u l = true → Went u (prep u) 0 0 ∧ (prep u).sq = u.sq) :
    (Sequence.sh m prep src).Cycles l .next (accessCycle m true) where
  before u _ hu := by
    rw [follows_sh m prep src u hu]
    exact addressCycle_turns hm u _
  last u hu := by
    have hmicro : (Sequence.sh m prep src).micro u = .write prep (shAddr src) (shValue src) State.finish := if_neg (by omega)
    rw [hmicro]
    exact ⟨h, fun t _ => Turned.finish t⟩

theorem cycles_rmw {m : Mode} {f : Byte → State → Byte × State}
    (hm : ∀ u : State, u.mayUse l = true → u.mayUse (indexSources m) = true)
    (h : ∀ v u, State.mayUse u l = true → OpFrame u (f v u).2) :
    (Sequence.rmw m f).Cycles l .next (accessCycle m true + 2) where
  before u h2 hu := by
    have hmicro : (Sequence.rmw m f).micro u = rmwCycle m f u u.sq.cyc := rfl
    rw [hmicro, rmwCycle]
    split
    · exact addressCycle_turns hm u _
    split
    · exact fun d t _ => Turned.act t t.cpu _ rfl rfl rfl
    rw [if_pos (by omega)]
    refine ⟨fun t _ => ⟨(Dev.refl t).went, rfl⟩, fun t ht => ?_⟩
    have hf := h t.sq.data t ht
    exact ⟨⟨hf.params, hf.agenda, hf.hold, hf.written, hf.sound, hf.tick, congrArg List.length hf.bus⟩,
      (congrArg Latches.seq hf.sq :), (congrArg (·.cyc + 1) hf.sq :)⟩
  last u hu := by
    have hmicro : (Sequence.rmw m f).micro u = rmwCycle m f u u.sq.cyc := rfl
    rw [hmicro, rmwCycle, if_neg (by omega), if_neg (by omega), if_neg (by omega)]
    exact ⟨fun t _ => ⟨(Dev.refl t).went, rfl⟩, fun t _ => Turned.finish t⟩

theorem cycles_push {pre : State → State} {value : State → Byte} (h : ∀ u, State.mayUse u l = true → Dev u (pre u)) :
    (Sequence.push pre value).Cycles l .next 3 where
  before u h2 hu := by
    have hc : u.sq.cyc = 2 := by omega
    simp only [Sequence.micro, hc]
    exact fun _ t _ => Turned.nextCycle t
  last u hu := by
    simp only [Sequence.micro, hu]
    exact MicroOp.push_turns h fun t => (Went.act t t.decS.cpu t.sq rfl).finish

/-- The cycles of a sequence, one by one. -/
theorem Sequence.Cycles.of_cycles {q : Sequence} {r : Turn} {n : Nat} {cycle : State → Nat → MicroOp}
    (hq : ∀ u, q.micro u = cycle u u.sq.cyc) (hb : ∀ u c, 2 ≤ c → c < n → (cycle u c).Turns l r)
    (hl : ∀ u, (cycle u n).Turns l .last) : q.Cycles l r n where
  before u h2 hu := by rw [hq]; exact hb u _ h2 hu
  last u hu := by rw [hq, hu]; exact hl u

theorem cycles_pull {act : Byte → State → State} (h : ∀ d u, Went u (act d u) 0 0) : (Sequence.pull act).Cycles l .next 4 :=
  .of_cycles (cycle := pullCycle act) (fun _ => rfl)
    (fun u c h2 hc => by
      obtain rfl | rfl : c = 2 ∨ c = 3 := by omega
      · exact fun _ t _ => Turned.nextCycle t
      · exact fun _ t _ => Turned.act t t.incS.cpu _ rfl rfl rfl)
    fun _ d t _ => (h d t).finish

theorem cycles_jmpAbs : Sequence.jmpAbs.Cycles l .next 3 :=
  .of_cycles (cycle := jmpAbsCycle) (fun _ => rfl)
    (fun u c h2 hc => by
      obtain rfl : c = 2 := by omega
      exact fun _ t _ => Turned.act t t.cpu _ rfl rfl rfl)
    fun _ d t _ => Turned.setPC_finish t _

theorem cycles_jmpInd : Sequence.jmpInd.Cycles l .next 5 :=
  .of_cycles (cycle := jmpIndCycle) (fun _ => rfl)
    (fun u c h2 hc => by
      obtain rfl | rfl | rfl : c = 2 ∨ c = 3 ∨ c = 4 := by omega
      all_goals exact fun _ t _ => Turned.act t t.cpu _ rfl rfl rfl)
    fun _ d t _ => Turned.setPC_finish t _

theorem cycles_jsr : Sequence.jsr.Cycles l .next 6 :=
  .of_cycles (cycle := jsrCycle) (fun _ => rfl)
    (fun u c h2 hc => by
      have hpush : ∀ value, (MicroOp.push id value State.nextCycle).Turns l .next := fun _ =>
        MicroOp.push_turns (fun t _ => Dev.refl t) fun t => Turned.act t t.decS.cpu _ rfl rfl rfl
      obtain rfl | rfl | rfl | rfl : c = 2 ∨ c = 3 ∨ c = 4 ∨ c = 5 := by omega
      · exact fun _ t _ => Turned.act t t.cpu _ rfl rfl rfl
      · exact fun _ t _ => Turned.nextCycle t
      · exact hpush _
      · exact hpush _)
    fun _ d t _ => Turned.setPC_finish t _

theorem cycles_rts : Sequence.rts.Cycles l .next 6 :=
  .of_cycles (cycle := rtsCycle) (fun _ => rfl)
    (fun u c h2 hc => by
      obtain rfl | rfl | rfl | rfl : c = 2 ∨ c = 3 ∨ c = 4 ∨ c = 5 := by omega
      · exact fun _ t _ => Turned.nextCycle t
      · exact fun _ t _ => Turned.act t t.incS.cpu _ rfl rfl rfl
      · exact fun _ t _ => Turned.act t t.incS.cpu _ rfl rfl rfl
      · exact fun _ t _ => Turned.act t (t.setPC _).cpu _ rfl rfl rfl)
    fun _ _ t _ => (Went.act t t.incPC.cpu t.sq rfl).finish

theorem cycles_rti : Sequence.rti.Cycles l .next 6 :=
  .of_cycles (cycle := returnFromInterrupt) (fun _ => rfl)
    (fun u c h2 hc => by
      obtain rfl | rfl | rfl | rfl : c = 2 ∨ c = 3 ∨ c = 4 ∨ c = 5 := by omega
      · exact fun _ t _ => Turned.nextCycle t
      · exact fun _ t _ => Turned.act t t.incS.cpu _ rfl rfl rfl
      · exact fun d t _ => ((OpFrame.unpack t d).went.trans (Went.act _ (t.unpack d).incS.cpu (t.unpack d).sq rfl)).nextCycle
          (OpFrame.unpack t d).sq
      · exact fun _ t _ => Turned.act t t.incS.cpu _ rfl rfl rfl)
    fun _ d t _ => Turned.setPC_finish t _

theorem cycles_jam : Sequence.jam.Cycles l .next 2 :=
  ⟨fun _ _ _ => by omega, fun _ _ _ t _ => Turned.setPC_finish t _⟩

/-- A vector that an NMI replaces takes no time (R485). -/
theorem selectVector_turned (s : State) : Turned .next s s.selectVector.nextCycle := by
  unfold State.selectVector
  split
  · exact ⟨⟨rfl, rfl, rfl, fun _ h => h, id, rfl, rfl⟩, rfl, rfl⟩
  · exact Turned.nextCycle s

theorem cycles_brk (hl : ∀ u : State, u.mayUse l = true → u.mayUse statusSources = true) : Sequence.brk.Cycles l .next 7 :=
  .of_cycles (cycle := brkCycle) (fun _ => rfl)
    (fun u c h2 hc => by
      obtain rfl | rfl | rfl | rfl | rfl : c = 2 ∨ c = 3 ∨ c = 4 ∨ c = 5 ∨ c = 6 := by omega
      · exact fun _ t _ => Turned.act t t.incPC.cpu _ rfl rfl rfl
      · exact MicroOp.push_turns (fun t _ => Dev.refl t) fun t => Turned.act t t.decS.cpu _ rfl rfl rfl
      · exact MicroOp.push_turns (post := fun t => t.selectVector.nextCycle) (fun t _ => Dev.refl t) fun t => by
          have hdec := Went.act t t.decS.cpu t.sq rfl
          obtain ⟨hgo, hseq, hcyc⟩ := selectVector_turned t.decS
          exact ⟨hdec.trans hgo, hseq, hcyc⟩
      · exact MicroOp.push_turns (fun t ht => State.packAccess_dev (hl t ht)) fun t => Turned.act t t.decS.cpu _ rfl rfl rfl
      · exact fun d t _ => ⟨(Went.act t t.cpu { t.sq with data := d } rfl).trans
          ((OpFrame.setI (t.setDATA d) true).went.trans (Went.act _ _ _ rfl)), rfl, rfl⟩)
    fun _ d t _ => ⟨Went.act t (t.setPC _).cpu _ rfl, rfl⟩

/-- A branch ends in its second cycle, its third or its fourth (R340). -/
theorem cycles_branch {cond : State → Bool × State} (h : ∀ u, State.mayUse u l = true → Dev u (cond u).2) :
    (Sequence.branch cond).Cycles l .either 4 :=
  .of_cycles (cycle := branchCycle cond) (fun _ => rfl)
    (fun u c h2 hc => by
      obtain rfl | rfl : c = 2 ∨ c = 3 := by omega
      · intro v t ht
        have hgo := Went.act t t.cpu { t.sq with off := v } rfl
        have hcond := h _ (hgo.mayUse ht)
        have hall := hgo.trans hcond.went
        show Turned .either t (if _ then _ else _)
        split
        · exact ⟨hall.trans (Turned.nextCycle _).1,
            .inl ⟨(congrArg Latches.seq hcond.sq :), (congrArg (·.cyc + 1) hcond.sq :)⟩⟩
        · exact ⟨hall.trans (Turned.finish _).1, .inr rfl⟩
      · intro v t _
        have hgo := fun target cross pc => Went.act t (t.setPC pc).cpu { t.sq with ea := target, cross := cross } rfl
        show Turned .either t (if _ then _ else _)
        split
        · exact ⟨(hgo _ _ _).trans (Turned.nextCycle _).1, .inl ⟨rfl, rfl⟩⟩
        · exact ⟨(hgo _ _ _).trans (Turned.finish _).1, .inr rfl⟩)
    fun _ d t _ => Turned.setPC_finish t _

end

/-- The cycles of a sequence: the fewest where they vary. -/
def Sequence.length : Sequence → Nat
  | .implied _ | .jam | .branch _ => 2
  | .read m _ => accessCycle m false
  | .write m _ _ | .sh m _ _ => accessCycle m true
  | .rmw m _ => accessCycle m true + 2
  | .push _ _ | .jmpAbs => 3
  | .pull _ => 4
  | .jmpInd => 5
  | .jsr | .rts | .rti => 6
  | .brk | .entry _ => 7

/-- The table's cycle count is the sequence's (R690). -/
theorem cycles_eq_length (i : Instr) : i.row.cycles = (sequenceOf i).length := by
  cases i <;> rfl

/-- Where the cycles vary: with the index in a read, with the flag and the target in a branch. -/
def Sequence.varies : Sequence → Bool
  | .read _ _ | .branch _ | .entry _ => true
  | _ => false

theorem sequenceOf_varies (i : Instr) : (sequenceOf i).varies = (i.row.cls == .read || i.mode == .rel) := by
  cases i <;> rfl

/-- CLI and SEI copy I to IPREV and change I. -/
theorem changingI_went {op : State → State} (h : ∀ u, OpFrame u (op u)) (u : State) : Went u (changingI u op) 0 0 := by
  rw [changingI_eq]
  exact (Went.act u u.cpu u.copyIPrev.sq rfl).trans (h u.copyIPrev).went

theorem implied_went {n : Mnem} {m : Mode} {op : State → State} (h : mnemSequence n m = .implied op) {u : State}
    (hu : u.mayUse ((if m = .acc then [.a] else []) ++ mnemSources n) = true) : Went u (op u) 0 0 := by
  by_cases hcli : n = .cli
  · subst hcli
    obtain rfl : opCli = op := Sequence.implied.inj h
    exact changingI_went (fun u => OpFrame.setI u false) u
  by_cases hsei : n = .sei
  · subst hsei
    obtain rfl : opSei = op := Sequence.implied.inj h
    exact changingI_went (fun u => OpFrame.setI u true) u
  exact ((impliedOp_spec h hcli hsei).frame u hu).went

theorem push_went {n : Mnem} {m : Mode} {pre : State → State} {value : State → Byte} (h : mnemSequence n m = .push pre value)
    {u : State} (hu : u.mayUse (mnemSources n) = true) : Dev u (pre u) := by
  cases n <;> simp only [mnemSequence, reduceCtorEq, Sequence.push.injEq] at h
  case php =>
    obtain ⟨rfl, -⟩ := h
    exact State.packAccess_dev hu
  case pha =>
    obtain ⟨rfl, -⟩ := h
    have hpre : preparePha u = u := State.uses_eq (l := [.a]) hu
    rw [hpre]
    exact Dev.refl u
  all_goals split at h <;> simp only [reduceCtorEq] at h

theorem pull_went {n : Mnem} {m : Mode} {act : Byte → State → State} (h : mnemSequence n m = .pull act) (d : Byte)
    (u : State) : Went u (act d u) 0 0 := by
  cases n <;> simp only [mnemSequence, reduceCtorEq, Sequence.pull.injEq] at h
  case plp =>
    subst h
    exact changingI_went (fun u => OpFrame.unpack u d) u
  case pla =>
    subst h
    exact (OpFrame.pullPla u d).went
  all_goals split at h <;> simp only [reduceCtorEq] at h

theorem sh_went {n : Mnem} {m k : Mode} {prep : State → State} {src : State → Byte} (h : mnemSequence n m = .sh k prep src)
    {u : State} (hu : u.mayUse (mnemSources n) = true) : Went u (prep u) 0 0 ∧ (prep u).sq = u.sq := by
  have huses : ∀ {l}, u.mayUse l = true → Went u (u.uses l) 0 0 ∧ (u.uses l).sq = u.sq := fun hl => by
    rw [State.uses_eq hl]
    exact ⟨(Dev.refl u).went, rfl⟩
  cases n <;> simp only [mnemSequence, reduceCtorEq, Sequence.sh.injEq] at h
  case nop | jmp | asl | lsr | rol | ror => split at h <;> simp only [reduceCtorEq] at h
  case shs =>
    obtain ⟨-, rfl, -⟩ := h
    have hprep : prepareShs u = u.setS (u.cpu.a &&& u.cpu.x) := State.using_eq (l := [.a, .x]) hu _
    rw [hprep]
    exact ⟨Went.act u (u.setS _).cpu u.sq rfl, rfl⟩
  all_goals
    obtain ⟨-, rfl, -⟩ := h
    exact huses hu

theorem cond_dev {n : Mnem} {m : Mode} {cond : State → Bool × State} (h : mnemSequence n m = .branch cond)
    {u : State} (hu : u.mayUse (mnemSources n) = true) : Dev u (cond u).2 := by
  have huses : ∀ {u : State} {l}, u.mayUse l = true → Dev u (u.uses l) := fun hl => by
    rw [State.uses_eq hl]
    exact Dev.refl _
  cases n <;> simp only [mnemSequence, reduceCtorEq, Sequence.branch.injEq] at h
  case nop | jmp | asl | lsr | rol | ror => split at h <;> simp only [reduceCtorEq] at h
  case bvc | bvs =>
    subst h
    exact (Dev.onVAccess u).trans (huses ((Dev.onVAccess u).mayUse hu))
  all_goals
    subst h
    exact huses hu

/-- An instruction's sequence takes its cycles where it may use what the instruction reads. -/
theorem sequenceOf_cycles (i : Instr) (hv : (sequenceOf i).varies = false) :
    (sequenceOf i).Cycles (usesOf i) .next i.row.cycles := by
  have hindex : ∀ u : State, u.mayUse (usesOf i) = true → u.mayUse (indexSources (sequenceOf i).mode) = true := by
    rw [indexSources_sequenceOf]
    exact fun u hu => (State.mayUse_sources hu).1
  have hmnem : ∀ u : State, u.mayUse (usesOf i) = true → u.mayUse (mnemSources i.mnem) = true := fun u hu =>
    (State.mayUse_sources hu).2
  have hop := sequenceOf_operates i
  have hq : mnemSequence i.mnem i.mode = sequenceOf i := rfl
  rw [cycles_eq_length]
  generalize sequenceOf i = q at *
  cases q with
  | implied op =>
    refine cycles_implied fun u hu => implied_went hq ?_
    simp only [usesOf, State.mayUse_append, Bool.and_eq_true] at hu ⊢
    exact ⟨hu.1.2, hu.2⟩
  | write m uses value => exact cycles_write hindex fun u hu => hop ▸ hmnem u hu
  | rmw m f => exact cycles_rmw hindex fun v u hu => (modifyOp_spec hq v).2.frame u (hmnem u hu)
  | sh m prep src => exact cycles_sh hindex fun u hu => sh_went hq (hmnem u hu)
  | push pre value => exact cycles_push fun u hu => push_went hq (hmnem u hu)
  | pull act => exact cycles_pull (pull_went hq)
  | jmpAbs => exact cycles_jmpAbs
  | jmpInd => exact cycles_jmpInd
  | jsr => exact cycles_jsr
  | rts => exact cycles_rts
  | rti => exact cycles_rti
  | jam => exact cycles_jam
  | brk => exact cycles_brk fun u hu => hop ▸ hmnem u hu
  | read m rd | branch cond | entry k => exact absurd hv Bool.noConfusion

/-! ### Completion -/

theorem cycles_bounds (i : Instr) : 2 ≤ i.row.cycles ∧ i.row.cycles ≤ 8 := by
  have hall : ∀ j : Instr, (decide (2 ≤ j.row.cycles) && decide (j.row.cycles ≤ 8)) = true := by
    intro j
    cases j <;> rfl
  simpa using hall i

def Sequence.isRead : Sequence → Bool
  | .read _ _ => true
  | _ => false

theorem sequenceOf_isRead (i : Instr) : (sequenceOf i).isRead = (i.row.cls == .read) := by
  cases i <;> rfl

theorem sequenceOf_read {i : Instr} (h : i.row.cls = .read) : ∃ rd, sequenceOf i = .read i.mode rd := by
  have hread : (sequenceOf i).isRead = true := by rw [sequenceOf_isRead, h]; rfl
  have hq : mnemSequence i.mnem i.mode = sequenceOf i := rfl
  generalize sequenceOf i = q at hread hq
  cases q with
  | read m rd =>
    obtain ⟨rfl, -⟩ := readOp_spec hq 0
    exact ⟨rd, rfl⟩
  | _ => exact absurd hread Bool.noConfusion

def Sequence.isBranch : Sequence → Bool
  | .branch _ => true
  | _ => false

theorem sequenceOf_isBranch (i : Instr) : (sequenceOf i).isBranch = (i.mode == .rel) := by
  cases i <;> rfl

theorem sequenceOf_branch {i : Instr} (h : i.mode = .rel) : ∃ cond, sequenceOf i = .branch cond := by
  have hbranch : (sequenceOf i).isBranch = true := by rw [sequenceOf_isBranch, h]; rfl
  generalize sequenceOf i = q at hbranch
  cases q with
  | branch cond => exact ⟨cond, rfl⟩
  | _ => exact absurd hbranch Bool.noConfusion

/-- A read class instruction completes. -/
theorem read_completes {i : Instr} {s : State} (h : s.readyFor i = true) (hcls : i.row.cls = .read) :
    ∃ t, exec i s = .next t ∧ Completed s t (s.ticksOf i) := by
  obtain ⟨hr, hu⟩ := State.readyFor_iff.mp h
  obtain ⟨hidx, hl⟩ := State.mayUse_sources hu
  obtain ⟨rd, hq⟩ := sequenceOf_read hcls
  obtain ⟨t, he, hdone, -, -⟩ := runs_read (P := fun _ => True) hq hcls (fun v => (readOp_spec hq v).2.endsCalmly) hr hidx hl
    fun _ _ _ _ _ _ => trivial
  exact ⟨t, he, hdone⟩

/-- Settles O22: reads by their class, the other sequences by counting their cycles. -/
theorem cycleCounts : Obligations.CycleCounts := by
  intro i s hready hrel
  by_cases hcls : i.row.cls = .read
  · exact read_completes hready hcls
  obtain ⟨hr, hu⟩ := State.readyFor_iff.mp hready
  have hv : (sequenceOf i).varies = false := by
    rw [sequenceOf_varies, beq_false_of_ne hcls, beq_false_of_ne hrel]
    rfl
  obtain ⟨h2, h8⟩ := cycles_bounds i
  obtain ⟨t, j, he, hdone, -, hj⟩ := (sequenceOf_cycles i hv).completes hr hu h2 h8
  rw [s.ticksOf_eq_cycles hcls, ← hj rfl]
  exact ⟨t, he, hdone⟩

/-! ### The poll's view of I (R476) -/

/-- Every instruction completes, in one tick at least. -/
theorem completes {i : Instr} {s : State} (hready : s.readyFor i = true) :
    ∃ t n, exec i s = .next t ∧ Completed s t n ∧ 0 < n := by
  by_cases hrel : i.mode = .rel
  · obtain ⟨hr, hu⟩ := State.readyFor_iff.mp hready
    obtain ⟨cond, hq⟩ := sequenceOf_branch hrel
    have hcycles : (sequenceOf i).Cycles (usesOf i) .either 4 := by
      rw [hq]
      exact cycles_branch fun u hu => cond_dev hq (State.mayUse_sources hu).2
    obtain ⟨t, n, he, hdone, hn, -⟩ := hcycles.completes hr hu (by decide) (by decide)
    exact ⟨t, n, he, hdone, hn⟩
  · obtain ⟨t, he, hdone⟩ := cycleCounts i s hready hrel
    obtain ⟨h2, -⟩ := cycles_bounds i
    exact ⟨t, _, he, hdone, by rw [State.ticksOf]; omega⟩

/-- I has changed, and IPREV holds I as it was in `s`. -/
def DelaysI (s t : State) : Prop := t.sq.ichg = true ∧ t.sq.iprev = s.cpu.p.i

theorem delaysI_changingI {op : State → State} (h : ∀ u, OpFrame u (op u)) {s u : State} (hi : u.cpu.p.i = s.cpu.p.i) :
    DelaysI s ((changingI u op).finish.endTick .executed) := by
  have hsq : (op u.copyIPrev).sq = u.copyIPrev.sq := (h u.copyIPrev).sq
  rw [changingI_eq]
  exact ⟨(congrArg Latches.ichg hsq :), (congrArg Latches.iprev hsq :).trans hi⟩

/-- CLI, SEI and PLP leave the I before them in IPREV (R383, R386, R387). -/
theorem runs_delayingI {i : Instr} {s : State} (hready : s.ready = true) (hi : i.mnem ∈ [Mnem.cli, .sei, .plp]) :
    ∃ n, Runs i s n (DelaysI s) := by
  have hq : sequenceOf i = mnemSequence i.mnem i.mode := rfl
  generalize i.mnem = n at hi hq
  simp only [List.mem_cons, List.not_mem_nil, or_false] at hi
  rcases hi with rfl | rfl | rfl
  · have hop := fun u => OpFrame.setI u false
    exact ⟨2, runs_implied hq (OpSpec.of_frame hop).endsCalmly_changingI hready s.mayUse_nil fun u hk _ _ =>
      delaysI_changingI hop hk.i⟩
  · have hop := fun u => OpFrame.setI u true
    exact ⟨2, runs_implied hq (OpSpec.of_frame hop).endsCalmly_changingI hready s.mayUse_nil fun u hk _ _ =>
      delaysI_changingI hop hk.i⟩
  · have hop := fun d u => OpFrame.unpack u d
    exact ⟨4, runs_pull hq (fun d => (OpSpec.of_frame (hop d)).endsCalmly_changingI) hready fun u hk _ =>
      delaysI_changingI (hop _) hk.i⟩

/-- Settles O40: CLI, SEI and PLP set ICHG, and after the others it is as the terminal fetch left it. -/
theorem interruptPollDelay : Obligations.InterruptPollDelay := by
  intro i s hready
  by_cases hi : i.mnem ∈ [Mnem.cli, .sei, .plp]
  · obtain ⟨n, t, he, hdone, -, hichg, hiprev⟩ := runs_delayingI (State.readyFor_iff.mp hready).1 hi
    refine ⟨t, he, ?_⟩
    simp only [State.polledI, hdone.params, hichg, hiprev, hi, Bool.and_true, and_true]
  · obtain ⟨t, n, he, hdone, hn⟩ := completes hready
    have hbus : t.bus ≠ [] := fun h => by
      have hlen := hdone.bus
      rw [h] at hlen
      exact absurd hlen (Nat.ne_of_lt hn)
    obtain ⟨hichg, -⟩ := ((frameOfSpecialState i s t he).2.2 hi).1 hbus
    refine ⟨t, he, ?_⟩
    simp only [State.polledI, hichg, hi, Bool.and_false, and_false, Bool.false_eq_true, if_false]

end Sys2Proof.Machine

namespace Sys2Proof.Machine

/-! ### A step in the middle of a sequence (R151) -/

theorem State.phi1_of_half {u : State} (h : u.half = .phi2) : u.phi1 = u := by
  unfold State.phi1
  rw [h]

/-- A step from the middle of a sequence takes it up after PHI1 of its first tick. -/
theorem step_resumes {s : State} (hs : s.sound) (hq : s.quietFor 0 = true) (hseq : s.sq.seq ≠ .boundary) :
    step s = (runSeq .live s.clearLogs.phi1.currentSequence 8 s.clearLogs.phi1).outcome := by
  have hd := s.clearLogs.phi1_dev hq
  have hrun : s.clearLogs.phi1.stopped = none := (hd.sound hs).1
  have hne : s.clearLogs.phi1.sq.seq ≠ .boundary := by rw [hd.sq]; exact hseq
  show s.stepOnce = _
  unfold State.stepOnce
  simp only [hrun, Option.isSome_none, Bool.false_eq_true, if_false, beq_false_of_ne hne]
  rfl

/-- The preparation of SHA, SHS, SHX and SHY: SHS loads S (R427). -/
theorem sh_prepares {n : Mnem} {m k : Mode} {prep : State → State} {src : State → Byte}
    (h : mnemSequence n m = .sh k prep src) {u : State} (hu : u.mayUse (mnemSources n) = true) :
    prep u = u.setS (if n = .shs then u.cpu.a &&& u.cpu.x else u.cpu.s) := by
  cases n <;> simp only [mnemSequence, reduceCtorEq, Sequence.sh.injEq] at h
  case nop | jmp | asl | lsr | rol | ror => split at h <;> simp only [reduceCtorEq] at h
  all_goals
    obtain ⟨-, rfl, -⟩ := h
    exact State.using_eq hu _

/-- The mnemonics of the masked stores name their sequence. -/
theorem mnemSequence_sh {n : Mnem} (h : n ∈ [Mnem.sha, .shs, .shx, .shy]) (m : Mode) :
    ∃ prep src, mnemSequence n m = .sh m prep src := by
  simp only [List.mem_cons, List.not_mem_nil, or_false] at h
  rcases h with rfl | rfl | rfl | rfl <;> exact ⟨_, _, rfl⟩

theorem Dev.setS {s u : State} (h : Dev { s with half := .phi2 } u) (b : Byte) :
    Dev { s.setS b with half := .phi2 } (u.setS b) :=
  ⟨congrArg (·.setS b) h.bare, h.half, h.v, h.written, h.sound⟩

/-- A write that executes in a sound state with no host call due after it. -/
theorem executeTick_write {u : State} (hs : u.sound) (hq : u.quietFor 0 = true) (f : Feed) {pre post : State → State}
    {addr : State → Word} {value : State → Byte} {b : Byte} (hpre : pre u = u.setS b) (hpost : ∀ w, Stays w (post w)) :
    let a := addr (u.setS b)
    let v := value (u.setS b)
    ∃ w, u.executeTick f (.write pre addr value post) = (post (w.logBus (.write a v))).endTick .executed ∧
      (((u.setS b).isRam a = true ∧ w = (u.setS b).poke a v) ∨ ((u.setS b).isRam a = false ∧ Dev (u.setS b) w)) := by
  intro a v
  obtain ⟨w, hw, hd⟩ := (u.setS b).busWrite_dev a v
  have hx : (u.setS b).stopped = none := hs.1
  have hstore : w.stopped = none ∧ Stays u w := by
    rcases hd with ⟨-, rfl⟩ | ⟨-, hd⟩
    · exact ⟨hx, ⟨rfl, rfl⟩⟩
    · exact ⟨(hd.sound hs).1, hd.agenda, hd.tick⟩
  have hperform : (MicroOp.write pre addr value post).perform f u = post (w.logBus (.write a v)) := by
    rw [MicroOp.perform_write, hpre, State.unlessStopped_eq hx, hw]
    exact State.unlessStopped_eq (s := w.logBus _) hstore.1 _
  have hstays : Stays u (post (w.logBus (.write a v))) := (hstore.2.trans (Stays.logBus w _)).trans (hpost _)
  exact ⟨w, by rw [State.executeTick_quiet (by rw [hperform]; exact hstays.quiet hq), hperform], hd⟩

/-- A steal-immune micro-op that ends its sequence is all that the run does from PHI2 on. -/
theorem runSeq_immune {q : Sequence} {f : Feed} {n : Nat} {u : State} (hhalf : u.half = .phi2) (hrun : u.stopped = none)
    (hseq : u.sq.seq ≠ .boundary) (hm : (q.micro u).stealImmune = true)
    (hend : (u.executeTick f (q.micro u)).sq.seq = .boundary) : runSeq f q (n + 1) u = u.executeTick f (q.micro u) := by
  have hstalls : u.stalls (q.micro u) = false := by rw [State.stalls, hm]; exact Bool.and_false _
  rw [runSeq_succ, State.phi1_of_half hhalf, State.not_settled hrun hseq, hstalls, if_neg Bool.false_ne_true,
    if_neg Bool.false_ne_true, if_pos (State.settled_of_boundary hend)]

/-- The byte that a masked store writes at its last cycle (R431, R434). -/
def State.maskedByte (s : State) (n : Mnem) : Byte :=
  if s.params.shRdyQuirk = true ∧ s.sq.shstall = true then shSource n s.regs else shSource n s.regs &&& (s.sq.bah + 1)

/-- The address that it writes to. -/
def State.maskedTarget (s : State) (n : Mnem) : Word :=
  if s.sq.cross then joinBytes (s.maskedByte n) (lo s.sq.ea) else s.sq.ea

theorem ShOperation.stores {n : Mnem} {prep : State → State} {src : State → Byte} (h : ShOperation n prep src) {u : State}
    (hrun : (prep u).stopped = none) :
    shValue src (prep u) = u.maskedByte n ∧ Machine.shAddr src (prep u) = u.maskedTarget n := by
  have hv : shValue src (prep u) = u.maskedByte n := by
    rw [shValue, h.source u hrun, h.sq u hrun, h.params u hrun, State.maskedByte]
    simp only [Bool.and_eq_true]
  exact ⟨hv, by rw [Machine.shAddr, hv, h.sq u hrun, State.maskedTarget]⟩

/-- Device activity before the write changes neither. -/
theorem Dev.maskedByte {s u : State} (h : Dev s u) (n : Mnem) : u.maskedByte n = s.maskedByte n := by
  rw [State.maskedByte, h.params, h.sq, h.regs]
  rfl

theorem Dev.maskedTarget {s u : State} (h : Dev s u) (n : Mnem) : u.maskedTarget n = s.maskedTarget n := by
  rw [State.maskedTarget, h.maskedByte, h.sq]
  rfl

/-- S after the preparation of a masked store: SHS loads it (R427). -/
def State.preparedS (s : State) (n : Mnem) : Byte := if n = .shs then s.cpu.a &&& s.cpu.x else s.cpu.s

theorem Dev.preparedS {s u : State} (h : Dev s u) (n : Mnem) : u.preparedS n = s.preparedS n := by
  rw [State.preparedS, h.cpu_a, h.cpu_x, h.cpu_s]
  rfl

/-- Settles O46: the write is steal-immune, so the step is that one tick, whether the machine is held or not. -/
theorem stalledMaskedStores : Obligations.StalledMaskedStores := by
  intro s hrun hlines hq hseq i hi hcyc hmay src v a
  have hs : s.sound := ⟨by simpa [State.running] using hrun, hlines⟩
  have hne : s.sq.seq ≠ .boundary := by rw [hseq]; nofun
  have hd := s.clearLogs.phi1_dev hq
  have hhalf := s.clearLogs.phi1_half
  rw [step_resumes hs hq hne]
  generalize s.clearLogs.phi1 = u at hd hhalf ⊢
  have hsu : u.sound := hd.sound hs
  have hsq : u.sq = s.sq := hd.sq
  -- the micro-op
  obtain ⟨prep, source, hsh⟩ := mnemSequence_sh hi i.mode
  have hcurrent : u.currentSequence = .sh i.mode prep source := by
    rw [State.currentSequence, hsq, hseq]
    exact hsh
  have hmicro : u.currentSequence.micro u = .write prep (shAddr source) (shValue source) State.finish := by
    rw [hcurrent]
    exact if_neg (by rw [hsq, hcyc]; exact Nat.lt_irrefl _)
  -- what it writes, and where
  have hprep : prep u = u.setS (s.preparedS i.mnem) := by
    rw [sh_prepares hsh (hd.mayUse (s := { s.clearLogs with half := .phi2 }) hmay)]
    exact congrArg u.setS (hd.preparedS i.mnem)
  obtain ⟨hv, ha⟩ := (shOperation hsh).stores (u := u) (by rw [hprep]; exact hsu.1)
  have hv : shValue source (u.setS (s.preparedS i.mnem)) = v := by rw [← hprep, hv]; exact hd.maskedByte i.mnem
  have ha : shAddr source (u.setS (s.preparedS i.mnem)) = a := by rw [← hprep, ha]; exact hd.maskedTarget i.mnem
  obtain ⟨w, hw, hstore⟩ := executeTick_write hsu (hd.quiet hq) .live (addr := shAddr source) (value := shValue source) hprep
    fun w => (Stays.mk rfl rfl : Stays w w.finish)
  rw [hv, ha] at hw hstore
  obtain ⟨hk, hwsq, hwpc, hwmem, hwbus⟩ := final_write_moved (hd.setS _) hstore
  -- the tick is the whole step
  have htick : u.executeTick .live (u.currentSequence.micro u) = (w.logBus (.write a v)).finish.endTick .executed := by
    rw [hmicro, hw]
  have hview : w.regs = { s.regs with s := s.preparedS i.mnem } :=
    hk.regs.trans (congrArg (fun pc => ({ s.regs with s := s.preparedS i.mnem, pc := pc } : Regs)) hwpc)
  refine ⟨(w.logBus (.write a v)).finish.endTick .executed, ?_, (congrArg (· ++ [.write a v]) hwbus :), hwmem, hk.v,
    ⟨hk.nmiCount, hk.nmiPending, hk.rstPending⟩, hview, (congrArg (fun l : Latches => { l with seq := .boundary }) hwsq :),
    hk.tick, rfl, hk.hold⟩
  rw [runSeq_immune hhalf hsu.1 (by rw [hsq]; exact hne) (by rw [hmicro]; rfl) (by rw [htick]; rfl), htick]
  exact State.outcome_eq_next.mpr ⟨rfl, (hk.sound hs).1⟩

end Sys2Proof.Machine

namespace Sys2Proof.Machine

/-! ### The IRQ line in PHI1: the VIAs' flags only rise there (R551, R563, R572, R574, R580) -/

/-- In a VIA flags have risen, and its output has not followed them yet. -/
structure Via.Raised (v w : Via) : Prop where
  out : w.irqOut = v.irqOut
  ier : w.ier = v.ier
  ifr : ∃ flags, w.ifr = v.ifr ||| flags

theorem Via.Raised.of_eq {v w : Via} (ho : w.irqOut = v.irqOut) (he : w.ier = v.ier) (hf : w.ifr = v.ifr) : v.Raised w :=
  ⟨ho, he, 0#7, by rw [hf, BitVec.or_zero]⟩

theorem Via.Raised.refl (v : Via) : v.Raised v := .of_eq rfl rfl rfl

theorem Via.Raised.trans {v w x : Via} (h : v.Raised w) (g : w.Raised x) : v.Raised x := by
  obtain ⟨f1, h1⟩ := h.ifr
  obtain ⟨f2, h2⟩ := g.ifr
  exact ⟨g.out.trans h.out, g.ier.trans h.ier, f1 ||| f2, by rw [h2, h1, BitVec.or_assoc]⟩

/-- A VIA that asks for an interrupt still asks. -/
theorem Via.Raised.wantsIrq {v w : Via} (h : v.Raised w) (hv : v.wantsIrq = true) : w.wantsIrq = true := by
  obtain ⟨f, hf⟩ := h.ifr
  simp only [Via.wantsIrq, bne_iff_ne, ne_eq, hf, h.ier] at hv ⊢
  intro h0
  refine hv (BitVec.eq_of_getLsbD_eq fun k hk => ?_)
  have hbit := congrArg (·.getLsbD k) h0
  simp only [BitVec.getLsbD_and, BitVec.getLsbD_or] at hbit ⊢
  cases hb : v.ifr.getLsbD k
  · simp
  · simpa [hb] using hbit

theorem Via.timerAStep_raised (v : Via) (reload : Bool) : v.Raised (v.timerAStep reload) := by
  unfold Via.timerAStep
  split
  · exact .of_eq rfl rfl rfl
  dsimp only
  split
  · unfold Via.t1Underflow
    split
    · exact ⟨rfl, rfl, flagBit 6, rfl⟩
    dsimp only
    split <;> split
    · exact ⟨rfl, rfl, flagBit 6, rfl⟩
    · exact .of_eq rfl rfl rfl
    · exact ⟨rfl, rfl, flagBit 6, rfl⟩
    · exact .of_eq rfl rfl rfl
  · exact .of_eq rfl rfl rfl

theorem Via.timerBStep_raised (v : Via) : v.Raised v.timerBStep := by
  unfold Via.timerBStep
  split
  · exact .of_eq rfl rfl rfl
  split
  · exact .refl v
  dsimp only
  split
  · exact ⟨rfl, rfl, flagBit 5, rfl⟩
  · exact .of_eq rfl rfl rfl

theorem Via.ticked_raised (v : Via) (reload : Bool) : v.Raised (v.ticked reload) :=
  ((Via.Raised.of_eq rfl rfl rfl : v.Raised v.endPulses).trans (Via.timerAStep_raised _ reload)).trans
    (Via.timerBStep_raised _)

/-- The IRQ count and its latency after edges that only rise (R474, R580). -/
def Interrupts.Later (i j : Interrupts) : Prop :=
  (j.irqCount = i.irqCount ∧ j.irqLat = i.irqLat) ∨
    (i.irqCount < j.irqCount ∧ j.irqLat = if i.irqCount = 0 then .zero else i.irqLat)

theorem Interrupts.Later.trans {i j k : Interrupts} (h : i.Later j) (g : j.Later k) : i.Later k := by
  rcases h with ⟨hc, hl⟩ | ⟨hc, hl⟩
  · simpa only [Interrupts.Later, hc, hl] using g
  · have hj : j.irqCount ≠ 0 := by omega
    rcases g with ⟨gc, gl⟩ | ⟨gc, gl⟩
    · exact .inr ⟨by omega, gl.trans hl⟩
    · rw [if_neg hj] at gl
      exact .inr ⟨by omega, gl.trans hl⟩

/-- The latency after the stalled tick in which the edges came (R474, R475). -/
theorem Interrupts.Later.stalled {i j : Interrupts} (h : i.Later j) :
    j.irqLat.stalled = if i.irqCount = 0 ∧ j.irqCount ≠ 0 then .one else i.irqLat.stalled := by
  rcases h with ⟨hc, hl⟩ | ⟨hc, hl⟩
  · rw [if_neg (by omega), hl]
  · rw [hl]
    by_cases hi : i.irqCount = 0
    · rw [if_pos hi, if_pos ⟨hi, by omega⟩]
      rfl
    · rw [if_neg hi, if_neg fun h => hi h.1]

/-- From outputs that follow their flags, to outputs that follow their flags, with edges that only rise. -/
def Rises (s t : State) : Prop := s.irqOutputs → t.irqOutputs ∧ s.irq.Later t.irq

theorem Rises.trans {s t u : State} (h : Rises s t) (g : Rises t u) : Rises s u := fun hs =>
  have ⟨ht, hst⟩ := h hs
  have ⟨hu, htu⟩ := g ht
  ⟨hu, hst.trans htu⟩

/-- A change of neither the VIAs nor the interrupt state. -/
theorem Rises.apart {s t : State} (h1 : t.via1 = s.via1) (h2 : t.via2 = s.via2) (hi : t.irq = s.irq) : Rises s t := by
  intro hs
  rw [State.irqOutputs, Interrupts.Later, h1, h2, hi]
  exact ⟨hs, .inl ⟨rfl, rfl⟩⟩

theorem Rises.rot (s : State) (r : Rotation) : Rises s { s with rot := r } := Rises.apart rfl rfl rfl

theorem Rises.refl (s : State) : Rises s s := Rises.apart rfl rfl rfl

theorem State.irqOutputs.via {s : State} (h : s.irqOutputs) (k : ViaId) : (s.via k).irqOut = (s.via k).wantsIrq := by
  cases k
  · exact h.1
  · exact h.2

theorem State.irqOutputs.setVia {s : State} (h : s.irqOutputs) (k : ViaId) {w : Via} (hw : w.irqOut = w.wantsIrq) :
    (s.setVia k w).irqOutputs := by
  cases k
  · exact ⟨hw, h.2⟩
  · exact ⟨h.1, hw⟩

theorem State.via_setVia (s : State) (k : ViaId) (w : Via) : (s.setVia k w).via k = w := by cases k <;> rfl

theorem State.setVia_setVia (s : State) (k : ViaId) (v w : Via) : (s.setVia k v).setVia k w = s.setVia k w := by
  cases k <;> rfl

theorem State.setVia_irq (s : State) (k : ViaId) (w : Via) : (s.setVia k w).irq = s.irq := by cases k <;> rfl

/-- Flags that have risen reach the line (R580). -/
theorem Rises.check {s : State} {k : ViaId} {w : Via} (h : (s.via k).Raised w) :
    Rises s ((s.setVia k w).checkInterrupts k) := by
  intro hs
  have hout : w.irqOut = (s.via k).wantsIrq := h.out.trans (hs.via k)
  unfold State.checkInterrupts
  simp only [State.via_setVia, State.setVia_setVia]
  split
  · next hrise =>
    have hw : w.wantsIrq = true := (Bool.and_eq_true _ _ ▸ hrise).1
    refine ⟨hs.setVia k (w := { w with irqOut := true }) hw.symm, .inr ?_⟩
    have hirq := s.setVia_irq k { w with irqOut := true }
    rw [State.triggerIRQ, hirq]
    exact ⟨Nat.lt_succ_self _, rfl⟩
  split
  · next hfall =>
    rw [Bool.and_eq_true, hout, Bool.not_eq_true'] at hfall
    exact absurd (h.wantsIrq hfall.1) (by rw [hfall.2]; decide)
  · next hrise hfall =>
    refine ⟨hs.setVia k ?_, .inl (by rw [State.setVia_irq]; exact ⟨rfl, rfl⟩)⟩
    cases hi : w.irqOut <;> cases hw : w.wantsIrq <;> simp_all

theorem Rises.viaTick (s : State) (k : ViaId) : Rises s (s.viaTick k) := Rises.check (Via.ticked_raised _ _)

theorem Rises.unlessStopped {s : State} {f : State → State} (h : Rises s (f s)) : Rises s (s.unlessStopped f) :=
  State.unlessStopped_keeps (Rises.refl s) h

theorem Rises.viaStep (s : State) (k : ViaId) : Rises s (s.viaStep k) := by
  unfold State.viaStep
  split
  · exact Rises.refl s
  · exact Rises.unlessStopped (Rises.viaTick s k)

/-! #### The rotation engine: of the VIAs it reaches CA1 of VIA2 alone (R651) -/

/-- CA1 of VIA2 takes no byte from outside. -/
theorem Rises.signalCA1 (s : State) (e : Edge) : Rises s (s.signal .via2 .ca1 e) := by
  show Rises s (s.signalCA1 .via2 e)
  unfold State.signalCA1
  split
  · have hraised : (s.via .via2).Raised { (s.via .via2).raiseFlag 1 with
        latchA := s.rot.readLatch
        ca2hs := ((s.via .via2).raiseFlag 1).ca2hs || ((s.via .via2).raiseFlag 1).ca2Mode == 4 } :=
      ⟨rfl, rfl, flagBit 1, rfl⟩
    exact Rises.check hraised
  · exact Rises.refl s

theorem Rises.byteReady (s : State) : Rises s s.byteReady := by
  have h : Rises s { s.signal .via2 .ca1 .fall with rot := { (s.signal .via2 .ca1 .fall).rot with ca1Low := true } } :=
    (Rises.signalCA1 s .fall).trans (Rises.apart rfl rfl rfl)
  unfold State.byteReady
  dsimp only
  split
  · exact h.trans (Rises.apart rfl rfl rfl)
  · exact h

theorem Rises.frame (s : State) : Rises s s.frame := by
  unfold State.frame
  split
  · exact Rises.apart rfl rfl rfl
  split
  · exact (Rises.rot s _).trans (Rises.byteReady _)
  · exact Rises.apart rfl rfl rfl

theorem Rises.readNextBit (s : State) : Rises s s.readNextBit.2 := by
  unfold State.readNextBit
  split
  · exact Rises.refl s
  · exact Rises.apart rfl rfl rfl

theorem Rises.fluxNoise (s : State) : Rises s s.fluxNoise.2 := by
  have hdraws : Rises s s.advanceDraws.advanceDraws := Rises.apart rfl rfl rfl
  unfold State.fluxNoise
  split
  · dsimp only
    split
    · exact hdraws.trans (Rises.readNextBit _)
    · exact hdraws
  · exact Rises.refl s

/-- Whatever the engine makes of a bit, it then frames. -/
theorem Rises.rot_frame {s u : State} (h : Rises s u) (r : Rotation) : Rises s (State.frame { u with rot := r }) :=
  (h.trans (Rises.rot u r)).trans (Rises.frame _)

theorem Rises.readBit (s : State) : Rises s s.readBit := by
  have hnext := Rises.readNextBit s
  unfold State.readBit
  dsimp only
  split
  · exact hnext.rot_frame _
  have hnoise : ∀ r, Rises s (State.fluxNoise { s.readNextBit.2 with rot := r }).2 := fun r =>
    (hnext.trans (Rises.rot _ r)).trans (Rises.fluxNoise _)
  split
  · exact (hnoise _).rot_frame _
  split
  · exact (hnoise _).rot_frame _
  · exact (hnoise _).rot_frame _

theorem Rises.extendTrack (s : State) : Rises s s.extendTrack := by
  unfold State.extendTrack
  dsimp only
  split
  · exact Rises.refl s
  · split <;> exact Rises.apart rfl rfl rfl

theorem Rises.writeNextBit (s : State) (b : Bool) : Rises s (s.writeNextBit b) := by
  have hextend : Rises s (if s.trackSizeBits = 0 then s.extendTrack else s) := by
    split
    · exact Rises.extendTrack s
    · exact Rises.refl s
  unfold State.writeNextBit
  dsimp only
  generalize (if s.trackSizeBits = 0 then s.extendTrack else s) = u at hextend ⊢
  by_cases h0 : u.trackSizeBits = 0
  · rw [if_pos h0]
    exact hextend
  rw [if_neg h0]
  split <;> exact hextend.trans (Rises.apart rfl rfl rfl)

theorem Rises.writeBit (s : State) : Rises s s.writeBit := by
  have hload : Rises s (if s.rot.bitCounter = 0 then s.loadWriteShift else s) := by
    unfold State.loadWriteShift
    split
    · split <;> exact Rises.apart rfl rfl rfl
    · exact Rises.refl s
  unfold State.writeBit
  dsimp only
  generalize (if s.rot.bitCounter = 0 then s.loadWriteShift else s) = u at hload ⊢
  have hwrite : ∀ r b, Rises s (State.writeNextBit { u with rot := r } b) := fun r b =>
    (hload.trans (Rises.rot u r)).trans (Rises.writeNextBit _ b)
  have hdone : ∀ r b r', Rises s { State.writeNextBit { u with rot := r } b with rot := r' } := fun r b r' =>
    (hwrite r b).trans (Rises.rot _ r')
  split
  · exact (hdone _ _ _).trans (Rises.byteReady _)
  · exact hdone _ _ _

theorem Rises.passBits (n : Nat) (s : State) : Rises s (s.passBits n) := by
  induction n generalizing s with
  | zero => exact Rises.refl s
  | succ n ih =>
    have h : Rises s s.passBit := by
      unfold State.passBit
      split
      · exact Rises.writeBit s
      · exact Rises.readBit s
    exact h.trans (ih _)

theorem Rises.advanceTick (s : State) : Rises s s.advanceTick := by
  have hrise : ∀ r r', Rises s (if r.ca1Low = true then State.signal { s with rot := r' } .via2 .ca1 .rise
      else { s with rot := r }) := fun r r' => by
    split
    · exact (Rises.rot s r').trans (Rises.signalCA1 _ .rise)
    · exact Rises.rot s r
  have h := hrise { s.rot with lastTick := s.rot.lastTick + 1 }
    { s.rot with lastTick := s.rot.lastTick + 1, ca1Low := false }
  unfold State.advanceTick
  dsimp only at h ⊢
  generalize (if s.rot.ca1Low = true then _ else _ : State) = u at h ⊢
  split
  · exact (h.trans (Rises.rot u _)).trans (Rises.passBits _ _)
  · exact h

theorem Rises.advanceTicks (n : Nat) (s : State) : Rises s (s.advanceTicks n) := by
  induction n generalizing s with
  | zero => exact Rises.refl s
  | succ n ih => exact (Rises.advanceTick s).trans (ih _)

theorem Rises.rotationStep (s : State) : Rises s s.rotationStep := by
  unfold State.rotationStep
  split
  · exact Rises.refl s
  · exact Rises.unlessStopped (Rises.advanceTicks _ s)

theorem Rises.attachDue (s : State) : Rises s s.attachDue := by
  unfold State.attachDue
  split
  · split
    · exact Rises.apart rfl rfl rfl
    · exact Rises.refl s
  · exact Rises.refl s

/-- PHI1 with no host call due. -/
theorem Rises.phi1 {s : State} (hq : s.quietFor 0 = true) : Rises s s.phi1 := by
  have step : ∀ (u v : State) (m : Moment), Dev s u ∧ Rises s u →
      Dev (u.hostCalls m).attachDue v ∧ Rises (u.hostCalls m).attachDue v → Dev s v ∧ Rises s v := by
    rintro u v m ⟨hd, hr⟩ ⟨hdv, hrv⟩
    rw [State.hostCalls_quiet (hd.quiet hq)] at hdv hrv
    exact ⟨(hd.trans (Dev.attachDue u)).trans hdv, (hr.trans (Rises.attachDue u)).trans hrv⟩
  have h1 := step s _ .beforeVia1 ⟨Dev.refl s, Rises.refl s⟩ ⟨Dev.viaStep _ .via1, Rises.viaStep _ .via1⟩
  have h2 := step _ _ .beforeVia2 h1 ⟨Dev.viaStep _ .via2, Rises.viaStep _ .via2⟩
  have h3 := step _ _ .beforeRotation h2 ⟨Dev.rotationStep _, Rises.rotationStep _⟩
  have hevents : Rises s s.phi1Events := by
    rw [State.phi1Events, State.hostCalls_quiet (h3.1.quiet hq)]
    exact h3.2
  unfold State.phi1
  split
  · exact Rises.refl s
  · exact hevents.trans (Rises.apart rfl rfl rfl)

/-! ### A stalled tick (R153, R474, R475) -/

/-- The cycle in which a masked store reads before it writes, where SHSTALL can be set (R434). -/
def Sequence.stallCycle : Sequence → Option Nat
  | .sh m _ _ => some (accessCycle m true - 1)
  | _ => none

theorem opcodeSequence_stallCycle : ∀ b : Byte, (opcodeSequence b).stallCycle =
    if b ∈ [(0x93 : Byte), 0x9B, 0x9C, 0x9E, 0x9F] then some (if b = 0x93 then 5 else 4) else none := by
  decide

theorem State.stallCycle_iff (s : State) : s.currentSequence.stallCycle = some s.sq.cyc ↔
    s.sq.seq = .op ∧ s.sq.ir ∈ [(0x93 : Byte), 0x9B, 0x9C, 0x9E, 0x9F] ∧ s.sq.cyc = (if s.sq.ir = 0x93 then 5 else 4) := by
  rw [State.currentSequence]
  cases s.sq.seq with
  | boundary => simp [Sequence.stallCycle]
  | entry k => simp [Sequence.stallCycle]
  | op =>
    dsimp only
    rw [opcodeSequence_stallCycle]
    by_cases hir : s.sq.ir ∈ [(0x93 : Byte), 0x9B, 0x9C, 0x9E, 0x9F]
    · rw [if_pos hir, Option.some.injEq, eq_comm]
      exact ⟨fun h => ⟨rfl, hir, h⟩, fun h => h.2.2⟩
    · rw [if_neg hir]
      exact ⟨nofun, fun h => absurd h.2.1 hir⟩

/-- A stall marks SHSTALL in that cycle alone, and under SH_RDY_QUIRK (R434). -/
theorem Sequence.markStall_eq (q : Sequence) (s : State) : q.markStall s = { s with
    sq := if s.params.shRdyQuirk = true ∧ q.stallCycle = some s.sq.cyc then { s.sq with shstall := true } else s.sq } := by
  cases q with
  | sh m prep src =>
    have hcycle : (accessCycle m true - 1 = s.sq.cyc) ↔ (s.sq.cyc + 1 = accessCycle m true) := by
      have := accessCycle_bounds m true
      omega
    simp only [Sequence.markStall, Sequence.stallCycle, Option.some.injEq, hcycle, Bool.and_eq_true, beq_iff_eq]
    split <;> rfl
  | _ => simp [Sequence.markStall, Sequence.stallCycle]

/-- The latches after a stalled tick. -/
def State.stalledLatches (s : State) : Latches :=
  if s.sq.seq = .op ∧ s.sq.ir ∈ [(0x93 : Byte), 0x9B, 0x9C, 0x9E, 0x9F] ∧ s.params.shRdyQuirk = true ∧
    s.sq.cyc = (if s.sq.ir = 0x93 then 5 else 4) then { s.sq with shstall := true } else s.sq

theorem State.markStall_currentSequence (s : State) :
    s.currentSequence.markStall s = { s with sq := s.stalledLatches } := by
  rw [Sequence.markStall_eq]
  congr 1
  refine if_congr ?_ rfl rfl
  rw [s.stallCycle_iff]
  exact ⟨fun ⟨hp, hop, hir, hc⟩ => ⟨hop, hir, hp, hc⟩, fun ⟨hop, hir, hp, hc⟩ => ⟨hp, hop, hir, hc⟩⟩

/-- A micro-op depends on the latches, PC and S. -/
theorem Sequence.micro_congr (q : Sequence) {s u : State} (hsq : u.sq = s.sq) (hpc : u.cpu.pc = s.cpu.pc)
    (hs : u.cpu.s = s.cpu.s) : q.micro u = q.micro s := by
  have hstack : u.stackAddr = s.stackAddr := congrArg stackAt hs
  have haddress : ∀ m c, addressCycle m u c = addressCycle m s c := fun m c => by
    unfold addressCycle
    rw [hsq]
  cases q with
  | implied op => simp only [Sequence.micro, hpc]
  | read m rd => simp only [Sequence.micro, readCycle, hsq, haddress]
  | write m uses value => simp only [Sequence.micro, writeCycle, hsq, haddress]
  | rmw m f => simp only [Sequence.micro, rmwCycle, hsq, haddress]
  | sh m prep src => simp only [Sequence.micro, shCycle, hsq, haddress]
  | branch cond => simp only [Sequence.micro, branchCycle, hsq, hpc]
  | push pre value => simp only [Sequence.micro, pushCycle, hsq, hpc]
  | pull act => simp only [Sequence.micro, pullCycle, hsq, hpc, hstack]
  | jmpAbs => simp only [Sequence.micro, jmpAbsCycle, hsq]
  | jmpInd => simp only [Sequence.micro, jmpIndCycle, hsq]
  | jsr => simp only [Sequence.micro, jsrCycle, hsq, hstack]
  | brk => simp only [Sequence.micro, brkCycle, takeInterrupt, hsq, hpc]
  | rts => simp only [Sequence.micro, rtsCycle, hsq, hpc, hstack]
  | rti => simp only [Sequence.micro, returnFromInterrupt, hsq, hpc, hstack]
  | jam => simp only [Sequence.micro, hpc]
  | entry k => simp only [Sequence.micro, entryCycle, takeReset, takeInterrupt, hsq, hpc, hstack]

/-- The step of a machine that stalls at once: PHI1, and the end of the tick. -/
theorem step_stalls {s : State} (hs : s.sound) (hq : s.quietFor 0 = true) (hhold : s.busHold = true)
    (hm : (s.currentSequence.micro s).stealImmune = false) :
    step s = (s.clearLogs.phi1.currentSequence.markStall s.clearLogs.phi1).stallTick.outcome := by
  have hd := s.clearLogs.phi1_dev hq
  have hsq : s.clearLogs.phi1.sq = s.sq := hd.sq
  have hrun : s.clearLogs.phi1.stopped = none := (hd.sound hs).1
  have hheld : s.clearLogs.phi1.busHold = true := hd.busHold.trans hhold
  by_cases hb : s.sq.seq = .boundary
  · have hbu : s.clearLogs.phi1.sq.seq = .boundary := by rw [hsq]; exact hb
    have hcurrent : s.clearLogs.phi1.currentSequence = .implied opNop := by rw [State.currentSequence, hbu]
    have hstalls : s.clearLogs.phi1.stalls terminalFetch = true := by rw [State.stalls, hheld]; rfl
    rw [hcurrent]
    show s.stepOnce = _
    unfold State.stepOnce
    simp only [hrun, Option.isSome_none, Bool.false_eq_true, if_false, hbu, beq_self_eq_true, if_true, hstalls]
    rfl
  · rw [step_resumes hs hq hb]
    have hcurrent : s.clearLogs.phi1.currentSequence = s.currentSequence := by rw [State.currentSequence, hsq]; rfl
    have hmicro : s.currentSequence.micro s.clearLogs.phi1 = s.currentSequence.micro s :=
      s.currentSequence.micro_congr hsq hd.cpu_pc hd.cpu_s
    have hstalls : s.clearLogs.phi1.stalls (s.currentSequence.micro s.clearLogs.phi1) = true := by
      rw [State.stalls, hheld, hmicro, hm]
      rfl
    rw [hcurrent, runSeq_succ, State.phi1_of_half s.clearLogs.phi1_half, State.not_settled hrun (by rw [hsq]; exact hb),
      if_neg Bool.false_ne_true, if_pos hstalls]

/-- What a stalled step leaves: device activity, SHSTALL in its one case, and the permitted step of the latencies. -/
theorem stalled_step {s : State} (hs : s.sound) (hq : s.quietFor 0 = true) (hhold : s.busHold = true)
    (hm : (s.currentSequence.micro s).stealImmune = false) :
    ∃ u, Dev { s.clearLogs with half := .phi2 } u ∧ Rises s u ∧
      step s = .next (State.endTick { u with sq := s.stalledLatches } Lat.stalled) := by
  have hd := s.clearLogs.phi1_dev hq
  have hr : Rises s s.clearLogs.phi1 := (Rises.apart rfl rfl rfl : Rises s s.clearLogs).trans (Rises.phi1 hq)
  refine ⟨s.clearLogs.phi1, hd, hr, ?_⟩
  rw [step_stalls hs hq hhold hm, State.markStall_currentSequence]
  generalize s.clearLogs.phi1 = u at hd ⊢
  have hlatches : u.stalledLatches = s.stalledLatches := by
    have hsq : u.sq = s.sq := hd.sq
    have hp : u.params = s.params := hd.params
    rw [State.stalledLatches, hsq, hp]
    rfl
  have hquiet : State.quietFor { u with sq := s.stalledLatches } 0 = true := hd.quiet hq
  rw [hlatches, State.stallTick, State.hostCalls_quiet hquiet]
  exact State.outcome_eq_next.mpr ⟨rfl, (hd.sound hs).1⟩

/-- No act of a micro-op makes a bus access of its own. -/
theorem bus_actClosed : ActClosed (fun _ => true) (fun s t => t.bus = s.bus) where
  trans h g := g.trans h
  rewrites h := by
    obtain ⟨_, _, _, _, rfl⟩ := h.rest
    rfl
  hook s := (Dev.onVAccess s).bus
  guard h := State.using_keeps (P := fun t => t.bus = _) h rfl

theorem State.currentSequence_acts (s u : State) : (s.currentSequence.micro u).Acts (fun s t => t.bus = s.bus) := by
  refine bus_actClosed.micro ?_ u
  unfold State.currentSequence
  split
  · exact bus_actClosed.refl
  · exact bus_actClosed.mnemSequence _ _ (fun _ _ => rfl) (fun _ => rfl)
  · exact ⟨rfl, rfl⟩

/-- The bus after a write that did not fault. -/
theorem MicroOp.perform_write_bus {pre post : State → State} {addr : State → Word} {value : State → Byte} {f : Feed}
    {u : State} (hacts : (MicroOp.write pre addr value post).Acts (fun s t => t.bus = s.bus))
    (hrun : ((MicroOp.write pre addr value post).perform f u).stopped = none) :
    ((MicroOp.write pre addr value post).perform f u).bus = u.bus ++ [.write (addr (pre u)) (value (pre u))] := by
  obtain ⟨hpre, hpost⟩ := hacts
  rw [MicroOp.perform_write] at hrun ⊢
  have he := (State.unlessStopped_running hrun).2
  rw [he] at hrun ⊢
  obtain ⟨w, hw, hcase⟩ := (pre u).busWrite_dev (addr (pre u)) (value (pre u))
  have hbus : w.bus = u.bus := by
    rw [← hpre u]
    rcases hcase with ⟨-, rfl⟩ | ⟨-, hd⟩
    · rfl
    · exact hd.bus
  rw [(State.unlessStopped_running hrun).2, hpost, hw]
  exact congrArg (· ++ _) hbus

/-- A held machine executes a write (R153): it is the first bus access of the step. -/
theorem step_writes_first {s t : State} (hs : s.sound) (hq : s.quietFor 0 = true) (ht : step s = .next t)
    {pre post : State → State} {addr : State → Word} {value : State → Byte}
    (hm : s.clearLogs.phi1.currentSequence.micro s.clearLogs.phi1 = .write pre addr value post) :
    ∃ rest, t.bus = .write (addr (pre s.clearLogs.phi1)) (value (pre s.clearLogs.phi1)) :: rest := by
  have hd := s.clearLogs.phi1_dev hq
  have hsq : s.clearLogs.phi1.sq = s.sq := hd.sq
  have hseq : s.sq.seq ≠ .boundary := by
    intro hb
    have hcurrent : s.clearLogs.phi1.currentSequence = .implied opNop := by rw [State.currentSequence, hsq, hb]
    rw [hcurrent] at hm
    exact MicroOp.noConfusion hm
  rw [step_resumes hs hq hseq] at ht
  have hhalf := s.clearLogs.phi1_half
  have hacts := s.clearLogs.phi1.currentSequence_acts s.clearLogs.phi1
  obtain ⟨i, l, hop⟩ := s.clearLogs.phi1.currentSequence_operates
  generalize s.clearLogs.phi1 = u at hd hsq hhalf hacts hop hm ht ⊢
  obtain ⟨rfl, hrun⟩ := State.outcome_eq_next.mp ht
  have hstalls : u.stalls (u.currentSequence.micro u) = false := by rw [hm]; exact Bool.and_false _
  have hnot : u.settled = false := State.not_settled (hd.sound hs).1 (by rw [hsq]; exact hseq)
  rw [runSeq_succ, State.phi1_of_half hhalf, hnot, hstalls, if_neg Bool.false_ne_true, if_neg Bool.false_ne_true] at hrun ⊢
  rw [hm] at hacts hrun ⊢
  -- the first tick, and that the rest of the step only adds to its bus accesses
  have hfirst : (u.executeTick .live (.write pre addr value post)).stopped = none →
      (u.executeTick .live (.write pre addr value post)).bus = [.write (addr (pre u)) (value (pre u))] := fun h => by
    have hbus : u.bus = [] := hd.bus
    have hlate := (Outside.hostCalls ((MicroOp.write pre addr value post).perform .live u) .afterCpu).bus
    exact hlate.trans (by rw [MicroOp.perform_write_bus hacts (State.executeTick_running h), hbus]; rfl)
  generalize u.executeTick .live (.write pre addr value post) = x at hfirst hrun ⊢
  by_cases hset : x.settled = true
  · rw [if_pos hset] at hrun ⊢
    exact ⟨[], hfirst hrun⟩
  · rw [if_neg hset] at hrun ⊢
    obtain ⟨rest, hrest⟩ := (runSeq_ran hop .live 7 x).toOnward.bus
    exact ⟨rest, by rw [← hrest, hfirst (running_of_runSeq hrun)]; rfl⟩

/-- Settles O14: at once a stall, or a write that is steal-immune. -/
theorem busHold : Obligations.BusHold := by
  intro s hrun hlines hq hhold
  have hs : s.sound := ⟨by simpa [State.running] using hrun, hlines⟩
  refine ⟨fun hm => ?_, fun hclears hread => ?_⟩
  · obtain ⟨u, hd, hr, hstep⟩ := stalled_step hs hq hhold hm
    refine ⟨_, hstep, hd.regs, hd.v, hd.mem, hd.bus, congrArg (· + 1) hd.tick, rfl, hd.busHold.trans hhold, rfl,
      congrArg Lat.stalled hd.irq_nmiLat, congrArg Lat.stalled hd.irq_rstLat, hd.irq_nmiPending, hd.irq_rstPending,
      fun hout => ?_⟩
    exact (hr hout).2.stalled
  · intro u pre addr value post hm
    obtain ⟨t, ht, -⟩ := stepNeverFaults s hrun hlines hclears hread
    obtain ⟨rest, hrest⟩ := step_writes_first hs hq ht hm
    exact ⟨t, rest, ht, hrest⟩

end Sys2Proof.Machine

namespace Sys2Proof.Machine

/-! ### A forced jump in PHI1 (R95, R158) -/

/-- The state after a forced jump that was all of the agenda. -/
def State.jumped (s : State) (a : Word) : State := State.forcedJump { s with agenda := [] } a

theorem Dev.jumped {s u : State} (h : Dev s u) (a : Word) : Dev (s.jumped a) (u.jumped a) :=
  ⟨congrArg (·.jumped a) h.bare, h.half, h.v, h.written, h.sound⟩

/-- A forced jump may come at any place of its tick, so it comes at the place that the host gave it (R95). -/
theorem isDue_forcedJump (t : Nat) (m k : Moment) (a : Word) (hk : k ≠ .afterCpu) :
    (Due.isDue ⟨t, m, .forcedJump a⟩ t k) = decide (m.rank ≤ k.rank) := by
  cases m <;> cases k <;> simp [Due.isDue, HostCall.lastMoment, Moment.rank] at hk ⊢

/-- The host calls at a place of a tick whose only call is a forced jump. -/
theorem State.hostCalls_forcedJump {u : State} {m k : Moment} {a : Word} (hrun : u.stopped = none) (hk : k ≠ .afterCpu)
    (hagenda : u.agenda = [⟨u.tick, m, .forcedJump a⟩]) :
    u.hostCalls k = if m.rank ≤ k.rank then u.jumped a else u := by
  have hdue := isDue_forcedJump u.tick m k a hk
  unfold State.hostCalls
  rw [hagenda]
  by_cases hm : m.rank ≤ k.rank
  · rw [decide_eq_true hm] at hdue
    simp only [List.filter_cons, hdue, if_true, Bool.not_true, Bool.false_eq_true, if_false, List.filter_nil, hm]
    exact State.unlessStopped_eq (s := { u with agenda := [] }) hrun _
  · rw [decide_eq_false hm] at hdue
    simp only [List.filter_cons, hdue, if_true, Bool.not_false, Bool.false_eq_true, if_false, List.filter_nil, hm]
    rw [← hagenda]
    rfl

/-- Where PHI1 has come to, `k` places of the tick being behind it: device activity, with the jump if its place is behind. -/
def Jumping (s : State) (m : Moment) (a : Word) (k : Nat) (u : State) : Prop :=
  Dev (if m.rank < k then s.jumped a else s) u

theorem Jumping.hostCalls {s u : State} {m k : Moment} {a : Word} (h : Jumping s m a k.rank u) (hs : s.sound)
    (hk : k ≠ .afterCpu) (hagenda : s.agenda = [⟨s.tick, m, .forcedJump a⟩]) :
    Jumping s m a (k.rank + 1) (u.hostCalls k) := by
  unfold Jumping at h ⊢
  by_cases hm : m.rank < k.rank
  · rw [if_pos hm] at h
    have hquiet : u.quietFor 0 = true := h.quiet (s := s.jumped a) rfl
    rw [if_pos (by omega), State.hostCalls_quiet hquiet]
    exact h
  · rw [if_neg hm] at h
    have hu : u.agenda = [⟨u.tick, m, .forcedJump a⟩] := by rw [h.agenda, h.tick, hagenda]
    rw [State.hostCalls_forcedJump (h.sound hs).1 hk hu]
    by_cases he : m.rank ≤ k.rank
    · rw [if_pos (by omega), if_pos he]
      exact h.jumped a
    · rw [if_neg (by omega), if_neg he]
      exact h

theorem Jumping.dev {s u v : State} {m : Moment} {a : Word} {k : Nat} (h : Jumping s m a k u) (g : Dev u v) :
    Jumping s m a k v := Dev.trans h g

/-- PHI1 of the tick of a forced jump: device activity and the jump. -/
theorem State.phi1_jumped {s : State} {m : Moment} {a : Word} (hs : s.sound) (hhalf : s.half = .phi1) (hm : m ≠ .afterCpu)
    (hagenda : s.agenda = [⟨s.tick, m, .forcedJump a⟩]) : Dev { s.jumped a with half := .phi2 } s.phi1 := by
  have h0 : Jumping s m a 0 s := Dev.refl s
  have hvia1 := (h0.hostCalls (k := .beforeVia1) hs nofun hagenda).dev ((Dev.attachDue _).trans (Dev.viaStep _ .via1))
  have hvia2 := (hvia1.hostCalls (k := .beforeVia2) hs nofun hagenda).dev ((Dev.attachDue _).trans (Dev.viaStep _ .via2))
  have hrot := (hvia2.hostCalls (k := .beforeRotation) hs nofun hagenda).dev ((Dev.attachDue _).trans (Dev.rotationStep _))
  have hcpu : Jumping s m a 4 s.phi1Events := hrot.hostCalls (k := .beforeCpu) hs nofun hagenda
  have hrank : m.rank < 4 := by
    cases m with
    | afterCpu => exact absurd rfl hm
    | _ => decide
  have hd : Dev (s.jumped a) s.phi1Events := by rwa [Jumping, if_pos hrank] at hcpu
  unfold State.phi1
  rw [hhalf]
  exact ⟨hd.bare, rfl, hd.v, hd.written, hd.sound⟩

/-! ### The terminal fetch after PHI1 (R152) -/

/-- The latches after the terminal fetch of the opcode `b`. -/
def Latches.fetched (l : Latches) (b : Byte) : Latches :=
  { l with ir := b, seq := .op, cyc := 2, ichg := false, iprev := false, iprevKnown := false, shstall := false }

theorem terminalFetch_after {s u : State} (hs : s.sound) (hq : s.quietFor 0 = true) (hd : Dev { s with half := .phi2 } u)
    (f : Feed) : ∃ d, Kept s (u.executeTick f terminalFetch) 1 ∧ (u.executeTick f terminalFetch).cpu.pc = s.cpu.pc + 1 ∧
      (u.executeTick f terminalFetch).sq = s.sq.fetched (f.pick .opcode d) ∧
      (u.executeTick f terminalFetch).bus = s.bus ++ [.read s.cpu.pc d] ∧
      (s.isStored s.cpu.pc = true → d = s.peek s.cpu.pc) := by
  obtain ⟨w, hw, hdw, hv⟩ := u.busRead_dev u.cpu.pc
  have hx := hd.trans hdw
  have hpc : u.cpu.pc = s.cpu.pc := hd.cpu_pc
  rw [hpc] at hw hv
  have hperform : terminalFetch.perform f u = State.startSequence
      { (w.logBus (.read s.cpu.pc (u.busRead s.cpu.pc).1)).incPC with
        sq := { w.sq with ir := f.pick .opcode (u.busRead s.cpu.pc).1 } } .op := by
    unfold terminalFetch
    rw [MicroOp.perform_fetch, hpc, hw]
    exact State.unlessStopped_eq (s := w.logBus _) (hx.sound hs).1 _
  have hquiet : (terminalFetch.perform f u).quietFor 0 = true := by
    rw [hperform]
    exact (hx.stays.trans (Stays.mk rfl rfl)).quiet (n := 0) hq
  rw [State.executeTick_quiet hquiet, hperform]
  generalize (u.busRead s.cpu.pc).1 = d at hv
  refine ⟨d, hx.kept (.read s.cpu.pc d) (w.cpu.pc + 1) (w.sq.fetched (f.pick .opcode d)), congrArg (· + 1) hx.cpu_pc,
    (congrArg (Latches.fetched · (f.pick .opcode d)) hx.sq :), (congrArg (· ++ [.read s.cpu.pc d]) hx.bus :), fun hst => ?_⟩
  rw [hv (by rw [hd.isStored]; exact hst), hd.peek]
  rfl

/-- The instruction that a run decodes from the operand bytes it latches, where they lie in plain storage behind the
opcode. -/
theorem fetchedInstr_of_operands {u t : State} (ht : u.executeTick .live terminalFetch = t) (hc : Calm 7 t)
    (hseq : t.sq.seq = .op) (hcyc : t.sq.cyc = 2) (h1 : t.isStored t.cpu.pc = true) (h2 : t.isStored (t.cpu.pc + 1) = true)
    {i : Instr} (hi : i = decodeBytes t.sq.ir (t.peek t.cpu.pc) (t.peek (t.cpu.pc + 1)))
    (hjsr : i.mnem = .jsr → t.cpu.pc + 1 ≠ stackAt t.cpu.s ∧ t.cpu.pc + 1 ≠ stackAt (t.cpu.s - 1)) :
    u.fetchedInstr = i := by
  show decodeBytes (u.executeTick .live terminalFetch).sq.ir _ _ = _
  rw [ht, hi]
  have hmnem : i.mnem = (decodeBytes t.sq.ir 0 0).mnem := by rw [hi, Instr.mnem, (decodeBytes_faithful _ _ _).1]; rfl
  have hq : (opcodeSequence t.sq.ir).Operates _ _ := sequenceOf_operates (decodeBytes t.sq.ir 0 0)
  have hbytes : (opcodeSequence t.sq.ir).bytes = (decodeBytes t.sq.ir 0 0).length := sequenceOf_bytes _
  have hfit : (opcodeSequence t.sq.ir).fits = true := sequenceOf_fits _
  refine decodeBytes_congr (fun hlen => ?_) (fun hlen => ?_)
  · exact runSeq_first hq hfit (by rwa [hbytes]) hc hseq hcyc h1
  · by_cases hj : (decodeBytes t.sq.ir 0 0).mnem = .jsr
    · obtain ⟨hs1, hs2⟩ := hjsr (hmnem.trans hj)
      rw [show opcodeSequence t.sq.ir = .jsr from congrArg (fun n => mnemSequence n _) hj]
      exact runSeq_jsr_second hc hseq hcyc h2 hs1 hs2
    · exact runSeq_second hq hfit (by rwa [hbytes]) (sequenceOf_ne_jsr hj) hc hseq hcyc h2

/-! ### O21 -/

/-- A jump in the tick after the fetch: the instruction ends at PHI1 of that tick. -/
theorem exec_jumped {i : Instr} {s : State} {m : Moment} {a : Word} (hs : s.sound) (hhold : s.busHold = false)
    (hm : m ≠ .afterCpu) (hagenda : s.agenda = [⟨s.tick + 1, m, .forcedJump a⟩]) :
    ∃ t u d, exec i s = .next u ∧ Kept s.clearLogs t 1 ∧ t.bus = [.read s.cpu.pc d] ∧
      Dev { t.jumped a with half := .phi2 } u := by
  have hq : s.quietFor 0 = true := by simp [State.quietFor, hagenda]
  have hd := s.clearLogs.phi1_dev hq
  rw [exec_eq]
  unfold runInstr
  dsimp only
  generalize s.clearLogs.phi1 = x at hd ⊢
  have hrun : x.stopped = none := (hd.sound hs).1
  have hstall : x.stalls terminalFetch = false := by
    have hx : x.busHold = false := hd.busHold.trans hhold
    rw [State.stalls, hx, Bool.false_and]
  obtain ⟨d, hk, -, -, hbus, -⟩ := terminalFetch_after (s := s.clearLogs) hs hq hd (Feed.ofInstr i)
  rw [hrun, hstall]
  generalize x.executeTick (Feed.ofInstr i) terminalFetch = t at hk hbus ⊢
  have hjump : Dev { t.jumped a with half := .phi2 } t.phi1 :=
    State.phi1_jumped (hk.sound hs) hk.half hm (by rw [hk.agenda, hk.tick]; exact hagenda)
  have hend : t.phi1.settled = true := State.settled_of_boundary (by rw [hjump.sq]; rfl)
  refine ⟨t, t.phi1, d, ?_, hk, hbus, hjump⟩
  rw [if_neg (by decide), if_neg Bool.false_ne_true, runSeq_succ, if_pos hend]
  exact State.outcome_eq_next.mpr ⟨rfl, (hjump.sound (hk.sound hs)).1⟩

/-- A jump in PHI1 of the first tick: the step is that of a terminal at the address. -/
theorem step_jumped {i : Instr} {rest : List Byte} {s : State} {m : Moment} {a : Word} (hs : s.sound)
    (hhold : s.busHold = false) (hpages : s.plainPages = true) (hhalf : s.half = .phi1) (hm : m ≠ .afterCpu)
    (hagenda : s.agenda = [⟨s.tick, m, .forcedJump a⟩]) (hdec : s.decided = none) (hpoll : s.pollable = true)
    (hcode : s.plainCode a = true) (hi : decode [s.peek a, s.peek (a + 1), s.peek (a + 2)] = .ok (i, rest))
    (hjsr : i.mnem = .jsr → a + 2 ≠ stackAt s.cpu.s ∧ a + 2 ≠ stackAt (s.cpu.s - 1)) : step s = exec i s := by
  have hd : Dev { s.clearLogs.jumped a with half := .phi2 } s.clearLogs.phi1 := State.phi1_jumped hs hhalf hm hagenda
  have hrun : s.clearLogs.phi1.stopped = none := (hd.sound hs).1
  have hterm : s.clearLogs.phi1.sq.seq = .boundary := by rw [hd.sq]; rfl
  have hstall : s.clearLogs.phi1.stalls terminalFetch = false := by
    have hx : s.clearLogs.phi1.busHold = false := hd.busHold.trans hhold
    rw [State.stalls, hx, Bool.false_and]
  have hpoll : s.clearLogs.phi1.pollFaults = false := by simpa [State.pollable] using hpoll
  have hstep : step s = exec s.clearLogs.phi1.fetchedInstr s := by
    unfold State.decided at hdec
    simp [step, State.stepOnce, hrun, hterm, hstall, hpoll, hdec]
  -- the terminal fetch at the address, and the operand bytes behind it
  obtain ⟨d, hk, hpc, hsq, -, hbyte⟩ := terminalFetch_after (s := s.clearLogs.jumped a) hs rfl hd .live
  simp only [State.plainCode, Bool.and_eq_true] at hcode
  obtain ⟨⟨hst0, hst1⟩, hst2⟩ := hcode
  have hbyte : d = s.peek a := hbyte hst0
  have hfetched : s.clearLogs.phi1.fetchedInstr = i := by
    generalize ht : s.clearLogs.phi1.executeTick .live terminalFetch = t at hk hpc hsq
    have hct : Calm 7 t := hk.calm (n := 7) ⟨hs.1, hs.2, hhold, rfl, hpages⟩
    have hpc1 : t.cpu.pc = a + 1 := hpc
    have hpc2 : t.cpu.pc + 1 = a + 2 := by rw [hpc1, BitVec.add_assoc]; rfl
    have hpeek : ∀ b, t.peek b = s.peek b := fun b => by simp only [State.peek, hk.mem]; rfl
    have hstored : ∀ b, t.isStored b = s.isStored b := hk.isStored
    have hir : t.sq.ir = s.peek a := (congrArg Latches.ir hsq).trans hbyte
    have hsp : t.cpu.s = s.cpu.s := hk.sp
    refine fetchedInstr_of_operands ht hct (congrArg Latches.seq hsq) (congrArg Latches.cyc hsq) ?_ ?_ ?_ ?_
    · rw [hstored, hpc1, hst1]
    · rw [hstored, hpc2, hst2]
    · rw [hpeek, hpeek, hpc2, hpc1, hir]
      exact decode_three hi
    · rw [hpc2, hsp]
      exact hjsr
  rw [hstep, hfetched]

/-- Settles O21: PHI1 with the jump in it is device activity, the jump, and device activity. -/
theorem forcedJump : Obligations.ForcedJump := by
  refine ⟨fun s a => rfl, fun i s m a hrun hlines hhold hm hagenda => ?_,
    fun i rest s m a hrun hlines hhold hpages hhalf hm hagenda hdec hpoll hcode hi hjsr => ?_⟩
  · have hs : s.sound := ⟨by simpa [State.running] using hrun, hlines⟩
    obtain ⟨t, u, d, he, hk, hbus, hd⟩ := exec_jumped (i := i) hs hhold hm hagenda
    refine ⟨u, d, he, ?_, ?_, ?_, hd.mem.trans hk.mem, ?_, hd.busHold.trans (hk.hold.trans hhold), hd.tick.trans hk.tick,
      hd.half, hd.bus.trans hbus, hd.agenda⟩
    · rw [hd.regs]
      exact congrArg (fun r => ({ r with pc := a } : Regs)) hk.regs
    · exact hk.v.trans (t := t) hk.params hd.v
    · exact ⟨hd.irq_nmiCount.trans hk.nmiCount, hd.irq_nmiPending.trans hk.nmiPending, hd.irq_rstPending.trans hk.rstPending⟩
    · rw [hd.sq]
      rfl
  · exact step_jumped ⟨by simpa [State.running] using hrun, hlines⟩ hhold hpages hhalf hm hagenda hdec hpoll hcode hi hjsr

end Sys2Proof.Machine

namespace Sys2Proof.Machine

/-! ### Arithmetic, logic and the bit test (R264 to R268, R273, R437) -/

/-- Arithmetic, logic and the bit test are of read class (R264 to R268, R273, R437). -/
theorem readClass_of_alu {i : Instr} {l : List Mnem} (hl : l ⊆ [.adc, .sbc, .usbc, .and, .ora, .eor, .bit])
    (h : i.mnem ∈ l) : i.row.cls = .read := by
  have hrow : ∀ j : Instr,
      (!([Mnem.adc, .sbc, .usbc, .and, .ora, .eor, .bit].contains j.mnem) || j.row.cls == .read) = true := by
    intro j
    cases j <;> rfl
  have hi := hrow i
  rw [List.contains_iff_mem.mpr (hl h)] at hi
  exact beq_iff_eq.mp hi

/-- The programmer's view after a logic operation on the operand `v`. -/
def logicWith (n : Mnem) (v : Byte) (r : Regs) : Regs := { r with a := logicResult n r.a v }.withNZ (logicResult n r.a v)

/-- Settles O27: each logic operation is a read whose operation combines A with the operand. -/
theorem logic : Obligations.Logic := by
  intro i s hready hi
  obtain ⟨hr, hu⟩ := State.readyFor_iff.mp hready
  obtain ⟨hidx, hl⟩ := State.mayUse_sources hu
  have hcls : i.row.cls = .read := readClass_of_alu (by decide) hi
  have hq : sequenceOf i = mnemSequence i.mnem i.mode := rfl
  show Runs i s (s.ticksOf i) (fun t => VKept s t ∧ ∃ v, OperandRead s i t v ∧
    t.regs = logicWith i.mnem v { s.regs with pc := s.nextPC i } ∧ t.mem = s.mem)
  generalize i.mnem = n at hi hl hq ⊢
  simp only [List.mem_cons, List.not_mem_nil, or_false] at hi
  rcases hi with rfl | rfl | rfl
  · exact runs_read_result hq hcls (fun v => (readAnd_spec v).endsCalmly) hr hidx hl fun v u hm => by
      rw [readAnd, State.using_eq hm]; exact ⟨rfl, rfl⟩
  · exact runs_read_result hq hcls (fun v => (readOra_spec v).endsCalmly) hr hidx hl fun v u hm => by
      rw [readOra, State.using_eq hm]; exact ⟨rfl, rfl⟩
  · exact runs_read_result hq hcls (fun v => (readEor_spec v).endsCalmly) hr hidx hl fun v u hm => by
      rw [readEor, State.using_eq hm]; exact ⟨rfl, rfl⟩

/-- A read class instruction whose operation, on the registers before it, maps the programmer's view by `g v` and sets V to
`b v`. -/
theorem runs_read_setV {i : Instr} {rd : Byte → State → State} {l : List Source} {s : State} {g : Byte → Regs → Regs}
    {b : Byte → Bool} (hq : sequenceOf i = .read i.mode rd) (hcls : i.row.cls = .read) (hop : ∀ v, OpSpec l (rd v))
    (hready : s.ready = true) (hu : s.mayUse (indexSources i.mode) = true) (hl : s.mayUse l = true)
    (hg : ∀ v u, u.mayUse l = true → u.regs = { s.regs with pc := s.nextPC i } →
      (rd v u).regs = g v u.regs ∧ (rd v u).cpu.p.v = b v) :
    Runs i s (s.ticksOf i) (fun t => ∃ v, (OperandRead s i t v ∧ t.regs = g v { s.regs with pc := s.nextPC i } ∧
      t.mem = s.mem) ∧ t.cpu.p.v = b v) := by
  refine runs_read hq hcls (fun v => (hop v).endsCalmly) hready hu hl fun v u hk hpc hm hread => ?_
  have hf : OpFrame (u.setDATA v) (rd v (u.setDATA v)) := (hop v).frame _ hm
  have hregs : (u.setDATA v).regs = { s.regs with pc := s.nextPC i } := by rw [← hpc]; exact hk.toMoved.regs
  obtain ⟨hview, hv⟩ := hg v (u.setDATA v) hm hregs
  exact ⟨v, ⟨hread _ hf.bus, hview.trans (congrArg (g v) hregs), hf.mem.trans hk.mem⟩, hv⟩

/-- The programmer's view with the result and the flags of the adder or the subtracter, V apart. -/
def Regs.withAlu (r : Regs) (q : AluResult) : Regs := { r with a := q.value, c := q.c, n := q.n, z := q.z }

theorem State.setAlu_regs (u : State) (q : AluResult) : (u.setAlu q).regs = u.regs.withAlu q := by
  obtain ⟨ha, hx, hy, hs, hn, -, hub, hb, hd, hi, hz, hc, hf⟩ := u.setAlu_spec q
  simp only [State.regs, Regs.withAlu, ha, hx, hy, hs, hn, hub, hb, hd, hi, hz, hc, hf.pc]

/-- A read class instruction that gives A and the flags what `alu` computes from D, A, the operand and C. -/
theorem runs_alu {i : Instr} {rd : Byte → State → State} {alu : Bool → Byte → Byte → Bool → AluResult}
    {s : State} (hq : sequenceOf i = .read i.mode rd) (hcls : i.row.cls = .read) (hop : ∀ v, OpSpec [.a, .c, .d] (rd v))
    (hready : s.ready = true) (hu : s.mayUse (indexSources i.mode) = true) (hl : s.mayUse [.a, .c, .d] = true)
    (hrd : ∀ v u, rd v u = u.using [.a, .c, .d] fun u => u.setAlu (alu u.cpu.p.d u.cpu.a v u.cpu.p.c)) :
    Runs i s (s.ticksOf i) (fun t => ∃ v,
      let r := alu s.cpu.p.d s.cpu.a v s.cpu.p.c
      ReadResult s i t v { s.regs with a := r.value, c := r.c, n := r.n, z := r.z } ∧ t.cpu.p.v = r.v) := by
  refine runs_read_setV (g := fun v r => r.withAlu (alu s.cpu.p.d s.cpu.a v s.cpu.p.c)) hq hcls hop hready hu hl
    fun v u hm hregs => ?_
  have hd : u.cpu.p.d = s.cpu.p.d := congrArg Regs.d hregs
  have ha : u.cpu.a = s.cpu.a := congrArg Regs.a hregs
  have hc : u.cpu.p.c = s.cpu.p.c := congrArg Regs.c hregs
  rw [hrd, State.using_eq hm, hd, ha, hc]
  exact ⟨u.setAlu_regs _, rfl⟩

/-- Settles O26: ADC is a read through the adder, SBC and USBC are reads through the subtracter. -/
theorem addSubtract : Obligations.AddSubtract := by
  intro i s hready hi
  obtain ⟨hr, hu⟩ := State.readyFor_iff.mp hready
  obtain ⟨hidx, hl⟩ := State.mayUse_sources hu
  have hcls : i.row.cls = .read := readClass_of_alu (by decide) hi
  have hq : sequenceOf i = mnemSequence i.mnem i.mode := rfl
  generalize i.mnem = n at hi hl hq ⊢
  simp only [List.mem_cons, List.not_mem_nil, or_false] at hi
  rcases hi with rfl | rfl | rfl
  · exact runs_alu (alu := adcBy) hq hcls readAdc_spec hr hidx hl fun _ _ => rfl
  · exact runs_alu (alu := sbcBy) hq hcls readSbc_spec hr hidx hl fun _ _ => rfl
  · exact runs_alu (alu := sbcBy) hq hcls readUsbc_spec hr hidx hl fun _ _ => rfl

/-- Settles O29: BIT is a read whose operation moves two bits of the operand to N and V and tests it against A. -/
theorem bitTest : Obligations.BitTest := by
  intro i s hready hi
  obtain ⟨hr, hu⟩ := State.readyFor_iff.mp hready
  obtain ⟨hidx, hl⟩ := State.mayUse_sources hu
  have hcls : i.row.cls = .read := readClass_of_alu (by decide) (List.mem_singleton.mpr hi)
  have hq : sequenceOf i = mnemSequence i.mnem i.mode := rfl
  rw [hi] at hl hq
  refine runs_read_setV (g := fun v r => { r with n := v.getLsbD 7, z := (s.cpu.a &&& v) == 0 }) hq hcls readBit_spec hr
    hidx hl fun v u hm hregs => ?_
  have ha : u.cpu.a = s.cpu.a := congrArg Regs.a hregs
  rw [readBit, State.using_eq hm, ha]
  exact ⟨congrArg (fun r : Regs => { r with z := (s.cpu.a &&& v) == 0 }) (State.writeV_regs _ _), rfl⟩

end Sys2Proof.Machine

namespace Sys2Proof.Machine

/-! ### The binary adder and subtracter (R260, R262) -/

theorem bit_lt_two (c : Bool) : bit c < 2 := by cases c <;> decide

/-- A byte masked to its sign bit is not 0 exactly when the sign bit is set. -/
theorem and_signBit_ne_zero : ∀ x : Byte, ((x &&& 0x80) != 0) = x.msb := by decide

theorem adcBin_value (a v : Byte) (c : Bool) : (adcBin a v c).value.toNat = (a.toNat + v.toNat + bit c) % 256 :=
  BitVec.toNat_ofNat _ _

/-- V of the binary adder (R260): both operands have the sign that the result has not. -/
theorem adcBin_v (a v : Byte) (c : Bool) :
    (adcBin a v c).v = ((a.msb ^^ (adcBin a v c).value.msb) && (v.msb ^^ (adcBin a v c).value.msb)) := by
  show ((_ &&& _ &&& 0x80) != 0) = _
  rw [and_signBit_ne_zero, BitVec.msb_and, BitVec.msb_xor, BitVec.msb_xor]
  rfl

theorem adcBin_v_iff (a v : Byte) (c : Bool) :
    (adcBin a v c).v = true ↔ a.toInt + v.toInt + bit c < -128 ∨ 127 < a.toInt + v.toInt + bit c := by
  have ha := a.isLt
  have hv := v.isLt
  have hc := bit_lt_two c
  simp only [adcBin_v, Bool.and_eq_true, bne_iff_ne, ne_eq, BitVec.msb_eq_decide, decide_eq_decide, adcBin_value,
    BitVec.toInt_eq_toNat_cond]
  omega

theorem sbcBin_value (a v : Byte) (c : Bool) :
    ((sbcBin a v c).value.toNat : Int) = ((a.toNat : Int) - v.toNat - (1 - bit c)) % 256 := by
  show ((BitVec.ofInt 8 _).toNat : Int) = _
  rw [BitVec.toNat_ofInt]
  omega

theorem sbcBin_c (a v : Byte) (c : Bool) : (sbcBin a v c).c = decide (v.toNat + (1 - bit c) ≤ a.toNat) := by
  have hc := bit_lt_two c
  refine decide_eq_decide.mpr ?_
  omega

/-- V of the binary subtracter (R262): the operands differ in sign, and so do the first and the result. -/
theorem sbcBin_v (a v : Byte) (c : Bool) :
    (sbcBin a v c).v = ((a.msb ^^ v.msb) && (a.msb ^^ (sbcBin a v c).value.msb)) := by
  show ((_ &&& _ &&& 0x80) != 0) = _
  rw [and_signBit_ne_zero, BitVec.msb_and, BitVec.msb_xor, BitVec.msb_xor]
  rfl

theorem sbcBin_v_iff (a v : Byte) (c : Bool) : (sbcBin a v c).v = true ↔
    a.toInt - v.toInt - (1 - bit c) < -128 ∨ 127 < a.toInt - v.toInt - (1 - bit c) := by
  have ha := a.isLt
  have hv := v.isLt
  have hc := bit_lt_two c
  have hr := sbcBin_value a v c
  simp only [sbcBin_v, Bool.and_eq_true, bne_iff_ne, ne_eq, BitVec.msb_eq_decide, decide_eq_decide,
    BitVec.toInt_eq_toNat_cond]
  omega

/-- Settles O53: the results as numbers, and V by the signs of the operands and the result. -/
theorem binaryArithmetic : Obligations.BinaryArithmetic := fun a v c =>
  ⟨⟨adcBin_value a v c, rfl, rfl, adcBin_v_iff a v c, rfl, rfl⟩,
    ⟨sbcBin_value a v c, sbcBin_c a v c, rfl, sbcBin_v_iff a v c, rfl, rfl⟩⟩

end Sys2Proof.Machine

namespace Sys2Proof.Machine

/-! ### The decimal adder and subtracter (R261, R263) -/

/-- The low nibbles' sum after its correction (R261). -/
def decSumLow (a v : Byte) (c : Bool) : Nat :=
  let sum := a.toNat % 16 + v.toNat % 16 + bit c
  if 9 < sum then sum + 6 else sum

/-- The high nibbles' sum before its correction (R261). -/
def decSumMid (a v : Byte) (c : Bool) : Nat :=
  a.toNat / 16 * 16 + v.toNat / 16 * 16 + (if 0x0F < decSumLow a v c then 0x10 else 0)

/-- The high nibbles' sum after its correction (R261). -/
def decSumHigh (a v : Byte) (c : Bool) : Nat :=
  if 0x90 < decSumMid a v c then decSumMid a v c + 0x60 else decSumMid a v c

theorem decSumHigh_mod (a v : Byte) (c : Bool) : decSumHigh a v c % 16 = 0 := by
  have hmid : decSumMid a v c % 16 = 0 := by unfold decSumMid; split <;> omega
  unfold decSumHigh
  split <;> omega

/-- The low nibbles' difference before its correction (R263). -/
def decDiffLow (a v : Byte) (c : Bool) : Int := (a.toNat % 16 : Nat) - (v.toNat % 16 : Nat) - (1 - bit c)

/-- The high nibbles' difference before its correction (R263). -/
def decDiffMid (a v : Byte) (c : Bool) : Int :=
  (a.toNat / 16 * 16 : Nat) - (v.toNat / 16 * 16 : Nat) - (if decDiffLow a v c < 0 then 16 else 0)

/-- The `or` of a byte whose low nibble is 0 and a nibble is their sum. -/
theorem toNat_or_nibble {x y : Byte} (hx : x.toNat % 16 = 0) (hy : y.toNat < 16) :
    (x ||| y).toNat = x.toNat + y.toNat := by
  have hx : x.toNat = 2 ^ 4 * (x.toNat / 16) := by omega
  rw [BitVec.toNat_or, hx, Nat.two_pow_add_eq_or_of_lt hy]

theorem toNat_and_nibble (x : Byte) : (x &&& 0x0F).toNat = x.toNat % 16 :=
  (BitVec.toNat_and x 0x0F).trans (Nat.and_two_pow_sub_one_eq_mod _ 4)

/-- Such an `or` of two's-complement integers, the second masked to its low nibble (R263). -/
theorem toNat_ofInt_or_nibble {m : Int} (hm : m % 16 = 0) (n : Int) :
    ((BitVec.ofInt 8 m ||| (BitVec.ofInt 8 n &&& 0x0F)).toNat : Int) = m % 256 + n % 16 := by
  have hhigh : (BitVec.ofInt 8 m).toNat = (m % 256).toNat := BitVec.toNat_ofInt m
  have hlow : (BitVec.ofInt 8 n &&& 0x0F).toNat = (n % 256).toNat % 16 :=
    (toNat_and_nibble _).trans (congrArg (· % 16) (BitVec.toNat_ofInt n))
  rw [toNat_or_nibble (by omega) (by omega)]
  omega

/-- The adder by its nibble sums: N and V come from before the high nibbles' correction, the value and C from after it. -/
theorem adcDec_eq (a v : Byte) (c : Bool) : adcDec a v c =
    { value := BitVec.ofNat 8 (decSumHigh a v c) ||| BitVec.ofNat 8 (decSumLow a v c % 16)
      c := decide (0xFF < decSumHigh a v c)
      v := ((BitVec.ofNat 8 (decSumMid a v c) ^^^ a) &&& 0x80) != 0 && ((a ^^^ v) &&& 0x80) == 0
      n := (BitVec.ofNat 8 (decSumMid a v c)).msb
      z := decide ((a.toNat + v.toNat + bit c) % 256 = 0) } := by
  have hmid : decSumMid a v c = if 0x0F < decSumLow a v c then a.toNat / 16 * 16 + v.toNat / 16 * 16 + 0x10
      else a.toNat / 16 * 16 + v.toNat / 16 * 16 := by
    unfold decSumMid
    split <;> rfl
  unfold decSumHigh
  rw [hmid]
  rfl

theorem adcDec_value (a v : Byte) (c : Bool) :
    (adcDec a v c).value.toNat = decSumHigh a v c % 256 + decSumLow a v c % 16 := by
  have hmod := decSumHigh_mod a v c
  have hhigh : (BitVec.ofNat 8 (decSumHigh a v c)).toNat = decSumHigh a v c % 256 := BitVec.toNat_ofNat _ _
  have hlow : (BitVec.ofNat 8 (decSumLow a v c % 16)).toNat = decSumLow a v c % 16 :=
    (BitVec.toNat_ofNat _ _).trans (Nat.mod_eq_of_lt (by omega))
  rw [adcDec_eq]
  exact (toNat_or_nibble (by omega) (by omega)).trans (congrArg₂ (· + ·) hhigh hlow)

theorem adcDec_c (a v : Byte) (c : Bool) : (adcDec a v c).c = decide (0xFF < decSumHigh a v c) := by
  rw [adcDec_eq]

theorem msb_decSumMid (a v : Byte) (c : Bool) :
    (BitVec.ofNat 8 (decSumMid a v c)).msb = decide (128 ≤ decSumMid a v c % 256) := by
  rw [BitVec.msb_eq_decide, BitVec.toNat_ofNat]

theorem adcDec_n (a v : Byte) (c : Bool) : (adcDec a v c).n = decide (128 ≤ decSumMid a v c % 256) := by
  rw [adcDec_eq, msb_decSumMid]

theorem adcDec_v (a v : Byte) (c : Bool) :
    (adcDec a v c).v = (a.msb == v.msb && a.msb != decide (128 ≤ decSumMid a v c % 256)) := by
  have hsame : ((a ^^^ v) &&& 0x80 == 0) = !(a ^^^ v).msb := by rw [← and_signBit_ne_zero, bne, Bool.not_not]
  rw [adcDec_eq]
  dsimp only
  rw [and_signBit_ne_zero, hsame, BitVec.msb_xor, BitVec.msb_xor, msb_decSumMid]
  cases a.msb <;> cases v.msb <;> cases decide (128 ≤ decSumMid a v c % 256) <;> rfl

/-- The value of the subtracter by its nibble differences. -/
theorem sbcDec_value_eq (a v : Byte) (c : Bool) : (sbcDec a v c).value =
    BitVec.ofInt 8 (if decDiffMid a v c < 0 then decDiffMid a v c - 0x60 else decDiffMid a v c) |||
      (BitVec.ofInt 8 (if decDiffLow a v c < 0 then decDiffLow a v c - 6 else decDiffLow a v c) &&& 0x0F) := by
  have hmid : decDiffMid a v c =
      if decDiffLow a v c < 0 then ((a.toNat / 16 * 16 : Nat) : Int) - (v.toNat / 16 * 16 : Nat) - 0x10
      else ((a.toNat / 16 * 16 : Nat) : Int) - (v.toNat / 16 * 16 : Nat) := by
    unfold decDiffMid
    split
    · rfl
    · exact Int.sub_zero _
  rw [hmid]
  rfl

theorem sbcDec_value (a v : Byte) (c : Bool) : ((sbcDec a v c).value.toNat : Int) =
    (if decDiffMid a v c < 0 then decDiffMid a v c - 0x60 else decDiffMid a v c) % 256 +
      (if decDiffLow a v c < 0 then decDiffLow a v c - 6 else decDiffLow a v c) % 16 := by
  have hmid : decDiffMid a v c % 16 = 0 := by unfold decDiffMid; omega
  rw [sbcDec_value_eq]
  exact toNat_ofInt_or_nibble (by omega) _

/-! ### The decimal results on valid BCD (R274) -/

/-- The byte that stands for a number modulo 100 in BCD, as a number. -/
def bcdOf (n : Int) : Int := 16 * (n / 10 % 10) + n % 10

theorem bcdOf_congr {m n : Int} (h : m % 100 = n % 100) : bcdOf m = bcdOf n := by
  unfold bcdOf
  omega

theorem validBcd_iff (x : Byte) : validBcd x = true ↔ x.toNat / 16 ≤ 9 ∧ x.toNat % 16 ≤ 9 := by
  rw [validBcd, Bool.and_eq_true, decide_eq_true_iff, decide_eq_true_iff]

theorem decimal_le {x : Byte} (h : validBcd x = true) : decimal x ≤ 99 := by
  obtain ⟨hhigh, hlow⟩ := (validBcd_iff x).mp h
  unfold decimal
  omega

theorem bcdOf_decimal {x : Byte} (h : validBcd x = true) : bcdOf (decimal x) = x.toNat := by
  obtain ⟨hhigh, hlow⟩ := (validBcd_iff x).mp h
  unfold bcdOf decimal
  omega

theorem decimal_of_bcdOf {x : Byte} {n : Int} (h : x.toNat = bcdOf n) : (decimal x : Int) = n % 100 := by
  unfold bcdOf at h
  unfold decimal
  omega

theorem validBcd_of_bcdOf {x : Byte} {n : Int} (h : x.toNat = bcdOf n) : validBcd x = true := by
  rw [validBcd_iff]
  unfold bcdOf at h
  omega

section
variable {a v : Byte} (ha : validBcd a = true) (hv : validBcd v = true) (c : Bool)
include ha hv

/-- On valid BCD the high nibbles' sum is the tens of the decimal sum. -/
theorem decSum_of_validBcd : decSumLow a v c % 16 = (decimal a + decimal v + bit c) % 10 ∧
    decSumMid a v c = 16 * ((decimal a + decimal v + bit c) / 10) := by
  obtain ⟨ha1, ha0⟩ := (validBcd_iff a).mp ha
  obtain ⟨hv1, hv0⟩ := (validBcd_iff v).mp hv
  have hc := bit_lt_two c
  unfold decSumMid decSumLow decimal
  dsimp only
  split <;> split <;> omega

/-- On valid BCD the correction of the high nibble carries at 100. -/
theorem decSumHigh_of_validBcd :
    decSumHigh a v c % 256 = 16 * ((decimal a + decimal v + bit c) / 10 % 10) ∧
      (0xFF < decSumHigh a v c ↔ 100 ≤ decimal a + decimal v + bit c) := by
  obtain ⟨-, hmid⟩ := decSum_of_validBcd ha hv c
  have ha := decimal_le ha
  have hv := decimal_le hv
  have hc := bit_lt_two c
  unfold decSumHigh
  rw [hmid]
  split <;> omega

theorem adcDec_bcd : ((adcDec a v c).value.toNat : Int) = bcdOf (decimal a + decimal v + bit c) := by
  obtain ⟨hlow, -⟩ := decSum_of_validBcd ha hv c
  obtain ⟨hhigh, -⟩ := decSumHigh_of_validBcd ha hv c
  rw [adcDec_value, hlow, hhigh]
  unfold bcdOf
  omega

/-- On valid BCD the high nibbles' difference is the tens of the decimal difference. -/
theorem decDiff_of_validBcd :
    (if decDiffLow a v c < 0 then decDiffLow a v c - 6 else decDiffLow a v c) % 16 =
        ((decimal a : Int) - decimal v - (1 - bit c)) % 10 ∧
      decDiffMid a v c = 16 * (((decimal a : Int) - decimal v - (1 - bit c)) / 10) := by
  obtain ⟨ha1, ha0⟩ := (validBcd_iff a).mp ha
  obtain ⟨hv1, hv0⟩ := (validBcd_iff v).mp hv
  have hc := bit_lt_two c
  unfold decDiffMid decDiffLow decimal
  split <;> omega

theorem sbcDec_bcd : ((sbcDec a v c).value.toNat : Int) = bcdOf (decimal a - decimal v - (1 - bit c)) := by
  obtain ⟨hlow, hmid⟩ := decDiff_of_validBcd ha hv c
  have ha := decimal_le ha
  have hv := decimal_le hv
  have hc := bit_lt_two c
  rw [sbcDec_value, hlow, hmid]
  unfold bcdOf
  split <;> omega

theorem sbcDec_c_of_validBcd : (sbcDec a v c).c = decide (decimal v + (1 - bit c) ≤ decimal a) := by
  obtain ⟨ha1, ha0⟩ := (validBcd_iff a).mp ha
  obtain ⟨hv1, hv0⟩ := (validBcd_iff v).mp hv
  have hc := bit_lt_two c
  refine (sbcBin_c a v c).trans (decide_eq_decide.mpr ?_)
  unfold decimal
  omega

/-- On valid BCD a subtract with the opposite carry undoes an add (R274). -/
theorem sbcDec_adcDec : (sbcDec (adcDec a v c).value v (!c)).value = a := by
  have hsum := adcDec_bcd ha hv c
  refine BitVec.eq_of_toNat_eq (Int.ofNat.inj ?_)
  calc ((sbcDec (adcDec a v c).value v (!c)).value.toNat : Int)
      = bcdOf (decimal (adcDec a v c).value - decimal v - (1 - bit !c)) := sbcDec_bcd (validBcd_of_bcdOf hsum) hv _
    _ = bcdOf (decimal a) := by
        have hnot : (1 : Int) - bit (!c) = bit c := by cases c <;> rfl
        rw [decimal_of_bcdOf hsum, hnot]
        exact bcdOf_congr (by omega)
    _ = a.toNat := bcdOf_decimal ha

end

/-- Settles O55: the formulas by the nibble sums and differences, and these on valid BCD as the tens of decimal numbers. -/
theorem decimalArithmetic : Obligations.DecimalArithmetic := by
  intro a v c
  refine ⟨⟨rfl, rfl, rfl, rfl⟩, ⟨adcDec_value a v c, adcDec_c a v c, adcDec_n a v c, adcDec_v a v c, rfl⟩,
    ⟨sbcDec_value a v c, ?_, ?_, rfl, rfl, rfl, rfl⟩, fun ha hv => ⟨?_, ?_, decimal_of_bcdOf (sbcDec_bcd ha hv c),
      sbcDec_c_of_validBcd ha hv c, sbcDec_adcDec ha hv c⟩⟩
  · have hc := bit_lt_two c
    omega
  · have ha := a.isLt
    have hv := v.isLt
    split <;> omega
  · exact_mod_cast decimal_of_bcdOf (adcDec_bcd ha hv c)
  · exact (adcDec_c a v c).trans (decide_eq_decide.mpr (decSumHigh_of_validBcd ha hv c).2)

end Sys2Proof.Machine

namespace Sys2Proof.Machine

/-! ### Operations on a register (R300 to R310) -/

/-- The programmer's view after a shift or rotate of the accumulator. -/
def accumulatorShifted (n : Mnem) (r : Regs) : Regs :=
  { r with a := (shifted n r.a r.c).1, c := (shifted n r.a r.c).2 }.withNZ (shifted n r.a r.c).1

/-- An instruction with an accumulator form reads A and what its operation reads. -/
theorem State.mayUse_accumulator {s : State} {i : Instr} (h : s.mayUse (usesOf i) = true) (hacc : i.mode = .acc) :
    s.mayUse (.a :: mnemSources i.mnem) = true := by
  have huses : usesOf i = .a :: mnemSources i.mnem := by rw [usesOf, hacc]; rfl
  exact huses ▸ h

/-- A shift or rotate of the accumulator. -/
theorem runs_accumulator {i : Instr} {n : Mnem} {f : Byte → State → Byte × State} {l : List Source} {s : State}
    (hq : sequenceOf i = .implied (onAccumulator f)) (hop : ∀ v, OpSpec l (fun u => (f v u).2))
    (hready : s.ready = true) (hl : s.mayUse (.a :: l) = true)
    (hf : ∀ v u, u.mayUse l = true → f v u = shiftWith (shifted n v u.cpu.p.c) u) :
    Runs i s 2 (fun t => VKept s t ∧ t.mem = s.mem ∧
      t.regs = accumulatorShifted n { s.regs with pc := s.cpu.pc + 1 }) := by
  refine runs_implied_regs (g := accumulatorShifted n) hq (onAccumulator_spec hop).endsCalmly hready hl fun u hm => ?_
  obtain ⟨ha, hlu⟩ : u.mayUse [.a] = true ∧ u.mayUse l = true :=
    Bool.and_eq_true_iff.mp ((u.mayUse_append [.a] l).symm.trans hm)
  rw [onAccumulator, State.using_eq ha, hf u.cpu.a u hlu]
  exact ⟨rfl, rfl⟩

/-- Settles O31: the shifts are implied operations on A and C, the others on an index register. -/
theorem registerModify : Obligations.RegisterModify := by
  intro i s hready
  obtain ⟨hr, hu⟩ := State.readyFor_iff.mp hready
  have hq : sequenceOf i = mnemSequence i.mnem i.mode := rfl
  constructor
  · intro hacc
    have hi := accumulator_mnem hacc
    have hl := State.mayUse_accumulator hu hacc
    rw [hacc] at hq
    generalize i.mnem = n at hi hl hq ⊢
    simp only [List.mem_cons, List.not_mem_nil, or_false] at hi
    rcases hi with rfl | rfl | rfl | rfl
    · exact runs_accumulator (n := .asl) hq modifyAsl_spec hr hl fun v u _ =>
        congrArg (shiftWith · u) (aslByte_eq_shifted v u.cpu.p.c)
    · exact runs_accumulator (n := .lsr) hq modifyLsr_spec hr hl fun v u _ =>
        congrArg (shiftWith · u) (lsrByte_eq_shifted v u.cpu.p.c)
    · exact runs_accumulator (n := .rol) hq modifyRol_spec hr hl fun v u hm =>
        (rotateWith_eq hm _).trans (congrArg (shiftWith · u) (rolByte_eq_shifted v u.cpu.p.c))
    · exact runs_accumulator (n := .ror) hq modifyRor_spec hr hl fun v u hm =>
        (rotateWith_eq hm _).trans (congrArg (shiftWith · u) (rorByte_eq_shifted v u.cpu.p.c))
  · intro hi
    have hl := (State.mayUse_sources hu).2
    generalize i.mnem = n at hi hl hq ⊢
    simp only [List.mem_cons, List.not_mem_nil, or_false] at hi
    rcases hi with rfl | rfl | rfl | rfl
    · exact runs_implied_regs (g := stepped .inx) hq opInx_spec.endsCalmly hr hl fun u hm => by
        rw [opInx, State.using_eq hm]; exact ⟨rfl, rfl⟩
    · exact runs_implied_regs (g := stepped .iny) hq opIny_spec.endsCalmly hr hl fun u hm => by
        rw [opIny, State.using_eq hm]; exact ⟨rfl, rfl⟩
    · exact runs_implied_regs (g := stepped .dex) hq opDex_spec.endsCalmly hr hl fun u hm => by
        rw [opDex, State.using_eq hm]; exact ⟨rfl, rfl⟩
    · exact runs_implied_regs (g := stepped .dey) hq opDey_spec.endsCalmly hr hl fun u hm => by
        rw [opDey, State.using_eq hm]; exact ⟨rfl, rfl⟩

end Sys2Proof.Machine

namespace Sys2Proof.Machine

theorem Kept.peek {s t : State} {k : Nat} (h : Kept s t k) (a : Word) : t.peek a = s.peek a := by
  rw [State.peek, h.mem]
  rfl

/-! ### Sequences that end by loading PC (R340, R349, R350) -/

/-- PC is loaded in the last act of a sequence: the other registers are as calm ticks left them. -/
theorem Moved.regs_setPC {s u : State} {k : Nat} (h : Moved s (u.endTick .executed) k) (pc : Word) :
    ((u.setPC pc).finish.endTick .executed).regs = { s.regs with pc := pc } :=
  congrArg (fun r : Regs => { r with pc := pc }) h.regs

theorem Runs.imp {i : Instr} {s : State} {n : Nat} {P Q : State → Prop} (h : Runs i s n P) (hPQ : ∀ t, P t → Q t) :
    Runs i s n Q := by
  obtain ⟨t, he, hdone, hreq, ht⟩ := h
  exact ⟨t, he, hdone, hreq, hPQ t ht⟩

/-- An instruction whose last act, in the state `u`, loads PC, and which changes nothing else. -/
theorem runs_setPC {i : Instr} {s u : State} {n : Nat} {pc : Word} (hready : s.ready = true)
    (he : exec i s = State.outcome ((u.setPC pc).finish.endTick .executed))
    (hk : Kept s.clearLogs (u.endTick .executed) n) :
    Runs i s n (fun t => VKept s t ∧ t.mem = s.mem ∧ t.regs = { s.regs with pc := pc } ∧ t.bus = u.bus) :=
  runs_of_passed hready he (hk.toPassed.setPC pc).finish rfl ⟨hk.v, hk.mem, hk.regs_setPC pc, rfl⟩

/-- JMP and JSR keep the low byte of their operand first. -/
theorem runInstr_low (i : Instr) (q : Sequence) {s : State} (hc : Calm 8 s)
    (h2 : ∀ u : State, u.sq.cyc = 2 → q.micro u = .fetch .first (fun v t => (t.setLo v).nextCycle)) :
    ∃ t, runInstr i q s = (runSeq (Feed.ofInstr i) q 6 t).outcome ∧ Kept s.clearLogs t 2 ∧ t.cpu.pc = s.cpu.pc + 2 ∧
      t.sq.seq = .op ∧ t.sq.cyc = 3 ∧ t.sq.lo = operand1 i := by
  obtain ⟨t0, e0, k0, p0, q0⟩ := runInstr_start i q hc
  have c0 : Calm 7 t0 := k0.calm (n := 7) hc.clearLogs
  obtain ⟨d, t, e, k, p, hsq, -, -⟩ := runSeq_latch_fetch (Feed.ofInstr i) q 6 (s := t0) (c0.mono (by omega))
    (by rw [q0]; simp) (slot := .first) (act := fun v t => (t.setLo v).nextCycle)
    (l := fun v => { t0.sq with op1 := v, lo := v, cyc := 3 }) (fun u hu _ _ => h2 u (by rw [hu, q0]))
    (fun v u hu _ _ _ => by simp only [State.setLo, State.nextCycle, State.keepOperand, hu, q0])
    (fun v => by rw [q0]; simp)
  refine ⟨t, by rw [e0, e], k0.trans k, ?_, by rw [hsq, q0], by rw [hsq], by rw [hsq]; rfl⟩
  rw [p, p0, BitVec.add_assoc]
  rfl

/-! ### JMP (R349, R350) -/

theorem jmpAbs_runs (w : Word) {s : State} (hready : s.ready = true) :
    Runs (.jmpAbs w) s 3 (fun t => VKept s t ∧ t.mem = s.mem ∧ t.regs = { s.regs with pc := w }) := by
  have hc := State.ready_calm hready
  obtain ⟨t, e, k, -, hseq, hcyc, hlo⟩ := runInstr_low (.jmpAbs w) .jmpAbs hc
    (fun u hu => by simp only [Sequence.micro, jmpAbsCycle, hu])
  obtain ⟨d, u, e3, k3, -, hsq, -⟩ := runSeq_final_fetch (Feed.ofInstr (.jmpAbs w)) .jmpAbs 5 (s := t)
    ((k.calm (n := 6) hc.clearLogs).mono (by omega)) (by rw [hseq]; simp) (slot := .second)
    (act := fun v t => t.setPC (joinBytes v t.sq.lo))
    (fun u hu _ _ => by simp only [Sequence.micro, jmpAbsCycle, hu, hcyc]) (fun _ _ => ⟨rfl, rfl⟩)
  have hlow : u.sq.lo = lo w := by rw [hsq]; exact hlo
  have htarget : joinBytes ((Feed.ofInstr (.jmpAbs w)).pick .second d) u.sq.lo = w := by
    rw [hlow]
    exact joinBytes_hi_lo w
  rw [htarget] at e3
  exact (runs_setPC hready ((exec_eq _ s).trans (e.trans (congrArg State.outcome e3))) (k.trans k3)).imp
    fun t' ⟨hv, hmem, hregs, _⟩ => ⟨hv, hmem, hregs⟩

theorem jmpInd_runs (w : Word) {s : State} (hready : s.ready = true) :
    Runs (.jmpInd w) s 5 (fun t => VKept s t ∧ t.mem = s.mem ∧ ∃ l h,
      [.read w l, .read (joinBytes (hi w) (lo w + 1)) h] <:+ t.bus ∧ t.regs = { s.regs with pc := joinBytes h l } ∧
      (s.isStored w = true → l = s.peek w) ∧
      (s.isStored (joinBytes (hi w) (lo w + 1)) = true → h = s.peek (joinBytes (hi w) (lo w + 1)))) := by
  have hc := State.ready_calm hready
  obtain ⟨t, e, k, -, hseq, hcyc, hlo⟩ := runInstr_low (.jmpInd w) .jmpInd hc
    (fun u hu => by simp only [Sequence.micro, jmpIndCycle, hu])
  have ct : Calm 6 t := k.calm (n := 6) hc.clearLogs
  obtain ⟨d, t3, e3, k3, -, hsq3, -, -⟩ := runSeq_latch_fetch (Feed.ofInstr (.jmpInd w)) .jmpInd 5 (s := t)
    (ct.mono (by omega)) (by rw [hseq]; simp) (slot := .second)
    (act := fun v t => (t.setEA (joinBytes v t.sq.lo)).nextCycle)
    (l := fun v => { t.sq with op2 := v, ea := joinBytes v t.sq.lo, cyc := 4 })
    (fun u hu _ _ => by simp only [Sequence.micro, jmpIndCycle, hu, hcyc])
    (fun v u hu _ _ _ => by simp only [State.setEA, State.nextCycle, State.keepOperand, hu, hcyc])
    (fun v => by simp only [hseq]; simp)
  have hea : t3.sq.ea = w := by
    rw [hsq3]
    show joinBytes (hi w) t.sq.lo = w
    rw [hlo]
    exact joinBytes_hi_lo w
  have k3 := k.trans k3
  obtain ⟨l, t4, e4, k4, -, hsq4, hbus4, hl⟩ := runSeq_latch_read (Feed.ofInstr (.jmpInd w)) .jmpInd 4 (s := t3)
    ((k3.calm (n := 5) hc.clearLogs).mono (by omega)) (by rw [hsq3]; simp only [hseq]; simp) (addr := w)
    (act := fun d t => (t.setDATA d).nextCycle) (l := fun d => { t3.sq with data := d, cyc := 5 })
    (fun u hu _ _ => by simp only [Sequence.micro, jmpIndCycle, hu, hea, show t3.sq.cyc = 4 by rw [hsq3]])
    (fun d u hu _ _ _ => by simp only [State.setDATA, State.nextCycle, hu, show t3.sq.cyc = 4 by rw [hsq3]])
    (fun d => by simp only [hsq3, hseq]; simp)
  have k4 := k3.trans k4
  obtain ⟨h, u, e5, k5, -, hsq5, hbus5, hh⟩ := runSeq_final_read (Feed.ofInstr (.jmpInd w)) .jmpInd 3 (s := t4)
    ((k4.calm (n := 4) hc.clearLogs).mono (by omega)) (by rw [hsq4]; simp only [hsq3, hseq]; simp)
    (addr := samePageNext w) (act := fun d t => t.setPC (joinBytes d t.sq.data))
    (fun u hu _ _ => by simp only [Sequence.micro, jmpIndCycle, hu, hsq4, hea]) (fun _ _ => ⟨rfl, rfl⟩)
  rw [show u.sq.data = l by rw [hsq5, hsq4]] at e5
  refine (runs_setPC hready ((exec_eq _ s).trans (e.trans (by rw [e3, e4, e5]))) (k4.trans k5)).imp
    fun t' ⟨hv, hmem, hregs, hbus⟩ => ⟨hv, hmem, l, h, ?_, hregs, fun hw => ?_, fun hw => ?_⟩
  · exact ⟨t3.bus, by rw [hbus, hbus5, hbus4, List.append_assoc]; rfl⟩
  · exact (hl ((k3.isStored w).trans hw)).trans (k3.peek w)
  · exact (hh ((k4.isStored _).trans hw)).trans (k4.peek _)

/-- Settles O33: the target is fetched, or its bytes are read through the pointer. -/
theorem jumps : Obligations.Jumps := fun w _ hready => ⟨jmpAbs_runs w hready, jmpInd_runs w hready⟩

end Sys2Proof.Machine

namespace Sys2Proof.Machine

/-! ### Branches (R340 to R348) -/

/-- Device activity after calm ticks, in the tick that ends them. -/
theorem Kept.dev {s x y : State} {k : Nat} (h : Kept s (x.endTick .executed) k) (g : Dev x y) :
    Kept s (y.endTick .executed) k where
  toPassed := g.opFrame.passed h.toPassed
  a := g.cpu_a.trans h.a
  x := g.cpu_x.trans h.x
  y := g.cpu_y.trans h.y
  sp := g.cpu_s.trans h.sp
  n := g.cpu_p_n.trans h.n
  u := g.cpu_p_u.trans h.u
  b := g.cpu_p_b.trans h.b
  d := g.cpu_p_d.trans h.d
  i := g.cpu_p_i.trans h.i
  z := g.cpu_p_z.trans h.z
  c := g.cpu_p_c.trans h.c
  v := h.v.trans h.params g.v
  mem := g.mem.trans h.mem

/-- What the condition of a branch answers, V being as the V hook left it (R45, R341 to R348). -/
theorem cond_eq {n : Mnem} {m : Mode} {cond : State → Bool × State} (h : mnemSequence n m = .branch cond) {u : State}
    (hu : u.mayUse (mnemSources n) = true) : (cond u).1 = branchTaken n u.regs (cond u).2.cpu.p.v := by
  cases n <;> simp only [mnemSequence, reduceCtorEq, Sequence.branch.injEq] at h
  case nop | jmp | asl | lsr | rol | ror => split at h <;> simp only [reduceCtorEq] at h
  case bvc | bvs =>
    subst h
    have huses : u.readV.2.uses [.v] = u.onVAccess := State.uses_eq ((Dev.onVAccess u).mayUse hu)
    simp only [condBvc, condBvs, huses]
    rfl
  all_goals
    subst h
    rfl

theorem joinBytes_hi_eq {a b : Word} (h : hi a = hi b) : joinBytes (hi b) (lo a) = a := by
  rw [← h, joinBytes_hi_lo]

/-- A branch has fetched its offset `v` with the access `e` (R340). -/
def State.offsetFetched (s : State) (e : BusAccess) (v : Byte) : State :=
  { s.logBus e with cpu := s.incPC.cpu, sq := { s.sq with op1 := v, off := v } }

/-- A branch evaluates its condition: it goes on where it is taken (R340). -/
def State.branchOn (s : State) (cond : State → Bool × State) : State :=
  if (cond s).1 then (cond s).2.nextCycle else (cond s).2.finish

/-- The cycle of a branch that fetches its offset `v` and evaluates its condition, in the state `w` (R340). -/
theorem runSeq_offset (feed : Feed) {cond : State → Bool × State} (n : Nat) {t : State} (hc : Calm 0 t)
    (hseq : t.sq.seq = .op) (hcyc : t.sq.cyc = 2) {v : Byte} (hv : ∀ d, feed.pick .first d = v)
    (hcond : ∀ w : State, Kept t (w.endTick .executed) 1 → Dev w (cond w).2) :
    ∃ w : State, Kept t (w.endTick .executed) 1 ∧ w.cpu.pc = t.cpu.pc + 1 ∧ w.sq = { t.sq with op1 := v, off := v } ∧
      runSeq feed (.branch cond) (n + 1) t =
        if ((w.branchOn cond).endTick .executed).settled then (w.branchOn cond).endTick .executed
        else runSeq feed (.branch cond) n ((w.branchOn cond).endTick .executed) := by
  have hfetched : ∀ d u, Dev { t with half := .phi2 } u →
      Kept t ((u.offsetFetched (.read t.cpu.pc d) v).endTick .executed) 1 := fun d u hu =>
    hu.kept (.read t.cpu.pc d) (u.cpu.pc + 1) { u.sq with op1 := v, off := v }
  obtain ⟨d, u, hu, -, he⟩ := runSeq_fetch feed (.branch cond) n hc (by rw [hseq]; nofun) (slot := .first)
    (act := fun v t => State.branchOn { t with sq := { t.sq with off := v } } cond)
    (fun u hu _ _ => by simp only [Sequence.micro, branchCycle, State.branchOn, hu, hcyc])
    (fun d u hu => by
      have hdev := hcond _ (hfetched d u hu)
      rw [hv]
      show Stays u ((u.offsetFetched _ _).branchOn cond)
      unfold State.branchOn
      split <;> exact ⟨hdev.agenda, hdev.tick⟩)
  rw [hv] at he
  refine ⟨u.offsetFetched (.read t.cpu.pc d) v, hfetched d u hu, congrArg (· + 1) hu.cpu_pc, ?_, he⟩
  exact congrArg (fun l : Latches => { l with op1 := v, off := v }) hu.sq

theorem branchTaken_pc (n : Mnem) (r : Regs) (pc : Word) (v : Bool) :
    branchTaken n { r with pc := pc } v = branchTaken n r v := rfl

/-- A branch up to its condition, which the state `x` has evaluated. -/
theorem exec_branch {i : Instr} {cond : State → Bool × State} {s : State} (hq : sequenceOf i = .branch cond)
    (hc : Calm 8 s) (hl : s.mayUse (mnemSources i.mnem) = true) :
    ∃ x : State, Kept s.clearLogs (x.endTick .executed) 2 ∧ x.cpu.pc = s.cpu.pc + 2 ∧ x.sq.seq = .op ∧ x.sq.cyc = 2 ∧
      x.sq.off = operand1 i ∧
      exec i s = State.outcome (if branchTaken i.mnem s.regs x.cpu.p.v then
        runSeq (Feed.ofInstr i) (.branch cond) 6 (x.nextCycle.endTick .executed) else x.finish.endTick .executed) := by
  obtain ⟨t, e, k, p, hsq⟩ := runInstr_start i (.branch cond) hc
  have hmay : ∀ w : State, Kept t (w.endTick .executed) 1 → w.mayUse (mnemSources i.mnem) = true := fun w hw =>
    (k.trans hw).mayUse (s := s.clearLogs) hl
  obtain ⟨w, hw, hpc, hwsq, he⟩ := runSeq_offset (Feed.ofInstr i) (cond := cond) 6 (t := t)
    ((k.calm (n := 7) hc.clearLogs).mono (by omega)) (by rw [hsq]) (by rw [hsq]) (v := operand1 i) (fun _ => rfl)
    (fun w hw => cond_dev hq (hmay w hw))
  have hdev := cond_dev hq (hmay w hw)
  have htaken := cond_eq hq (hmay w hw)
  unfold State.branchOn at he
  generalize (cond w).2 = x at *
  have hx : Kept s.clearLogs (x.endTick .executed) 2 := (k.trans hw).dev hdev
  have hxsq := hdev.sq.trans hwsq
  have hregs : w.regs = { s.regs with pc := w.cpu.pc } := (k.trans hw).regs
  rw [hregs, branchTaken_pc] at htaken
  refine ⟨x, hx, ?_, by rw [hxsq, hsq], by rw [hxsq, hsq], by rw [hxsq], ?_⟩
  · rw [hdev.cpu_pc, hpc, p, BitVec.add_assoc]
    rfl
  · rw [exec_eq, hq, e, he]
    refine congrArg State.outcome ?_
    have hrun : x.stopped = none := (hx.sound ⟨hc.running, hc.lines⟩).1
    have hgo : (x.nextCycle.endTick .executed).settled = false := State.not_settled hrun (by
      show x.sq.seq ≠ _
      rw [hxsq, hsq]
      nofun)
    rw [htaken]
    split
    · rw [if_neg (by simp [hgo])]
    · rw [if_pos (State.settled_of_boundary rfl)]

/-- A taken branch computes its target and moves PC within its page (R340). -/
def State.branchTo (s : State) (target : Word) : State :=
  ({ s with sq := { s.sq with ea := target, cross := hi target != hi s.cpu.pc } }).setPC
    (joinBytes (hi s.cpu.pc) (lo target))

theorem Kept.branchTo {s u : State} {k : Nat} (h : Kept s (u.endTick .executed) k) (target : Word) :
    Kept s ((u.branchTo target).nextCycle.endTick .executed) k :=
  { h with sound := h.sound }

/-- The cycle of a taken branch that computes its target, in the state `u` (R340). -/
theorem runSeq_branchTo (feed : Feed) (cond : State → Bool × State) (n : Nat) {t : State} (hc : Calm 0 t)
    (hseq : t.sq.seq = .op) (hcyc : t.sq.cyc = 3) {target : Word} (htarget : target = t.cpu.pc + sext16 t.sq.off) :
    ∃ u : State, Kept t (u.endTick .executed) 1 ∧ u.cpu.pc = t.cpu.pc ∧ u.sq = t.sq ∧
      runSeq feed (.branch cond) (n + 1) t =
        if hi target = hi t.cpu.pc then (u.branchTo target).finish.endTick .executed
        else runSeq feed (.branch cond) n ((u.branchTo target).nextCycle.endTick .executed) := by
  obtain ⟨d, u, hu, -, he⟩ := runSeq_read feed (.branch cond) n hc (by rw [hseq]; nofun) (addr := t.cpu.pc)
    (act := fun _ t => if hi (t.cpu.pc + sext16 t.sq.off) != hi t.cpu.pc then
      (t.branchTo (t.cpu.pc + sext16 t.sq.off)).nextCycle else (t.branchTo (t.cpu.pc + sext16 t.sq.off)).finish)
    (fun u hu hpc _ => by simp only [Sequence.micro, branchCycle, State.branchTo, MicroOp.discard, hu, hcyc, hpc])
    (fun d u _ => by split <;> exact ⟨rfl, rfl⟩)
  have hk : Kept t ((u.logBus (.read t.cpu.pc d)).endTick .executed) 1 := hu.kept (.read t.cpu.pc d) u.cpu.pc u.sq
  have hpc : (u.logBus (.read t.cpu.pc d)).cpu.pc = t.cpu.pc := hu.cpu_pc
  have hsq : (u.logBus (.read t.cpu.pc d)).sq = t.sq := hu.sq
  generalize u.logBus (.read t.cpu.pc d) = w at *
  rw [hpc, hsq, ← htarget] at he
  refine ⟨w, hk, hpc, hsq, he.trans ?_⟩
  by_cases hpage : hi target = hi t.cpu.pc
  · rw [if_pos hpage, if_neg (c := (hi target != hi t.cpu.pc) = true) (by simp [hpage])]
    exact if_pos (State.settled_of_boundary rfl)
  · rw [if_neg hpage, if_pos (c := (hi target != hi t.cpu.pc) = true) (by simp [hpage])]
    refine if_neg (State.not_settled_iff.mpr ⟨(hk.sound ⟨hc.running, hc.lines⟩).1, ?_⟩)
    show w.sq.seq ≠ _
    rw [hsq, hseq]
    nofun

/-- The cycles of a taken branch (R340): one to the same page, two to another. -/
theorem runSeq_taken (feed : Feed) (cond : State → Bool × State) {t : State} (hc : Calm 2 t) (hseq : t.sq.seq = .op)
    (hcyc : t.sq.cyc = 3) {target : Word} (htarget : target = t.cpu.pc + sext16 t.sq.off) :
    ∃ u : State, runSeq feed (.branch cond) 6 t = (u.setPC target).finish.endTick .executed ∧
      Kept t (u.endTick .executed) (if hi target = hi t.cpu.pc then 1 else 2) := by
  obtain ⟨u, k, p, hsq, e⟩ := runSeq_branchTo feed cond 5 (hc.mono (by omega)) hseq hcyc htarget
  rw [e]
  by_cases hpage : hi target = hi t.cpu.pc
  · refine ⟨{ u with sq := (u.branchTo target).sq }, ?_, ?_⟩
    · rw [if_pos hpage, State.branchTo, p, joinBytes_hi_eq hpage]
      rfl
    · rw [if_pos hpage]
      exact k.latched _
  · have k3 : Kept t ((u.branchTo target).nextCycle.endTick .executed) 1 := k.branchTo target
    obtain ⟨-, w, e4, k4, -, hsq4, -⟩ := runSeq_final_read feed (.branch cond) 4
      (s := (u.branchTo target).nextCycle.endTick .executed) ((k3.calm hc).mono (by omega))
      (by show u.sq.seq ≠ _; rw [hsq, hseq]; nofun) (addr := (u.branchTo target).cpu.pc)
      (act := fun _ t => t.setPC t.sq.ea)
      (fun x hx hpc _ => by
        have hcycx : x.sq.cyc = 4 := by
          rw [hx]
          show u.sq.cyc + 1 = 4
          rw [hsq, hcyc]
        simp only [Sequence.micro, branchCycle, hcycx, MicroOp.discard]
        exact congrArg (MicroOp.read · _) hpc)
      (fun _ _ => ⟨rfl, rfl⟩)
    refine ⟨w, ?_, ?_⟩
    · rw [if_neg hpage, e4, hsq4]
      rfl
    · rw [if_neg hpage]
      exact k3.trans k4

/-- A branch whose condition has seen V as `v` (R340). -/
theorem branch_runs {i : Instr} {s : State} (hready : s.ready = true) (hl : s.mayUse (mnemSources i.mnem) = true)
    (hrel : i.mode = .rel) : ∃ v, VSeen s v ∧ Runs i s (s.branchTicks i (branchTaken i.mnem s.regs v)) (fun t =>
      VKept s t ∧ t.mem = s.mem ∧ t.regs = { s.regs with
        pc := if branchTaken i.mnem s.regs v then s.branchTarget i else s.cpu.pc + 2 }) := by
  have hc := State.ready_calm hready
  obtain ⟨cond, hq⟩ := sequenceOf_branch hrel
  obtain ⟨x, k, p, hseq, hcyc, hoff, he⟩ := exec_branch hq hc hl
  refine ⟨x.cpu.p.v, k.v, ?_⟩
  have hend : ∀ {u : State} {n : Nat} {pc : Word}, exec i s = State.outcome ((u.setPC pc).finish.endTick .executed) →
      Kept s.clearLogs (u.endTick .executed) n →
      Runs i s n (fun t => VKept s t ∧ t.mem = s.mem ∧ t.regs = { s.regs with pc := pc }) := fun he hk =>
    (runs_setPC hready he hk).imp fun t ⟨hv, hmem, hregs, _⟩ => ⟨hv, hmem, hregs⟩
  rw [State.branchTicks]
  cases htaken : branchTaken i.mnem s.regs x.cpu.p.v with
  | false =>
    rw [if_neg (by simp [htaken])] at he
    exact p ▸ hend (u := x) (pc := x.cpu.pc) he k
  | true =>
    rw [if_pos htaken] at he
    have k3 : Kept s.clearLogs (x.nextCycle.endTick .executed) 2 := k.latched x.nextCycle.sq
    obtain ⟨u, e, ku⟩ := runSeq_taken (Feed.ofInstr i) cond ((k3.calm (n := 6) hc.clearLogs).mono (by omega)) hseq
      (congrArg (· + 1) hcyc) (target := s.branchTarget i) (by rw [State.branchTarget, ← p, ← hoff]; rfl)
    have hpc : (x.nextCycle.endTick .executed).cpu.pc = s.cpu.pc + 2 := p
    rw [hpc] at ku
    have hticks : (if hi (s.branchTarget i) = hi (s.cpu.pc + 2) then 3 else 4) =
        2 + if hi (s.branchTarget i) = hi (s.cpu.pc + 2) then 1 else 2 := by split <;> rfl
    rw [if_pos rfl, if_pos rfl, hticks]
    exact hend (he.trans (congrArg State.outcome e)) (k3.trans ku)

/-- Settles O32: the condition, then the cycles of a taken branch. -/
theorem branches : Obligations.Branches := by
  intro i s hready hrel
  obtain ⟨hr, hu⟩ := State.readyFor_iff.mp hready
  exact branch_runs hr (State.mayUse_sources hu).2 hrel

end Sys2Proof.Machine

namespace Sys2Proof.Machine

/-! ### Memory after a list of writes (R80) -/

theorem State.afterWrites_append (s : State) (l m : List (Word × Byte)) :
    s.afterWrites (l ++ m) = State.afterWrites { s with mem := s.afterWrites l } m := List.foldl_append

/-- Writes after writes, under the same memory map. -/
theorem State.afterWrites_trans {s t : State} {l : List (Word × Byte)} (hm : t.mem = s.afterWrites l)
    (hp : t.params = s.params) (m : List (Word × Byte)) : t.afterWrites m = s.afterWrites (l ++ m) := by
  rw [State.afterWrites_append]
  simp only [State.afterWrites, hm, State.isRam_of_params (s := s) hp]
  rfl

theorem State.afterWrites_wf {s : State} (h : Memory.wf s.mem = true) (l : List (Word × Byte)) :
    Memory.wf (s.afterWrites l) = true := by
  induction l generalizing s with
  | nil => exact h
  | cons w l ih =>
    rw [← List.singleton_append, State.afterWrites_append]
    refine ih ?_
    show Memory.wf (if s.isRam w.1 = true then Memory.write s.mem w.1.toNat w.2 else s.mem) = true
    split
    · exact Memory.write_wf s.mem w.1 w.2 h
    · exact h

/-- An address that no write goes to holds its byte. -/
theorem State.read_afterWrites_other {s : State} {a : Word} {l : List (Word × Byte)} (h : ∀ w ∈ l, a ≠ w.1) :
    Memory.read (s.afterWrites l) a.toNat = s.peek a := by
  induction l generalizing s with
  | nil => rfl
  | cons w l ih =>
    rw [← List.singleton_append, State.afterWrites_append, ih fun x hx => h x (List.mem_cons_of_mem w hx)]
    exact State.read_afterWrites (h w List.mem_cons_self) w.2

/-- The byte of the last write to an address of RAM. -/
theorem State.read_afterWrites_last {s : State} {a : Word} {v : Byte} (hwf : Memory.wf s.mem = true)
    (hram : s.isRam a = true) (l : List (Word × Byte)) {m : List (Word × Byte)} (h : ∀ w ∈ m, a ≠ w.1) :
    Memory.read (s.afterWrites (l ++ (a, v) :: m)) a.toNat = v := by
  rw [← List.singleton_append, ← List.append_assoc, State.afterWrites_append, State.read_afterWrites_other h]
  show Memory.read (s.afterWrites (l ++ [(a, v)])) a.toNat = v
  rw [State.afterWrites_append, State.afterWrites_ram (s := { s with mem := s.afterWrites l }) hram]
  exact Memory.read_write_same _ _ _ _ (State.afterWrites_wf hwf l)

/-! ### The stack page (R33) -/

theorem stackAt_eq_joinBytes (b : Byte) : stackAt b = joinBytes 1 b := rfl

theorem stackAt_injective {a b : Byte} (h : stackAt a = stackAt b) : a = b := by
  rw [← lo_joinBytes 1 a, ← stackAt_eq_joinBytes, h, stackAt_eq_joinBytes, lo_joinBytes]

/-- The vectors lie outside the stack page. -/
theorem ne_stackAt {a : Word} (h : 0xFFFA ≤ a.toNat) (b : Byte) : a ≠ stackAt b := by
  rintro rfl
  have hb := b.isLt
  rw [stackAt_eq_joinBytes, toNat_joinBytes, show (1 : Byte).toNat = 1 from rfl] at h
  omega

/-! ### Pushes that go on (R33) -/

/-- A calm tick whose micro-op is a push that goes on. The value is pushed in the state `u`. -/
theorem runSeq_next_push (feed : Feed) (q : Sequence) (n : Nat) {s : State} (hc : Calm 0 s) (hq : s.sq.seq ≠ .boundary)
    {value : State → Byte} {post : State → State} (hm : ∀ u : State, u.sq = s.sq → q.micro u = .push id value post)
    (hpost : ∀ w : State, Stays w (post w) ∧ (post w).sq.seq = w.sq.seq ∧ (w.sound → (post w).sound)) :
    ∃ u, Dev { s with half := .phi2 } u ∧
      runSeq feed q (n + 1) s = runSeq feed q n ((post (u.pushedByte (value u))).endTick .executed) := by
  obtain ⟨u, hu, e⟩ := runSeq_push feed q n hc hq (fun u hu _ _ => hm u hu) (fun u _ => Dev.refl u)
    (fun w => (hpost w).1)
  obtain ⟨-, hseq, hsound⟩ := hpost (u.pushedByte (value u))
  refine ⟨u, hu, e.trans (if_neg (State.not_settled_iff.mpr ⟨(hsound (hu.sound ⟨hc.running, hc.lines⟩)).1, ?_⟩))⟩
  rw [hseq]
  show u.sq.seq ≠ _
  rw [hu.sq]
  exact hq

/-- A push that goes on with the next cycle. -/
theorem runSeq_push_next (feed : Feed) (q : Sequence) (n : Nat) {s : State} (hc : Calm 0 s) (hq : s.sq.seq ≠ .boundary)
    {value : State → Byte} {v : Byte} (hm : ∀ u : State, u.sq = s.sq → q.micro u = .push id value State.nextCycle)
    (hv : ∀ u : State, u.cpu.pc = s.cpu.pc → value u = v) :
    ∃ t, runSeq feed q (n + 1) s = runSeq feed q n t ∧ Moved (s.setS (s.cpu.s - 1)) t 1 ∧ t.cpu.pc = s.cpu.pc ∧
      t.sq = { s.sq with cyc := s.sq.cyc + 1 } ∧ t.irq.nmiLat = s.irq.nmiLat.executed ∧
      t.mem = s.afterWrites [(stackAt s.cpu.s, v)] := by
  obtain ⟨u, hu, e⟩ := runSeq_next_push feed q n hc hq hm (fun _ => ⟨⟨rfl, rfl⟩, rfl, id⟩)
  have hpc : u.cpu.pc = s.cpu.pc := hu.cpu_pc
  rw [hv u hpc] at e
  refine ⟨_, e, (hu.pushed v).latched { u.sq with cyc := u.sq.cyc + 1 }, hpc, ?_, ?_, hu.pushed_mem hc.pages v⟩
  · exact congrArg (fun l : Latches => { l with cyc := l.cyc + 1 }) hu.sq
  · exact congrArg Lat.executed hu.irq_nmiLat

/-! ### JSR (R351) -/

/-- JSR up to its pushes of the address of its last byte. -/
theorem jsr_pushes (w : Word) {s : State} (hc : Calm 8 s) :
    ∃ t, runInstr (.jsr w) .jsr s = (runSeq (Feed.ofInstr (.jsr w)) .jsr 3 t).outcome ∧
      Moved (s.clearLogs.setS (s.cpu.s - 2)) t 5 ∧ t.sq.seq = .op ∧ t.sq.cyc = 6 ∧ t.sq.lo = lo w ∧
      t.mem = s.afterWrites [(stackAt s.cpu.s, hi (s.cpu.pc + 2)), (stackAt (s.cpu.s - 1), lo (s.cpu.pc + 2))] := by
  obtain ⟨t2, e2, k2, p2, hseq, hcyc, hlo⟩ := runInstr_low (.jsr w) .jsr hc
    (fun u hu => by simp only [Sequence.micro, jsrCycle, hu])
  have c2 : Calm 6 t2 := k2.calm (n := 6) hc.clearLogs
  obtain ⟨-, t3, e3, k3, p3, hsq3, -, -⟩ := runSeq_latch_read (Feed.ofInstr (.jsr w)) .jsr 5 (s := t2)
    (c2.mono (by omega)) (by rw [hseq]; nofun) (addr := t2.stackAddr) (act := fun _ => State.nextCycle)
    (l := fun _ => { t2.sq with cyc := 4 })
    (fun u hu _ hs => by simp only [Sequence.micro, jsrCycle, hu, hcyc, State.stackAddr, hs, MicroOp.discard])
    (fun _ u hu _ _ _ => by simp only [State.nextCycle, hu, hcyc]) (fun _ => by simp only [hseq]; nofun)
  have k3 := k2.trans k3
  have c3 : Calm 5 t3 := k3.calm (n := 5) hc.clearLogs
  have hs3 : t3.cpu.s = s.cpu.s := k3.sp
  have hpc3 : t3.cpu.pc = s.cpu.pc + 2 := p3.trans p2
  obtain ⟨t4, e4, k4, p4, hsq4, -, hmem4⟩ := runSeq_push_next (Feed.ofInstr (.jsr w)) .jsr 4 (s := t3)
    (c3.mono (by omega)) (by rw [hsq3]; simp only [hseq]; nofun) (value := fun t => hi t.cpu.pc)
    (v := hi (s.cpu.pc + 2)) (fun u hu => by simp only [Sequence.micro, jsrCycle, hu, hsq3])
    (fun u hu => by rw [hu, hpc3])
  have k4 := (k3.toMoved.setS (t3.cpu.s - 1)).trans k4
  have c4 : Calm 4 t4 := k4.toPassed.of_setS.calm (n := 4) hc.clearLogs
  have hs4 : t4.cpu.s = s.cpu.s - 1 := k4.sp.trans (congrArg (· - 1) hs3)
  have hmem4 := hmem4.trans (State.afterWrites_trans (l := []) k3.mem k3.params _)
  obtain ⟨t5, e5, k5, -, hsq5, -, hmem5⟩ := runSeq_push_next (Feed.ofInstr (.jsr w)) .jsr 3 (s := t4)
    (c4.mono (by omega)) (by rw [hsq4, hsq3]; simp only [hseq]; nofun) (value := fun t => lo t.cpu.pc)
    (v := lo (s.cpu.pc + 2)) (fun u hu => by simp only [Sequence.micro, jsrCycle, hu, hsq4, hsq3])
    (fun u hu => by rw [hu, p4.trans hpc3])
  have k5 := (k4.setS (t4.cpu.s - 1)).trans k5
  have hmem5 := hmem5.trans (State.afterWrites_trans hmem4 k4.params _)
  rw [hs3, hs4] at hmem5
  rw [show t4.cpu.s - 1 = s.cpu.s - 2 by rw [hs4]; bv_omega] at k5
  exact ⟨t5, by rw [e2, e3, e4, e5], k5, by rw [hsq5, hsq4, hsq3, hseq], by rw [hsq5, hsq4, hsq3],
    by rw [hsq5, hsq4, hsq3]; exact hlo, hmem5⟩

theorem jsr_runs (w : Word) {s : State} (hready : s.ready = true) : Runs (.jsr w) s 6 (fun t => VKept s t ∧
    t.regs = { s.regs with pc := w, s := s.cpu.s - 2 } ∧
    t.mem = s.afterWrites [(stackAt s.cpu.s, hi (s.cpu.pc + 2)), (stackAt (s.cpu.s - 1), lo (s.cpu.pc + 2))]) := by
  have hc := State.ready_calm hready
  obtain ⟨t, e, k, hseq, hcyc, hlo, hmem⟩ := jsr_pushes w hc
  obtain ⟨d, u, e6, k6, -, hsq, -⟩ := runSeq_final_fetch (Feed.ofInstr (.jsr w)) .jsr 2 (s := t)
    ((k.toPassed.of_setS.calm (n := 3) hc.clearLogs).mono (by omega)) (by rw [hseq]; nofun) (slot := .second)
    (act := fun v t => t.setPC (joinBytes v t.sq.lo))
    (fun u hu _ _ => by simp only [Sequence.micro, jsrCycle, hu, hcyc]) (fun _ _ => ⟨rfl, rfl⟩)
  have hlow : u.sq.lo = lo w := by rw [hsq]; exact hlo
  have htarget : joinBytes ((Feed.ofInstr (.jsr w)).pick .second d) u.sq.lo = w := by
    rw [hlow]
    exact joinBytes_hi_lo w
  rw [htarget] at e6
  have hall := k.trans k6.toMoved
  exact runs_of_passed hready ((exec_eq _ s).trans (e.trans (congrArg State.outcome e6)))
    (hall.toPassed.of_setS.setPC w).finish rfl ⟨hall.v, hall.regs_setPC w, k6.mem.trans hmem⟩

/-! ### RTS (R353) -/

theorem Kept.setPC {s u : State} {k : Nat} (h : Kept s (u.endTick .executed) k) (pc : Word) :
    Kept s ((u.setPC pc).endTick .executed) k :=
  { h with sound := h.sound }

/-- RTS up to the pull of PC. -/
theorem rts_pulls {s : State} (hc : Calm 8 s) :
    ∃ t, runInstr .rts .rts s = (runSeq (Feed.ofInstr .rts) .rts 3 t).outcome ∧
      Kept (s.clearLogs.setS (s.cpu.s + 2)) t 5 ∧ t.sq.seq = .op ∧ t.sq.cyc = 6 ∧
      t.cpu.pc = joinBytes (s.peek (stackAt (s.cpu.s + 2))) (s.peek (stackAt (s.cpu.s + 1))) := by
  obtain ⟨t3, e3, k3, -, hseq3, hcyc3⟩ := runInstr_raiseS .rts .rts hc
    (fun u hu => by simp only [Sequence.micro, rtsCycle, hu]) (fun u hu => by simp only [Sequence.micro, rtsCycle, hu])
  have c3 : Calm 5 t3 := k3.toPassed.of_setS.calm (n := 5) hc.clearLogs
  have hs3 : t3.cpu.s = s.cpu.s + 1 := k3.sp
  obtain ⟨l, t4, e4, k4, -, hsq4, hl⟩ := runSeq_stack_read (Feed.ofInstr .rts) .rts 4 (s := t3) (c3.mono (by omega))
    (by rw [hseq3]; nofun) (· + 1) (act := fun d t => (t.setLo d).incS.nextCycle)
    (l := fun d k => { k with lo := d, cyc := k.cyc + 1 })
    (fun u hu => by simp only [Sequence.micro, rtsCycle, hu, hcyc3]) (fun _ _ => rfl) (fun _ _ => rfl)
  have k4 := (k3.setS (t3.cpu.s + 1)).trans k4
  rw [show t3.cpu.s + 1 = s.cpu.s + 2 by rw [hs3]; bv_omega] at k4
  have k4 : Kept (s.clearLogs.setS (s.cpu.s + 2)) t4 4 := k4
  have c4 : Calm 4 t4 := k4.toPassed.of_setS.calm (n := 4) hc.clearLogs
  obtain ⟨h, u, e5, k5, -, hsq5, hh⟩ := runSeq_next_read (Feed.ofInstr .rts) .rts 3 (s := t4) (c4.mono (by omega))
    (by rw [hsq4]; simp only [hseq3]; nofun) (addr := t4.stackAddr)
    (act := fun d t => (t.setPC (joinBytes d t.sq.lo)).nextCycle)
    (fun u hu _ hs => by simp only [Sequence.micro, rtsCycle, hu, hsq4, hcyc3, State.stackAddr, hs])
    (fun _ _ => ⟨⟨rfl, rfl⟩, rfl, id⟩)
  have hsq5 := hsq5.trans hsq4
  have hlow : l = s.peek (stackAt (s.cpu.s + 1)) := by
    rw [hl, hs3]
    exact k3.peek _
  have hhigh : h = s.peek (stackAt (s.cpu.s + 2)) := by
    rw [hh (State.isStored_stack c4.pages t4.cpu.s), show t4.stackAddr = stackAt (s.cpu.s + 2) from congrArg stackAt k4.sp]
    exact k4.peek _
  refine ⟨_, e3.trans (congrArg State.outcome (e4.trans e5)),
    k4.trans ((k5.setPC (joinBytes h u.sq.lo)).latched (State.nextCycle u).sq), ?_, ?_, ?_⟩
  · exact (congrArg Latches.seq hsq5).trans hseq3
  · exact (congrArg (·.cyc + 1) hsq5).trans (by rw [hcyc3])
  · show joinBytes h u.sq.lo = _
    rw [hsq5, hlow, hhigh]

theorem rts_runs {s : State} (hready : s.ready = true) : Runs .rts s 6 (fun t => VKept s t ∧ t.mem = s.mem ∧
    t.regs = { s.regs with
      pc := joinBytes (s.peek (stackAt (s.cpu.s + 2))) (s.peek (stackAt (s.cpu.s + 1))) + 1
      s := s.cpu.s + 2 }) := by
  have hc := State.ready_calm hready
  obtain ⟨t, e, k, hseq, hcyc, hpc⟩ := rts_pulls hc
  obtain ⟨-, u, e6, k6, p6, -, -, -⟩ := runSeq_final_read (Feed.ofInstr .rts) .rts 2 (s := t)
    ((k.toPassed.of_setS.calm (n := 3) hc.clearLogs).mono (by omega)) (by rw [hseq]; nofun) (addr := t.cpu.pc)
    (act := fun _ t => t.incPC)
    (fun u hu hpc _ => by simp only [Sequence.micro, rtsCycle, hu, hcyc, hpc, MicroOp.discard]) (fun _ _ => ⟨rfl, rfl⟩)
  have hall := k.trans k6
  rw [← hpc, ← p6]
  exact runs_of_passed hready ((exec_eq _ s).trans (e.trans (congrArg State.outcome e6)))
    (hall.toPassed.of_setS.setPC (u.cpu.pc + 1)).finish rfl ⟨hall.v, hall.mem, hall.toMoved.regs_setPC (u.cpu.pc + 1)⟩

/-- Settles O34: JSR pushes between the bytes of its operand, RTS pulls PC and steps over JSR's last byte. -/
theorem subroutines : Obligations.Subroutines := fun w _ hready => ⟨jsr_runs w hready, rts_runs hready⟩

/-! ### RTS after JSR -/

/-- A machine that has completed is ready again while no host call is due. -/
theorem Completed.ready {s t : State} {n : Nat} (h : Completed s t n) (hready : s.ready = true)
    (hq : s.quietFor (8 + n) = true) : t.ready = true := by
  have hc := State.ready_calm hready
  have hpages : t.plainPages = true := by
    rw [State.plainPages, h.params]
    exact hc.pages
  have hquiet : t.quietFor 8 = true := by
    simp only [State.quietFor, h.agenda, h.tick, List.all_eq_true, decide_eq_true_eq] at hq ⊢
    intro d hd
    have := hq d hd
    omega
  simp [State.ready, State.running, h.running, h.hold, h.lines, hquiet, hpages]

/-- An instruction has one outcome. -/
theorem Runs.of_exec {i : Instr} {s t : State} {n : Nat} {P : State → Prop} (h : Runs i s n P)
    (he : exec i s = .next t) : Completed s t n ∧ RequestsKept s t ∧ P t := by
  obtain ⟨u, hu, hdone⟩ := h
  cases hu.symm.trans he
  exact hdone

/-- Settles O35: the word that JSR pushes is the one that RTS pulls. -/
theorem callThenReturn : Obligations.CallThenReturn := by
  intro w s t hwf hready hquiet he
  obtain ⟨hdone, -, hv, hregs, hmem⟩ := (jsr_runs w hready).of_exec he
  have hs : t.cpu.s = s.cpu.s - 2 := congrArg Regs.s hregs
  have hs1 : t.cpu.s + 1 = s.cpu.s - 1 := by rw [hs]; bv_omega
  have hs2 : t.cpu.s + 2 = s.cpu.s := by rw [hs]; bv_omega
  have hpages := (State.ready_calm hready).pages
  have hlow : t.peek (stackAt (t.cpu.s + 1)) = lo (s.cpu.pc + 2) := by
    rw [State.peek, hmem, hs1]
    exact State.read_afterWrites_last hwf (State.isRam_stackAt hpages _) [(stackAt s.cpu.s, hi (s.cpu.pc + 2))] (m := [])
      nofun
  have hhigh : t.peek (stackAt (t.cpu.s + 2)) = hi (s.cpu.pc + 2) := by
    rw [State.peek, hmem, hs2]
    refine State.read_afterWrites_last hwf (State.isRam_stackAt hpages _) [] (List.forall_mem_singleton.mpr fun h => ?_)
    have := stackAt_injective h
    bv_omega
  refine (rts_runs (hdone.ready hready hquiet)).imp fun u ⟨hvu, hmemu, hregsu⟩ => ⟨?_, hv.trans hdone.params hvu, hmemu⟩
  rw [hregsu, hlow, hhigh, hs2, joinBytes_hi_lo, hregs, BitVec.add_assoc]
  rfl

end Sys2Proof.Machine

namespace Sys2Proof.Machine

/-! ### The vector of an IRQ or BRK sequence (R485) -/

/-- An NMI request that can take the vector over is consumed (R485). -/
def State.takeOver (s : State) : State :=
  { s with irq := { s.irq with nmiPending := s.irq.nmiPending && !s.params.vectorHijack } }

theorem Moved.takeOver {s t : State} {k : Nat} (h : Moved s t k) : Moved s.takeOver t.takeOver k :=
  { h with
    nmiPending := by
      show (t.irq.nmiPending && !t.params.vectorHijack) = (s.irq.nmiPending && !s.params.vectorHijack)
      rw [h.nmiPending, h.params]
    sound := h.sound }

/-- With its latency over, a pending NMI takes the vector (R485). -/
theorem State.selectVector_eq {s : State} (h : s.irq.nmiLat = .two) (hvec : s.sq.vec = 0xFFFE) :
    s.selectVector = { s.takeOver with sq := { s.sq with vec := s.takenVector } } := by
  unfold State.selectVector State.takeOver State.takenVector
  by_cases htaken : (s.params.vectorHijack && s.irq.nmiPending) = true
  · obtain ⟨hhijack, hpending⟩ := (Bool.and_eq_true _ _).mp htaken
    simp [h, hhijack, hpending]
  · have hpending : (s.irq.nmiPending && !s.params.vectorHijack) = s.irq.nmiPending := by
      revert htaken
      cases s.irq.nmiPending <;> cases s.params.vectorHijack <;> decide
    rw [if_neg (by simp [htaken]), if_neg htaken, hpending, ← hvec]

/-- The cycle that pushes PCL and selects the vector (R484, R485). -/
theorem runSeq_push_select (feed : Feed) (q : Sequence) (n : Nat) {s : State} (hc : Calm 0 s) (hq : s.sq.seq ≠ .boundary)
    (hm : ∀ u : State, u.sq = s.sq → q.micro u = .push id (fun t => lo t.cpu.pc) (fun t => t.selectVector.nextCycle))
    (hlat : s.irq.nmiLat = .two) (hvec : s.sq.vec = 0xFFFE) :
    ∃ t, runSeq feed q (n + 1) s = runSeq feed q n t ∧ Moved (s.setS (s.cpu.s - 1)).takeOver t 1 ∧ t.cpu.pc = s.cpu.pc ∧
      t.sq = { s.sq with vec := s.takenVector, cyc := s.sq.cyc + 1 } ∧
      t.mem = s.afterWrites [(stackAt s.cpu.s, lo s.cpu.pc)] := by
  have hstays : ∀ w : State, Stays w w.selectVector.nextCycle ∧ w.selectVector.nextCycle.sq.seq = w.sq.seq ∧
      (w.sound → w.selectVector.nextCycle.sound) := by
    intro w
    obtain ⟨hgo, hseq, -⟩ := selectVector_turned w
    exact ⟨⟨hgo.agenda, hgo.tick⟩, hseq, hgo.sound⟩
  obtain ⟨u, hu, e⟩ := runSeq_next_push feed q n hc hq hm hstays
  have hpc : u.cpu.pc = s.cpu.pc := hu.cpu_pc
  have hsq : u.sq = s.sq := hu.sq
  have hv : u.takenVector = s.takenVector := by
    rw [State.takenVector, hu.params, hu.irq_nmiPending]
    rfl
  have hk := (hu.pushed (lo u.cpu.pc)).takeOver
  have hmem := hu.pushed_mem hc.pages (lo u.cpu.pc)
  have hlatw : (u.pushedByte (lo u.cpu.pc)).irq.nmiLat = .two := hu.irq_nmiLat.trans hlat
  rw [State.selectVector_eq hlatw ((congrArg Latches.vec hsq).trans hvec)] at e
  refine ⟨_, e, hk.latched (u := (u.pushedByte (lo u.cpu.pc)).takeOver)
    { u.sq with vec := u.takenVector, cyc := u.sq.cyc + 1 }, hpc, ?_, hmem.trans (by rw [hpc])⟩
  show { u.sq with vec := u.takenVector, cyc := u.sq.cyc + 1 } = _
  rw [hv, hsq]

/-- A push in plain pages, after the reads that its value takes. -/
theorem MicroOp.perform_push (f : Feed) {u : State} {pre : State → State} (h : Dev u (pre u)) (hs : u.sound)
    (hp : u.plainPages = true) (value : State → Byte) (post : State → State) :
    (MicroOp.push pre value post).perform f u = post ((pre u).pushedByte (value (pre u))) := by
  have hram : (pre u).isRam (pre u).stackAddr = true := by
    rw [h.isRam]
    exact State.isRam_stackAt hp (pre u).cpu.s
  obtain ⟨w, hw, hd⟩ := (pre u).busWrite_dev (pre u).stackAddr (value (pre u))
  have hpoke : w = (pre u).poke (pre u).stackAddr (value (pre u)) := by
    rcases hd with ⟨-, hd⟩ | ⟨hno, -⟩
    · exact hd
    · rw [hram] at hno
      cases hno
  rw [MicroOp.push, MicroOp.perform_write, State.unlessStopped_eq (h.sound hs).1, hw, hpoke]
  exact State.unlessStopped_eq (s := (pre u).poke _ _ |>.logBus _) (h.sound hs).1 _

/-- A push of the status that does not stop has used written flags only (R46). -/
theorem mayUse_of_push_running {f : Feed} {u : State} {value : State → Byte} {post : State → State}
    (h : ((MicroOp.push State.packAccess value post).perform f u).stopped = none) :
    u.onVAccess.mayUse statusSources = true := by
  by_contra hno
  have hstop : u.packAccess.stopped.isSome = true := by
    rw [State.packAccess, State.uses, State.using_fault (by simpa using hno)]
    show (u.onVAccess.stopped.or (some Fault.uninitReg)).isSome = true
    cases u.onVAccess.stopped <;> rfl
  rw [MicroOp.push, MicroOp.perform_write, State.unlessStopped_stopped hstop] at h
  simp [h] at hstop

/-- The push of the status, where the flags may be used or the machine does not stop in it (R37, R46, R484). -/
theorem runSeq_push_status (feed : Feed) (q : Sequence) (n : Nat) {s : State} (hc : Calm 0 s) (hq : s.sq.seq ≠ .boundary)
    (hm : ∀ u : State, u.sq = s.sq →
      q.micro u = .push State.packAccess (fun t => packFlags t.cpu.p t.sq.brkb) State.nextCycle)
    (hflags : s.mayUse statusSources = true ∨ (runSeq feed q (n + 1) s).stopped = none) :
    ∃ t, runSeq feed q (n + 1) s = runSeq feed q n t ∧ Moved (s.setS (s.cpu.s - 1)) t 1 ∧ t.cpu.pc = s.cpu.pc ∧
      t.sq = { s.sq with cyc := s.sq.cyc + 1 } ∧
      t.mem = s.afterWrites [(stackAt s.cpu.s, s.regs.packed t.cpu.p.v s.sq.brkb)] := by
  obtain ⟨u, hu, he⟩ := runSeq_calm feed q n hc hq
  rw [hm u hu.sq] at he
  have hmay : u.onVAccess.mayUse statusSources = true := by
    rcases hflags with hl | hrun
    · exact (hu.trans (Dev.onVAccess u)).mayUse (s := { s with half := .phi2 }) hl
    · have hgo : (u.executeTick feed (.push State.packAccess (fun t => packFlags t.cpu.p t.sq.brkb)
          State.nextCycle)).stopped = none := State.running_of_not_isSome fun hstop => by
        rw [he, if_pos (State.settled_iff.mpr (.inl hstop))] at hrun
        simp [hrun] at hstop
      exact mayUse_of_push_running (State.executeTick_running hgo)
  have hpack : u.packAccess = u.onVAccess := State.uses_eq hmay
  have hdev : Dev u u.packAccess := by rw [hpack]; exact Dev.onVAccess u
  have hpages : u.plainPages = true := by
    rw [State.plainPages, hu.params]
    exact hc.pages
  have hperf := MicroOp.perform_push feed hdev (hu.sound ⟨hc.running, hc.lines⟩) hpages
    (fun t => packFlags t.cpu.p t.sq.brkb) State.nextCycle
  have hx := hu.trans hdev
  generalize u.packAccess = x at *
  have hk := (hx.pushed (packFlags x.cpu.p x.sq.brkb)).latched { x.sq with cyc := x.sq.cyc + 1 }
  have hquiet : (x.pushedByte (packFlags x.cpu.p x.sq.brkb)).nextCycle.quietFor 0 = true :=
    (hx.stays.trans (Stays.mk rfl rfl)).quiet (n := 0) hc.quiet
  have hsq : x.sq = s.sq := hx.sq
  have hgo : ((x.pushedByte (packFlags x.cpu.p x.sq.brkb)).nextCycle.endTick .executed).settled = false :=
    State.not_settled (hk.sound ⟨hc.running, hc.lines⟩).1 (by show x.sq.seq ≠ _; rw [hsq]; exact hq)
  rw [State.executeTick_quiet (by rw [hperf]; exact hquiet), hperf] at he
  refine ⟨_, he.trans (if_neg (by simp [hgo])), hk, hx.cpu_pc, ?_, ?_⟩
  · exact congrArg (fun l : Latches => { l with cyc := l.cyc + 1 }) hsq
  · refine (hx.pushed_mem hc.pages _).trans ?_
    rw [State.packFlags_eq, show x.regs = s.regs from hx.regs, hsq]
    rfl

end Sys2Proof.Machine

namespace Sys2Proof.Machine

/-! ### The last two cycles of an entry (R484) -/

theorem State.takenVector_stored (s : State) :
    0xFFFA ≤ s.takenVector.toNat ∧ 0xFFFA ≤ (s.takenVector + 1).toNat := by
  unfold State.takenVector
  split <;> decide

/-- The cycle that reads the low byte of the vector and sets I. -/
theorem runSeq_vector_low (feed : Feed) (q : Sequence) (n : Nat) {s : State} (hc : Calm 0 s) (hq : s.sq.seq ≠ .boundary)
    {vec : Word} (hvec : 0xFFFA ≤ vec.toNat) (hm : ∀ u : State, u.sq = s.sq → q.micro u = vectorCycle vec 6) :
    ∃ t, runSeq feed q (n + 1) s = runSeq feed q n t ∧ Passed s t 1 ∧ t.mem = s.mem ∧ VKept s t ∧
      t.sq = { s.sq with data := s.peek vec, cyc := s.sq.cyc + 1 } ∧ t.regs = { s.regs with i := true } := by
  obtain ⟨d, u, e, k, p, hsq, hd⟩ := runSeq_next_read feed q n hc hq (addr := vec)
    (act := fun d u => ((u.setDATA d).setI true).nextCycle) (fun u hu _ _ => hm u hu) (fun _ _ => ⟨⟨rfl, rfl⟩, rfl, id⟩)
  have hregs : u.regs = s.regs := k.regs.trans (by rw [show (u.endTick .executed).cpu.pc = s.cpu.pc from p]; rfl)
  refine ⟨_, e, ((OpFrame.setI u true).passed k.toPassed).latched { u.sq with data := d, cyc := u.sq.cyc + 1 }, k.mem, k.v,
    ?_, congrArg (fun r : Regs => { r with i := true }) hregs⟩
  rw [← hd (State.isStored_vector hc.pages hvec), ← hsq]
  rfl

/-- The last cycle reads the high byte of the vector and loads PC. -/
theorem runSeq_vector_high (feed : Feed) (q : Sequence) (n : Nat) {s : State} (hc : Calm 0 s) (hq : s.sq.seq ≠ .boundary)
    {vec : Word} (hvec : 0xFFFA ≤ (vec + 1).toNat) (hm : ∀ u : State, u.sq = s.sq → q.micro u = vectorCycle vec 7) :
    ∃ t, runSeq feed q (n + 1) s = t ∧ Passed s t 1 ∧ t.mem = s.mem ∧ VKept s t ∧ t.sq.seq = .boundary ∧
      t.regs = { s.regs with pc := joinBytes (s.peek (vec + 1)) s.sq.data } := by
  obtain ⟨d, u, e, k, -, hsq, -, hd⟩ := runSeq_final_read feed q n hc hq (addr := vec + 1)
    (act := fun d u => { u.setPC (joinBytes d u.sq.data) with sq := { u.sq with brkb := false } })
    (fun u hu _ _ => hm u hu) (fun _ _ => ⟨rfl, rfl⟩)
  refine ⟨_, e, ((k.toPassed.setPC (joinBytes d u.sq.data)).latched { u.sq with brkb := false }).finish, k.mem, k.v,
    rfl, ?_⟩
  rw [← hd (State.isStored_vector hc.pages hvec), ← hsq]
  exact k.regs_setPC (joinBytes d u.sq.data)

/-! ### The tail of an IRQ or BRK sequence (R484, R485) -/

theorem Calm.takeOver {n : Nat} {s : State} (h : Calm n s) : Calm n s.takeOver :=
  ⟨h.running, h.lines, h.hold, h.quiet, h.pages⟩

theorem Passed.takenVector {s t : State} {k : Nat} (h : Passed s t k) : t.takenVector = s.takenVector := by
  simp only [State.takenVector, h.params, h.nmiPending]

theorem Moved.packed {s t : State} {k : Nat} (h : Moved s t k) (v b : Bool) : t.regs.packed v b = s.regs.packed v b := by
  rw [h.regs]
  rfl

/-- Cycles c3 to c5 push the return address and the status, and select the vector. -/
theorem runSeq_interrupt_pushes (feed : Feed) {q : Sequence} (n : Nat) {s : State} (hc : Calm 3 s)
    (hq : s.sq.seq ≠ .boundary) (hm : ∀ u : State, 2 < u.sq.cyc → q.micro u = takeInterrupt true u u.sq.cyc)
    (hcyc : s.sq.cyc = 3) (hvec : s.sq.vec = 0xFFFE) (hlat : s.irq.nmiLat.executed = .two)
    (hflags : s.mayUse statusSources = true ∨ (runSeq feed q (n + 3) s).stopped = none) :
    ∃ t, runSeq feed q (n + 3) s = runSeq feed q n t ∧ Moved (s.setS (s.cpu.s - 3)).takeOver t 3 ∧
      t.cpu.pc = s.cpu.pc ∧ t.sq.seq = s.sq.seq ∧ t.sq.cyc = 6 ∧ t.sq.vec = s.takenVector ∧
      t.mem = s.afterWrites (s.pushed s.cpu.pc (s.regs.packed t.cpu.p.v s.sq.brkb)) := by
  obtain ⟨t3, e3, k3, p3, hsq3, hlat3, hmem3⟩ := runSeq_push_next feed q (n + 2) (hc.mono (by omega)) hq
    (value := fun t => hi t.cpu.pc) (v := hi s.cpu.pc)
    (fun u hu => by rw [hm u (by rw [hu]; omega), hu, hcyc]; rfl) (fun u hu => by rw [hu])
  have c3 : Calm 2 t3 := k3.toPassed.of_setS.calm (n := 2) hc
  have hs3 : t3.cpu.s = s.cpu.s - 1 := k3.sp
  have hcyc3 : t3.sq.cyc = 4 := by rw [hsq3, hcyc]
  obtain ⟨t4, e4, k4, p4, hsq4, hmem4⟩ := runSeq_push_select feed q (n + 1) (s := t3) (c3.mono (by omega))
    (by rw [hsq3]; exact hq) (fun u hu => by rw [hm u (by rw [hu]; omega), hu, hcyc3]; rfl) (hlat3.trans hlat)
    (by rw [hsq3]; exact hvec)
  have k4 := (k3.setS (t3.cpu.s - 1)).takeOver.trans k4
  have hs4 : t4.cpu.s = s.cpu.s - 1 - 1 := k4.sp.trans (congrArg (· - 1) hs3)
  have hmem4 := hmem4.trans (State.afterWrites_trans hmem3 k3.params _)
  have c4 : Calm 1 t4 := k4.toPassed.calm (n := 1) ⟨hc.running, hc.lines, hc.hold, hc.quiet, hc.pages⟩
  have hcyc4 : t4.sq.cyc = 5 := by rw [hsq4, hcyc3]
  obtain ⟨t5, e5, k5, p5, hsq5, hmem5⟩ := runSeq_push_status feed q n (s := t4) (c4.mono (by omega))
    (by rw [hsq4]; simp only [hsq3]; exact hq) (fun u hu => by rw [hm u (by rw [hu]; omega), hu, hcyc4]; rfl)
    (hflags.imp (k4.mayUse (s := (s.setS _).takeOver)) fun h => by rwa [e3, e4] at h)
  have hmem5 := hmem5.trans (State.afterWrites_trans hmem4 k4.params _)
  have k5 := (k4.setS (t4.cpu.s - 1)).trans k5
  have hs : t4.cpu.s - 1 = s.cpu.s - 3 := by rw [hs4]; bv_omega
  rw [hs] at k5
  refine ⟨t5, by rw [e3, e4, e5], k5, p5.trans (p4.trans p3), ?_, ?_, ?_, ?_⟩
  · rw [hsq5, hsq4, hsq3]
  · rw [hsq5, hcyc4]
  · rw [hsq5, hsq4]
    exact k3.takenVector
  · have hs2 : t4.cpu.s = s.cpu.s - 2 := by rw [hs4]; bv_omega
    rw [hmem5, k4.packed, hs2, hs3, p3, hsq4, hsq3]
    rfl

/-- The pushes of an entry leave the vectors as they are. -/
theorem State.read_pushed_vector (s : State) {a : Word} (h : 0xFFFA ≤ a.toNat) (pc : Word) (p : Byte) :
    Memory.read (s.afterWrites (s.pushed pc p)) a.toNat = s.peek a :=
  State.read_afterWrites_other (by simp [State.pushed, ne_stackAt h])

/-- `t` comes `k` ticks after `s`, at the end of an IRQ or BRK sequence that has pushed the address `pc` and the status with
the bit `b` (R484, R485). -/
structure Entered (s t : State) (k : Nat) (pc : Word) (b : Bool) : Prop where
  passed : Passed s.takeOver t k
  ended : t.sq.seq = .boundary
  v : VKept s t
  regs : t.regs = { s.regs with i := true, s := s.cpu.s - 3, pc := s.peekWord s.takenVector }
  mem : ∃ v, VSeen s v ∧ t.mem = s.afterWrites (s.pushed pc (s.regs.packed v b))

/-- Cycles c3 to c7 of an IRQ or BRK sequence. -/
theorem runSeq_interrupt (feed : Feed) {q : Sequence} (n : Nat) {s : State} (hc : Calm 5 s)
    (hq : s.sq.seq ≠ .boundary) (hm : ∀ u : State, 2 < u.sq.cyc → q.micro u = takeInterrupt true u u.sq.cyc)
    (hcyc : s.sq.cyc = 3) (hvec : s.sq.vec = 0xFFFE) (hlat : s.irq.nmiLat.executed = .two)
    (hflags : s.mayUse statusSources = true ∨ (runSeq feed q (n + 5) s).stopped = none) :
    Entered s (runSeq feed q (n + 5) s) 5 s.cpu.pc s.sq.brkb := by
  obtain ⟨t5, e5, k5, -, hseq5, hcyc5, hvec5, hmem5⟩ := runSeq_interrupt_pushes feed (n + 2) (hc.mono (by omega)) hq hm hcyc
    hvec hlat hflags
  have p5 : Passed s.takeOver t5 3 := k5.toPassed.of_setS (s := s.takeOver) (b := s.cpu.s - 3)
  have hv5 : VKept s t5 := k5.v
  obtain ⟨hlow, hhigh⟩ := s.takenVector_stored
  obtain ⟨t6, e6, p6, hmem6, hv6, hsq6, hregs6⟩ := runSeq_vector_low feed q (n + 1) (s := t5) (vec := s.takenVector)
    ((p5.calm (n := 2) hc.takeOver).mono (by omega)) (by rw [hseq5]; exact hq) hlow
    (fun u hu => by rw [hm u (by rw [hu]; omega), hu, hcyc5, ← hvec5, ← hu]; rfl)
  have p6 := p5.trans p6
  have hcyc6 : t6.sq.cyc = 7 := by rw [hsq6, hcyc5]
  have hvec6 : t6.sq.vec = s.takenVector := by rw [hsq6, hvec5]
  obtain ⟨t7, e7, p7, hmem7, hv7, hseq7, hregs7⟩ := runSeq_vector_high feed q n (s := t6) (vec := s.takenVector)
    ((p6.calm (n := 1) hc.takeOver).mono (by omega)) (by rw [hsq6]; simp only [hseq5]; exact hq) hhigh
    (fun u hu => by rw [hm u (by rw [hu]; omega), hu, hcyc6, ← hvec6, ← hu]; rfl)
  have hregs5 : t5.regs = { s.regs with s := s.cpu.s - 3, pc := t5.cpu.pc } := k5.regs
  have hpeek : ∀ {a : Word}, 0xFFFA ≤ a.toNat → t5.peek a = s.peek a := fun h => by
    rw [State.peek, hmem5, s.read_pushed_vector h]
  have hword : joinBytes (t6.peek (s.takenVector + 1)) t6.sq.data = s.peekWord s.takenVector := by
    rw [hsq6, State.peek, hmem6]
    show joinBytes (t5.peek (s.takenVector + 1)) (t5.peek s.takenVector) = _
    rw [hpeek hlow, hpeek hhigh, State.peekWord]
  rw [e5, e6, e7]
  exact ⟨p6.trans p7, hseq7, (hv5.trans p5.params hv6).trans p6.params hv7, by rw [hregs7, hword, hregs6, hregs5],
    t5.cpu.p.v, hv5, (hmem7.trans hmem6).trans hmem5⟩

theorem VSeen.after {s t : State} {v : Bool} (g : VSeen t v) (h : VKept s t) (hp : t.params = s.params) : VSeen s v := by
  rcases g with rfl | ⟨hv, hd⟩
  · exact h
  · exact .inr ⟨hv, hp ▸ hd⟩

/-- Calm ticks before the sequence. -/
theorem Entered.after {s t u : State} {j k : Nat} {pc : Word} {b : Bool} (g : Entered t u k pc b) (h : Kept s t j) :
    Entered s u (j + k) pc b where
  passed := h.toMoved.takeOver.toPassed.trans g.passed
  ended := g.ended
  v := h.v.trans h.params g.v
  regs := by
    rw [g.regs, h.toPassed.takenVector, State.peekWord, h.peek, h.peek, h.sp, h.regs]
    rfl
  mem := by
    obtain ⟨v, hv, hmem⟩ := g.mem
    refine ⟨v, hv.after h.v h.params, ?_⟩
    rw [hmem, h.packed, State.pushed, h.sp]
    exact State.afterWrites_trans (l := []) h.mem h.params _

theorem Lat.executed_executed (l : Lat) : l.executed.executed = .two := by cases l <;> rfl

/-- What BRK does in its first two cycles (R352). -/
theorem brk_start {s : State} (hc : Calm 8 s) :
    ∃ t, runInstr .brk .brk s = (runSeq (Feed.ofInstr .brk) .brk 6 t).outcome ∧ Kept s.clearLogs t 2 ∧
      t.cpu.pc = s.cpu.pc + 2 ∧ t.sq.seq = .op ∧ t.sq.cyc = 3 ∧ t.sq.vec = 0xFFFE ∧ t.sq.brkb = true ∧
      t.irq.nmiLat.executed = .two := by
  obtain ⟨t, e, k, p, hsq⟩ := runInstr_start .brk .brk hc
  obtain ⟨-, u, e2, k2, p2, hsq2, -⟩ := runSeq_next_read (Feed.ofInstr .brk) .brk 6 (s := t)
    ((k.calm (n := 7) hc.clearLogs).mono (by omega)) (by rw [hsq]; nofun) (addr := t.cpu.pc)
    (act := fun _ t => State.nextCycle { t.incPC with sq := { t.sq with brkb := true, vec := 0xFFFE } })
    (fun u hu hpc _ => by simp only [Sequence.micro, brkCycle, hu, hsq, hpc, MicroOp.discard])
    (fun _ _ => ⟨⟨rfl, rfl⟩, rfl, id⟩)
  have hsq2 := hsq2.trans hsq
  refine ⟨_, e.trans (congrArg State.outcome e2), k.trans ((k2.setPC (u.cpu.pc + 1)).latched
    { u.sq with brkb := true, vec := 0xFFFE, cyc := u.sq.cyc + 1 }), ?_, ?_, ?_, rfl, rfl, Lat.executed_executed _⟩
  · show u.cpu.pc + 1 = _
    rw [p2, p, BitVec.add_assoc]
    rfl
  · exact congrArg Latches.seq hsq2
  · exact congrArg (·.cyc + 1) hsq2

theorem brkCycle_tail (u : State) (h : 2 < u.sq.cyc) : Sequence.brk.micro u = takeInterrupt true u u.sq.cyc := by
  show brkCycle u u.sq.cyc = _
  unfold brkCycle
  split
  · omega
  · rfl

theorem entryCycle_irq_tail (u : State) (h : 2 < u.sq.cyc) :
    (Sequence.entry .irq).micro u = takeInterrupt true u u.sq.cyc := by
  show entryCycle .irq u u.sq.cyc = _
  unfold entryCycle
  split
  · omega
  · rfl

/-- A machine that took an IRQ or BRK sequence is at the terminal that ends it. -/
theorem Entered.completed {s t : State} {k : Nat} {pc : Word} {b : Bool} (h : Entered s.clearLogs t k pc b)
    (hready : s.ready = true) : Completed s t k := by
  have hc := State.ready_calm hready
  have hp := h.passed
  obtain ⟨hstop, hlines⟩ := hp.sound ⟨hc.running, hc.lines⟩
  exact ⟨h.ended, hp.tick, hp.half, hstop, hlines, hp.hold.trans hc.hold, hp.params, hp.agenda, by
    rw [hp.bus]; exact Nat.zero_add k⟩

/-- Settles O36: the padding byte is skipped, and the tail of an IRQ entry runs with b = 1. -/
theorem takesBreak : Obligations.Break := by
  intro s h
  obtain ⟨hready, hl⟩ := State.readyFor_iff.mp h
  have hc := State.ready_calm hready
  obtain ⟨t, e, k, p, hseq, hcyc, hvec, hbrkb, hlat⟩ := brk_start hc
  have ht := runSeq_interrupt (Feed.ofInstr .brk) (q := .brk) 1 (s := t) ((k.calm (n := 6) hc.clearLogs).mono (by omega))
    (by rw [hseq]; nofun) brkCycle_tail hcyc hvec hlat (.inl (k.mayUse (s := s.clearLogs) (State.mayUse_sources hl).2))
  rw [hbrkb, p] at ht
  have hall := ht.after k
  have hdone := hall.completed hready
  obtain ⟨v, hv, hmem⟩ := hall.mem
  exact ⟨_, v, hv, (exec_eq .brk s).trans (e.trans (State.outcome_eq_next.mpr ⟨rfl, hdone.running⟩)), hdone,
    hall.regs, hall.v, hmem, hall.passed.nmiPending, hall.passed.rstPending, hall.passed.nmiCount⟩

end Sys2Proof.Machine

namespace Sys2Proof.Machine

/-! ### The IRQ entry (R484, R485) -/

/-- Device activity does not see what a decision consumes (R477). -/
theorem Dev.accept {s u : State} (h : Dev { s with half := .phi2 } u) (k : Entry) :
    Dev { s.accept k with half := .phi2 } (u.accept k) := by
  have hbare := congrArg (fun b : State => b.accept k) h.bare
  cases k <;> exact ⟨hbare, h.half, h.v, h.written, h.sound⟩

theorem Calm.accept {n : Nat} {s : State} (h : Calm n s) (k : Entry) : Calm n (s.accept k) := by
  cases k <;> exact ⟨h.running, h.lines, h.hold, h.quiet, h.pages⟩

/-- The terminal tick of an entry (R152). -/
theorem enter_start (k : Entry) {s : State} (hc : Calm 0 s) :
    ∃ t, s.clearLogs.phi1.enter k = runSeq .live (.entry k) 6 t ∧ Kept (s.clearLogs.accept k) t 1 ∧
      t.cpu.pc = (s.accept k).cpu.pc ∧ t.sq = (s.accept k).sq.atEntry k := by
  have hd := (s.clearLogs.phi1_dev hc.clearLogs.quiet).accept k
  have hs := (hc.clearLogs.accept k)
  show ∃ t, runSeq .live (.entry k) 6 ((s.clearLogs.phi1.accept k).executeTick .live
    (terminalEntry k s.clearLogs.phi1)) = _ ∧ _
  generalize s.clearLogs.phi1 = u at hd ⊢
  obtain ⟨w, hw, hdw, -⟩ := (u.accept k).busRead_dev u.cpu.pc
  have hx := hd.trans hdw
  generalize hr : (u.accept k).busRead u.cpu.pc = r at hw
  have hperf : (terminalEntry k u).perform .live (u.accept k) =
      { w.logBus (.read u.cpu.pc r.1) with sq := w.sq.atEntry k } := by
    simp only [terminalEntry, MicroOp.discard, MicroOp.perform, hr, hw]
    exact State.unlessStopped_eq (s := w.logBus _) (hx.sound ⟨hs.running, hs.lines⟩).1 _
  have hquiet : ((terminalEntry k u).perform .live (u.accept k)).quietFor 0 = true := by
    rw [hperf]
    exact (hx.stays.trans (Stays.mk rfl rfl)).quiet (n := 0) hs.quiet
  rw [State.executeTick_quiet hquiet, hperf]
  refine ⟨_, rfl, hx.kept (.read u.cpu.pc r.1) w.cpu.pc (w.sq.atEntry k), ?_, ?_⟩
  · cases k <;> exact hx.cpu_pc
  · have hsq : w.sq = (s.accept k).sq := hx.sq.trans (by cases k <;> rfl)
    rw [← hsq]
    rfl

/-- The terminal tick of an IRQ entry and its second cycle (R484). -/
theorem enter_irq_start {s : State} (hc : Calm 2 s) :
    ∃ t, s.clearLogs.phi1.enter .irq = runSeq .live (.entry .irq) 5 t ∧ Kept s.clearLogs t 2 ∧ t.cpu.pc = s.cpu.pc ∧
      t.sq.seq = .entry .irq ∧ t.sq.cyc = 3 ∧ t.sq.vec = 0xFFFE ∧ t.sq.brkb = false ∧ t.irq.nmiLat.executed = .two := by
  obtain ⟨t, e, k, p, hsq⟩ := enter_start .irq (hc.mono (by omega))
  obtain ⟨-, u, e2, k2, p2, hsq2, -⟩ := runSeq_next_read .live (.entry .irq) 5 (s := t)
    ((k.calm (n := 1) (hc.clearLogs.accept .irq)).mono (by omega)) (by rw [hsq]; nofun) (addr := t.cpu.pc)
    (act := fun _ => State.nextCycle)
    (fun u hu hpc _ => by
      have hcyc : u.sq.cyc = 2 := by rw [hu, hsq]; rfl
      simp only [Sequence.micro, entryCycle, hcyc, hpc, MicroOp.discard])
    (fun _ _ => ⟨⟨rfl, rfl⟩, rfl, id⟩)
  have hsq2 := hsq2.trans hsq
  have k := k.trans (k2.latched { u.sq with cyc := u.sq.cyc + 1 })
  refine ⟨_, e.trans e2, { k with sound := k.sound }, p2.trans p, ?_, ?_, ?_, ?_, Lat.executed_executed _⟩
  · exact congrArg Latches.seq hsq2
  · exact congrArg (·.cyc + 1) hsq2
  · exact congrArg Latches.vec hsq2
  · exact congrArg Latches.brkb hsq2

/-- An IRQ entry from a calm terminal, where the flags may be used or the step does not stop (R46, R484). -/
theorem Calm.step_irq {s : State} (hc : Calm 7 s) (hseq : s.sq.seq = .boundary)
    (hpoll : s.clearLogs.phi1.pollFaults = false) (hdec : s.decided = some .irq)
    (hflags : s.mayUse statusSources = true ∨ ∃ t, step s = .next t) :
    ∃ t, step s = .next t ∧ Entered s.clearLogs t 7 s.cpu.pc false := by
  obtain ⟨t, e, k, p, hseqt, hcyc, hvec, hbrkb, hlat⟩ := enter_irq_start (hc.mono (by omega))
  have hstep : step s = (runSeq .live (.entry .irq) (0 + 5) t).outcome := by rw [step_enter hc hseq hpoll hdec, e]
  have ht := runSeq_interrupt .live (q := .entry .irq) 0 (s := t) (k.calm (n := 5) hc.clearLogs) (by rw [hseqt]; nofun)
    entryCycle_irq_tail hcyc hvec hlat (hflags.imp (k.mayUse (s := s.clearLogs)) fun ⟨t', ht'⟩ => by
      obtain ⟨rfl, hrun⟩ := State.outcome_eq_next.mp (hstep.symm.trans ht')
      exact hrun)
  rw [p, hbrkb] at ht
  have hall := ht.after k
  exact ⟨_, hstep.trans (State.outcome_eq_next.mpr ⟨rfl, (hall.passed.sound ⟨hc.running, hc.lines⟩).1⟩), hall⟩

/-! ### RTI after an IRQ entry (R354, R487) -/

/-- The bits of a status byte (R37). -/
theorem statusByte_bits : ∀ n v b d i z c : Bool,
    let p : Byte := BitVec.ofNat 8 (128 * bit n + 64 * bit v + 32 + 16 * bit b + 8 * bit d + 4 * bit i + 2 * bit z + bit c)
    p.getLsbD 7 = n ∧ p.getLsbD 6 = v ∧ p.getLsbD 5 = true ∧ p.getLsbD 4 = b ∧ p.getLsbD 3 = d ∧ p.getLsbD 2 = i ∧
      p.getLsbD 1 = z ∧ p.getLsbD 0 = c := by
  decide

theorem Regs.packed_v (r : Regs) (v b : Bool) : (r.packed v b).getLsbD 6 = v :=
  (statusByte_bits r.n v b r.d r.i r.z r.c).2.1

/-- A pulled status byte gives the flags that were pushed, and to U and B the bits that it has there (R37, R38). -/
theorem Regs.unpacked_packed (r q : Regs) (v b : Bool) : q.unpacked (r.packed v b) =
    { q with n := r.n, u := true, b := b, d := r.d, i := r.i, z := r.z, c := r.c } := by
  obtain ⟨hn, -, hu, hb, hd, hi, hz, hc⟩ := statusByte_bits r.n v b r.d r.i r.z r.c
  simp only [Regs.unpacked, Regs.packed, hn, hu, hb, hd, hi, hz, hc]

/-- The stack after an IRQ or BRK sequence: the status, PCL and PCH, from its top on. -/
theorem Entered.stack {s t : State} {k : Nat} {pc : Word} {b : Bool} (h : Entered s t k pc b)
    (hwf : Memory.wf s.mem = true) (hp : s.plainPages = true) :
    (∃ v, VSeen s v ∧ t.peek (stackAt (t.cpu.s + 1)) = s.regs.packed v b) ∧ t.peek (stackAt (t.cpu.s + 2)) = lo pc ∧
      t.peek (stackAt (t.cpu.s + 3)) = hi pc := by
  obtain ⟨v, hv, hmem⟩ := h.mem
  have hs : t.cpu.s = s.cpu.s - 3 := congrArg Regs.s h.regs
  have hne : ∀ {a c : Byte}, a ≠ c → stackAt a ≠ stackAt c := fun hac h => hac (stackAt_injective h)
  have hs1 : t.cpu.s + 1 = s.cpu.s - 2 := by rw [hs]; bv_omega
  have hs2 : t.cpu.s + 2 = s.cpu.s - 1 := by rw [hs]; bv_omega
  have hs3 : t.cpu.s + 3 = s.cpu.s := by rw [hs]; bv_omega
  refine ⟨⟨v, hv, ?_⟩, ?_, ?_⟩
  · rw [State.peek, hmem, hs1]
    exact State.read_afterWrites_last hwf (State.isRam_stackAt hp _)
      [(stackAt s.cpu.s, hi pc), (stackAt (s.cpu.s - 1), lo pc)] (m := []) nofun
  · rw [State.peek, hmem, hs2]
    refine State.read_afterWrites_last hwf (State.isRam_stackAt hp _) [(stackAt s.cpu.s, hi pc)]
      (m := [(stackAt (s.cpu.s - 2), s.regs.packed v b)]) (List.forall_mem_singleton.mpr (hne ?_))
    bv_omega
  · rw [State.peek, hmem, hs3]
    refine State.read_afterWrites_last hwf (State.isRam_stackAt hp _) []
      (m := [(stackAt (s.cpu.s - 1), lo pc), (stackAt (s.cpu.s - 2), s.regs.packed v b)])
      (List.forall_mem_cons.mpr ⟨hne ?_, List.forall_mem_singleton.mpr (hne ?_)⟩) <;> bv_omega

/-- Settles O19: RTI pulls what the IRQ entry has pushed. -/
theorem interruptReturnRestores : Obligations.InterruptReturnRestores := by
  intro s t u hwf hready hquiet hseq hdec hstep hexec
  have hc := State.ready_calm hready
  have hpoll : s.clearLogs.phi1.pollFaults = false := by
    by_contra hfault
    rw [step_pollFaults hc hseq (by simpa using hfault)] at hstep
    cases hstep
  obtain ⟨t', ht', hall⟩ := (hc.mono (m := 7) (by omega)).step_irq hseq hpoll hdec (.inr ⟨t, hstep⟩)
  cases ht'.symm.trans hstep
  have hdone := hall.completed hready
  obtain ⟨-, -, -, hv, hregs⟩ := (returnsFromInterrupt t (hdone.ready hready hquiet)).of_exec hexec
  obtain ⟨⟨v, hseen, hstatus⟩, hlow, hhigh⟩ := hall.stack hwf hc.pages
  have hs : t.cpu.s + 3 = s.cpu.s := by
    rw [show t.cpu.s = s.cpu.s - 3 from congrArg Regs.s hall.regs]
    bv_omega
  rw [hstatus] at hv hregs
  refine ⟨?_, ?_⟩
  · rw [hregs, Regs.unpacked_packed, hlow, hhigh, hs, joinBytes_hi_lo, hall.regs]
    rfl
  · rw [Regs.packed_v] at hv
    rcases hv with hv | ⟨hv, hd⟩
    · rw [← hv] at hseen
      exact hseen
    · exact .inr ⟨hv, hdone.params ▸ hd⟩

end Sys2Proof.Machine

namespace Sys2Proof.Machine

/-! ### NOP and JAM (R391, R436, R440) -/

/-- A NOP is implied, one byte in two ticks, or of read class (R391, R436). -/
theorem nop_shape {i : Instr} (h : i.mnem = .nop) :
    (i.mode = .imp ∧ i.row.cls = .special ∧ i.row.cycles = 2 ∧ i.length = 1) ∨ (i.mode ≠ .imp ∧ i.row.cls = .read) := by
  have hrow : ∀ j : Instr, (j.mnem != .nop ||
      (j.mode == .imp && j.row.cls == .special && j.row.cycles == 2 && j.length == 1) ||
      (j.mode != .imp && j.row.cls == .read)) = true := by
    intro j
    cases j <;> rfl
  have hi := hrow i
  simpa only [h, bne_self_eq_false, Bool.false_or, Bool.or_eq_true, Bool.and_eq_true, beq_iff_eq, bne_iff_ne, ne_eq,
    and_assoc] using hi

/-- A NOP in any form: PC moves on, and an operand is read and dropped (R391, R436). -/
theorem nop_runs {i : Instr} {s : State} (hi : i.mnem = .nop) (hready : s.ready = true)
    (hidx : s.mayUse (indexSources i.mode) = true) :
    Runs i s (s.ticksOf i) (fun t => VKept s t ∧ t.mem = s.mem ∧
      t.regs = { s.regs with pc := s.nextPC i } ∧ (i.mode ≠ .imp → ∃ v, OperandRead s i t v)) := by
  have hq : sequenceOf i = if i.mode = .imp then .implied opNop else .read i.mode readNop := by
    rw [sequenceOf, hi]
    rfl
  rcases nop_shape hi with ⟨himp, hcls, hcycles, hlength⟩ | ⟨himp, hcls⟩
  · rw [if_pos himp] at hq
    rw [s.ticksOf_eq_cycles (by rw [hcls]; decide), hcycles, State.nextPC, hlength]
    exact (runs_implied_regs (g := id) hq opNop_spec.endsCalmly hready s.mayUse_nil fun _ _ => ⟨rfl, rfl⟩).imp
      fun t ⟨hv, hmem, hregs⟩ => ⟨hv, hmem, hregs, absurd himp⟩
  · rw [if_neg himp] at hq
    exact (runs_read_result (g := fun _ => id) hq hcls (fun v => (readNop_spec v).endsCalmly) hready hidx s.mayUse_nil
      fun _ _ _ => ⟨rfl, rfl⟩).imp fun t ⟨hv, v, hread, hregs, hmem⟩ => ⟨hv, hmem, hregs, fun _ => ⟨v, hread⟩⟩

/-- JAM takes its fetch's increment of PC back (R440). -/
theorem jam_runs {i : Instr} {s : State} (hi : i.mnem = .jam) (hready : s.ready = true) :
    Runs i s 2 (fun t => VKept s t ∧ t.mem = s.mem ∧ t.regs = s.regs) := by
  have hq : sequenceOf i = .jam := by
    rw [sequenceOf, hi]
    rfl
  have hc := State.ready_calm hready
  obtain ⟨t, e, k, p, hsq⟩ := runInstr_start i .jam hc
  obtain ⟨-, u, e2, k2, p2, -⟩ := runSeq_final_read (Feed.ofInstr i) .jam 6 (s := t)
    ((k.calm (n := 7) hc.clearLogs).mono (by omega)) (by rw [hsq]; nofun) (addr := t.cpu.pc)
    (act := fun _ t => t.setPC (t.cpu.pc - 1))
    (fun u _ hpc _ => by simp only [Sequence.micro, MicroOp.discard, hpc]) (fun _ _ => ⟨rfl, rfl⟩)
  have hpc : u.cpu.pc - 1 = s.cpu.pc := by rw [p2, p, BitVec.add_sub_cancel]
  rw [hpc] at e2
  exact (runs_setPC hready ((exec_eq i s).trans (hq ▸ e.trans (congrArg State.outcome e2))) (k.trans k2)).imp
    fun t' ⟨hv, hmem, hregs, _⟩ => ⟨hv, hmem, hregs⟩

/-- Settles O41: a NOP is an implied operation or a read that changes nothing, JAM sets PC back to its own address. -/
theorem noOperationsAndJam : Obligations.NoOperationsAndJam := by
  intro i s h
  obtain ⟨hready, hl⟩ := State.readyFor_iff.mp h
  exact ⟨fun hi => nop_runs hi hready (State.mayUse_sources hl).1, fun hi => jam_runs hi hready⟩

end Sys2Proof.Machine

namespace Sys2Proof.Machine

/-! ### Read-modify-write, then an operation on A (R411 to R416) -/

/-- The combined operations that modify memory are of read-modify-write class (R411 to R416). -/
theorem rmwClass_of_combined {i : Instr} {l : List Mnem} (hl : l ⊆ [.slo, .rla, .sre, .rra, .isb, .dcp])
    (h : i.mnem ∈ l) : i.row.cls = .rmw := by
  have hrow : ∀ j : Instr,
      (!([Mnem.slo, .rla, .sre, .rra, .isb, .dcp].contains j.mnem) || j.row.cls == .rmw) = true := by
    intro j
    cases j <;> rfl
  have hi := hrow i
  rw [List.contains_iff_mem.mpr (hl h)] at hi
  exact beq_iff_eq.mp hi

/-- What may be used as part of a list may be used alone (R46). -/
theorem State.mayUse_mono {s : State} {l m : List Source} (hs : l ⊆ m) (h : s.mayUse m = true) : s.mayUse l = true := by
  simp only [State.mayUse, Bool.or_eq_true, List.all_eq_true] at h ⊢
  exact h.imp_right fun hall r hr => hall r (hs hr)

/-- `rd v` is the logic operation `n` on A and `v` (R266 to R268). -/
def IsLogic (n : Mnem) (rd : Byte → State → State) : Prop :=
  ∀ v u, u.mayUse [.a] = true → (rd v u).regs = logicWith n v u.regs ∧ (rd v u).cpu.p.v = u.cpu.p.v

theorem readAnd_isLogic : IsLogic .and readAnd := fun v u hm => by
  rw [readAnd, State.using_eq hm]; exact ⟨rfl, rfl⟩

theorem readOra_isLogic : IsLogic .ora readOra := fun v u hm => by
  rw [readOra, State.using_eq hm]; exact ⟨rfl, rfl⟩

theorem readEor_isLogic : IsLogic .eor readEor := fun v u hm => by
  rw [readEor, State.using_eq hm]; exact ⟨rfl, rfl⟩

/-- A shift or rotate `n` of memory whose result then goes through the logic operation `op`. -/
theorem runs_shiftThenLogic {i : Instr} {n op : Mnem} {f : Byte → State → Byte × State} {rd : Byte → State → State}
    {l : List Source} {s : State} (hq : sequenceOf i = .rmw i.mode f) (hcls : i.row.cls = .rmw)
    (hop : ∀ v, OpSpec (.a :: l) (fun u => (f v u).2)) (hready : s.ready = true)
    (hu : s.mayUse (indexSources i.mode) = true) (hl : s.mayUse (.a :: l) = true) (hrd : IsLogic op rd)
    (hf : ∀ v u, u.mayUse l = true →
      f v u = ((shifted n v u.cpu.p.c).1, rd (shifted n v u.cpu.p.c).1 (u.setC (shifted n v u.cpu.p.c).2))) :
    Runs i s (s.ticksOf i) (fun t => VKept s t ∧ ∃ v,
      let r := shifted n v s.cpu.p.c
      let a := logicResult op s.cpu.a r.1
      ModifyResult s i t v r.1 ({ s.regs with a := a, c := r.2 }.withNZ a)) := by
  refine runs_rmw (r := fun v => (shifted n v s.cpu.p.c).1)
    (g := fun v r => logicWith op (shifted n v s.cpu.p.c).1 { r with c := (shifted n v s.cpu.p.c).2 })
    hq hcls hop hready hu hl (fun v u hm hc => ?_) fun _ _ _ => rfl
  rw [hf v u (State.mayUse_mono (List.subset_cons_self .a l) hm), hc]
  have ha : u.mayUse [.a] = true := State.mayUse_mono (List.cons_subset_cons .a (List.nil_subset l)) hm
  exact ⟨rfl, hrd _ _ ((State.setC_written u _).mayUse rfl ha)⟩

/-- Settles O42: each is a shift or rotate of memory, then ORA, AND or EOR with its result. -/
theorem shiftThenLogic : Obligations.ShiftThenLogic := by
  intro i s hready hi
  obtain ⟨hr, hu⟩ := State.readyFor_iff.mp hready
  obtain ⟨hidx, hl⟩ := State.mayUse_sources hu
  have hcls : i.row.cls = .rmw := rmwClass_of_combined (by decide) hi
  have hq : sequenceOf i = mnemSequence i.mnem i.mode := rfl
  generalize i.mnem = n at hi hl hq ⊢
  simp only [List.mem_cons, List.not_mem_nil, or_false] at hi
  rcases hi with rfl | rfl | rfl
  · refine runs_shiftThenLogic hq hcls modifySlo_spec hr hidx hl readOra_isLogic fun v u _ => ?_
    exact congrArg (fun r => (r.1, readOra r.1 (u.setC r.2))) (aslByte_eq_shifted v u.cpu.p.c)
  · refine runs_shiftThenLogic hq hcls modifyRla_spec hr hidx hl readAnd_isLogic fun v u hm => ?_
    rw [modifyRla, State.using_eq hm]
    exact congrArg (fun r => (r.1, readAnd r.1 (u.setC r.2))) (rolByte_eq_shifted v u.cpu.p.c)
  · refine runs_shiftThenLogic hq hcls modifySre_spec hr hidx hl readEor_isLogic fun v u _ => ?_
    exact congrArg (fun r => (r.1, readEor r.1 (u.setC r.2))) (lsrByte_eq_shifted v u.cpu.p.c)

/-- A read-modify-write instruction whose operation, on the registers before it, maps the programmer's view by `g v` and
sets V to `b v`. -/
theorem runs_rmw_setV {i : Instr} {f : Byte → State → Byte × State} {l : List Source} {s : State} {r : Byte → Byte}
    {g : Byte → Regs → Regs} {b : Byte → Bool} (hq : sequenceOf i = .rmw i.mode f) (hcls : i.row.cls = .rmw)
    (hop : ∀ v, OpSpec l (fun u => (f v u).2)) (hready : s.ready = true) (hu : s.mayUse (indexSources i.mode) = true)
    (hl : s.mayUse l = true)
    (hg : ∀ v u, u.mayUse l = true → u.regs = { s.regs with pc := u.cpu.pc } →
      (f v u).1 = r v ∧ (f v u).2.regs = g v u.regs ∧ (f v u).2.cpu.p.v = b v)
    (hpc : ∀ v q p, ({ g v { q with pc := p } with pc := s.nextPC i } : Regs) = { g v q with pc := s.nextPC i }) :
    Runs i s (s.ticksOf i) (fun t => ∃ v, ModifyResult s i t v (r v) (g v s.regs) ∧ VIs s t (b v)) := by
  obtain ⟨hm, hcycles⟩ := rmwClass_ticks hcls
  have hticks : s.ticksOf i = accessCycle i.mode true + 2 := by
    rw [s.ticksOf_eq_cycles (by rw [hcls]; decide), hcycles]
  obtain ⟨v, u, t, he, hsu, -, -, hut, hp, htpc, hmod, hb, -⟩ := rmw_class i i.mode hm rfl f (fun v u => (hop v).stays u)
    (s := s) (fun v u hmay => (hop v).frame u (hmay l hl)) (State.ready_calm hready) hu
  have hmay : u.mayUse l = true := hsu.mayUse (s := s.clearLogs) hl
  have hview : u.regs = { s.regs with pc := u.cpu.pc } := hsu.regs
  obtain ⟨hbyte, hregs, hv⟩ := hg v u hmay hview
  have hparams : (f v u).2.params = s.params := ((hop v).frame u hmay).params.trans hsu.params
  rw [hticks]
  refine runs_of_passed hready ((exec_eq i s).trans (hq ▸ he)) hp hb ⟨v, ⟨hbyte ▸ hmod, ?_⟩, ?_⟩
  · calc t.regs = { (f v u).2.regs with pc := s.nextPC i } := by rw [← htpc]; exact hut.regs
      _ = { g v s.regs with pc := s.nextPC i } := by rw [hregs, hview, hpc]
  · exact hut.v.imp (fun h => h.trans hv) fun ⟨h, hdrive⟩ => ⟨h, hparams ▸ hdrive⟩

/-- RRA where it may use its registers: the rotate's carry goes into the add (R414). -/
theorem modifyRra_eq (v : Byte) {u : State} (h : u.mayUse [.a, .c, .d] = true) :
    let w := shifted .ror v u.cpu.p.c
    modifyRra v u = (w.1, (u.setC w.2).setAlu (adcBy u.cpu.p.d u.cpu.a w.1 w.2)) := by
  have hc : u.mayUse [.c] = true := State.mayUse_mono (by decide) h
  rw [modifyRra, State.using_eq hc, rorByte_eq_shifted, readAdc]
  exact congrArg (Prod.mk _) (State.using_eq ((State.setC_written u _).mayUse rfl h) _)

/-- ISB where it may use its registers (R416). -/
theorem modifyIsb_eq (v : Byte) {u : State} (h : u.mayUse [.a, .c, .d] = true) :
    modifyIsb v u = (v + 1, u.setAlu (sbcBy u.cpu.p.d u.cpu.a (v + 1) u.cpu.p.c)) := by
  rw [modifyIsb, readSbc, State.using_eq h]

/-- A read-modify-write instruction whose operation ends in the adder or the subtracter: `w v` is the byte that it writes,
`q v` what the operation gives A and the flags, in a state `x` that differs in those alone. -/
theorem runs_rmw_alu {i : Instr} {f : Byte → State → Byte × State} {l : List Source} {s : State} {w : Byte → Byte}
    {q : Byte → AluResult} (hq : sequenceOf i = .rmw i.mode f) (hcls : i.row.cls = .rmw)
    (hop : ∀ v, OpSpec l (fun u => (f v u).2)) (hready : s.ready = true) (hu : s.mayUse (indexSources i.mode) = true)
    (hl : s.mayUse l = true)
    (hf : ∀ v u, u.mayUse l = true → u.cpu.a = s.cpu.a → u.cpu.p.c = s.cpu.p.c → u.cpu.p.d = s.cpu.p.d →
      ∃ x : State, x.regs.withAlu (q v) = u.regs.withAlu (q v) ∧ f v u = (w v, x.setAlu (q v))) :
    Runs i s (s.ticksOf i) (fun t => ∃ v,
      ModifyResult s i t v (w v) { s.regs with a := (q v).value, c := (q v).c, n := (q v).n, z := (q v).z } ∧
        VIs s t (q v).v) := by
  refine runs_rmw_setV (g := fun v r => r.withAlu (q v)) hq hcls hop hready hu hl (fun v u hm hregs => ?_) fun _ _ _ => rfl
  obtain ⟨x, hx, hfx⟩ := hf v u hm (congrArg Regs.a hregs) (congrArg Regs.c hregs) (congrArg Regs.d hregs)
  rw [hfx]
  exact ⟨rfl, (x.setAlu_regs (q v)).trans hx, rfl⟩

/-- Settles O43: the modified byte goes through the adder, the subtracter or a comparison. -/
theorem modifyThenArithmetic : Obligations.ModifyThenArithmetic := by
  intro i s hready
  obtain ⟨hr, hu⟩ := State.readyFor_iff.mp hready
  obtain ⟨hidx, hl⟩ := State.mayUse_sources hu
  have hcls : i.mnem ∈ [Mnem.rra, .isb, .dcp] → i.row.cls = .rmw := rmwClass_of_combined (by decide)
  have hq : sequenceOf i = mnemSequence i.mnem i.mode := rfl
  generalize i.mnem = n at hl hq hcls ⊢
  refine ⟨?_, ?_, ?_⟩
  · rintro rfl
    refine runs_rmw_alu hq (hcls (by decide)) modifyRra_spec hr hidx hl fun v u hm ha hc hd =>
      ⟨u.setC (shifted .ror v s.cpu.p.c).2, rfl, ?_⟩
    rw [modifyRra_eq v hm, ha, hc, hd]
  · rintro rfl
    refine runs_rmw_alu hq (hcls (by decide)) modifyIsb_spec hr hidx hl fun v u hm ha hc hd => ⟨u, rfl, ?_⟩
    rw [modifyIsb_eq v hm, ha, hc, hd]
  · rintro rfl
    refine runs_rmw (r := (· - 1)) (g := fun v => comparedWith .cmp (v - 1)) hq (hcls (by decide)) modifyDcp_spec hr hidx
      hl (fun v u hm _ => ?_) fun _ _ _ => rfl
    rw [modifyDcp, readCmp, State.using_eq hm]
    exact ⟨rfl, rfl, rfl⟩

/-! ### Unofficial reads (R419 to R425) -/

/-- The unofficial operations on an immediate operand (R420 to R425). -/
theorem immediate_of_unofficial {i : Instr} (h : i.mnem ∈ [Mnem.anc, .alr, .arr, .sbx, .lxa, .ane]) :
    i.mode = .imm ∧ i.row.cls = .read := by
  have hrow : ∀ j : Instr, (!([Mnem.anc, .alr, .arr, .sbx, .lxa, .ane].contains j.mnem) ||
      (j.mode == .imm && j.row.cls == .read)) = true := by
    intro j
    cases j <;> rfl
  have hi := hrow i
  rw [List.contains_iff_mem.mpr h] at hi
  simpa only [Bool.not_true, Bool.false_or, Bool.and_eq_true, beq_iff_eq] using hi

/-- An immediate operand takes two ticks. -/
theorem State.ticksOf_imm (s : State) {i : Instr} (him : i.mode = .imm) (hcls : i.row.cls = .read) : s.ticksOf i = 2 := by
  have hcycles : i.row.cycles = 2 := by
    rcases readClass_ticks hcls with ⟨-, hc⟩ | ⟨hm, -⟩
    · exact hc
    · rw [him] at hm
      exact absurd hm (by decide)
  simp only [State.ticksOf, hcycles, State.pageCross_eq, him, canCross, Bool.false_and, Bool.false_eq_true, and_false,
    if_false]

/-- The operand byte of an immediate mode is the instruction's own (R160). -/
theorem OperandRead.eq_operand1 {s t : State} {i : Instr} {v : Byte} (h : OperandRead s i t v) (him : i.mode = .imm) :
    v = operand1 i := by
  rwa [OperandRead, if_pos him] at h

/-- The programmer's view after ANC, ALR, SBX, LXA and ANE with the operand `v` (R420, R421, R423 to R425, R430). -/
def immediateResult (n : Mnem) (magic v : Byte) (r : Regs) : Regs :=
  match n with
  | .anc => { r with a := r.a &&& v, c := (r.a &&& v).msb }.withNZ (r.a &&& v)
  | .alr => accumulatorShifted .lsr { r with a := r.a &&& v, c := false }
  | .sbx => { r with x := (r.a &&& r.x) - v, c := decide (v.toNat ≤ (r.a &&& r.x).toNat) }.withNZ ((r.a &&& r.x) - v)
  | .lxa => { r with a := (r.a ||| magic) &&& v, x := (r.a ||| magic) &&& v }.withNZ ((r.a ||| magic) &&& v)
  | .ane => { r with a := (r.a ||| magic) &&& r.x &&& v }.withNZ ((r.a ||| magic) &&& r.x &&& v)
  | _ => r

/-- An immediate operation that leaves V alone. -/
theorem runs_immediate {i : Instr} {n : Mnem} {l : List Source} {rd : Byte → State → State} {s : State}
    (hi : i.mnem = n) (hn : n ∈ [Mnem.anc, .alr, .arr, .sbx, .lxa, .ane]) (hq : mnemSequence n i.mode = .read i.mode rd)
    (hop : ∀ v, OpSpec l (rd v)) (hl : mnemSources n = l) (hready : s.readyFor i = true)
    (hg : ∀ v u, u.mayUse l = true → u.params = s.params →
      (rd v u).regs = immediateResult n s.params.magic v u.regs ∧ (rd v u).cpu.p.v = u.cpu.p.v) :
    Runs i s 2 (fun t => VKept s t ∧ OperandRead s i t (operand1 i) ∧
      t.regs = immediateResult n s.params.magic (operand1 i) { s.regs with pc := s.nextPC i } ∧ t.mem = s.mem) := by
  subst hi hl
  obtain ⟨hr, hu⟩ := State.readyFor_iff.mp hready
  obtain ⟨hidx, hl⟩ := State.mayUse_sources hu
  obtain ⟨him, hcls⟩ := immediate_of_unofficial hn
  rw [← s.ticksOf_imm him hcls]
  refine runs_read hq hcls (fun v => (hop v).endsCalmly) hr hidx hl fun v u hk hpc hm hread => ?_
  obtain rfl := (hread u rfl).eq_operand1 him
  have hf : OpFrame (u.setDATA (operand1 i)) (rd (operand1 i) (u.setDATA (operand1 i))) := (hop _).frame _ hm
  obtain ⟨hregs, hv⟩ := hg (operand1 i) (u.setDATA (operand1 i)) hm hk.params
  have hview : (u.setDATA (operand1 i)).regs = { s.regs with pc := s.nextPC i } := by rw [← hpc]; exact hk.toMoved.regs
  have hkv : VKept s (u.endTick .executed) := hk.v
  exact ⟨hkv.imp hv.trans fun ⟨h, hd⟩ => ⟨hv.trans h, hd⟩, hread _ hf.bus,
    hregs.trans (congrArg (immediateResult i.mnem s.params.magic (operand1 i)) hview), hf.mem.trans hk.mem⟩

/-- ARR in binary mode (R422). -/
theorem arrResult_binary (a v : Byte) (c : Bool) :
    let r := (shifted .ror (a &&& v) c).1
    arrResult a v c false =
      { value := r, c := r.getLsbD 6, v := r.getLsbD 6 ^^ r.getLsbD 5, n := r.msb, z := r == 0 } := by
  rw [← rorByte_eq_shifted]
  rfl

/-- The nibbles that ARR tests, as numbers (R422). -/
theorem toNat_and_nibbles : ∀ m : Byte,
    (m &&& 0x0F).toNat + (m &&& 0x01).toNat = m.toNat % 16 + m.toNat % 2 ∧
      (m &&& 0xF0).toNat + (m &&& 0x10).toNat = m.toNat / 16 * 16 + m.toNat / 16 * 16 % 32 := by
  decide

/-- The corrections of the two nibbles do not meet: one after the other is each on its own. -/
theorem nibbles_corrected : ∀ (low high : Bool) (r : Byte),
    let r1 := if low then (r &&& 0xF0) ||| ((r + 6) &&& 0x0F) else r
    (if high then (r1 &&& 0x0F) ||| ((r1 + 0x60) &&& 0xF0) else r1) =
      (if high then (r + 0x60) &&& 0xF0 else r &&& 0xF0) ||| (if low then (r + 6) &&& 0x0F else r &&& 0x0F) := by
  decide

/-- ARR in decimal mode: each nibble of the rotated byte is corrected by the nibble before the rotate (R422). -/
theorem arrResult_decimal (a v : Byte) (c : Bool) :
    let m := a &&& v
    let r := (shifted .ror m c).1
    let low := if 5 < (m &&& 0x0F).toNat + (m &&& 0x01).toNat then (r + 6) &&& 0x0F else r &&& 0x0F
    let carry := decide (0x50 < (m &&& 0xF0).toNat + (m &&& 0x10).toNat)
    let high := if carry then (r + 0x60) &&& 0xF0 else r &&& 0xF0
    arrResult a v c true = { value := high ||| low, c := carry, v := (m ^^^ r).getLsbD 6, n := c, z := r == 0 } := by
  intro m r low carry high
  obtain ⟨hlow, hhigh⟩ := toNat_and_nibbles m
  have hror : (m >>> 1) ||| BitVec.ofNat 8 (128 * bit c) = r := congrArg Prod.fst (rorByte_eq_shifted m c)
  have hvalue := nibbles_corrected (decide (5 < m.toNat % 16 + m.toNat % 2)) carry r
  simp only [carry, low, high, hlow, hhigh, decide_eq_true_eq] at hvalue ⊢
  simp only [arrResult, if_true, m, gt_iff_lt, decide_eq_true_eq] at hror hvalue ⊢
  rw [hror, hvalue]

/-- ARR (R422): its result and flags are those of `arrResult`, V through the hook (R45). -/
theorem arr_runs {i : Instr} {s : State} (hi : i.mnem = .arr) (hready : s.ready = true) (hl : s.mayUse [.a, .c, .d] = true) :
    Runs i s 2 (fun t =>
      let r := arrResult s.cpu.a (operand1 i) s.cpu.p.c s.cpu.p.d
      ReadResult s i t (operand1 i) { s.regs with a := r.value, c := r.c, n := r.n, z := r.z } ∧ t.cpu.p.v = r.v) := by
  obtain ⟨him, hcls⟩ := immediate_of_unofficial (i := i) (by rw [hi]; decide)
  have hq : sequenceOf i = .read i.mode readArr := by rw [sequenceOf, hi]; rfl
  have hidx : s.mayUse (indexSources i.mode) = true := by rw [him]; exact s.mayUse_nil
  rw [← s.ticksOf_imm him hcls]
  refine (runs_alu (alu := fun d a v c => arrResult a v c d) hq hcls readArr_spec hready hidx hl fun _ _ => rfl).imp ?_
  rintro t ⟨v, hresult, hv⟩
  obtain rfl := hresult.1.eq_operand1 him
  exact ⟨hresult, hv⟩

/-- LAS (R419). -/
theorem las_runs {i : Instr} {s : State} (hi : i.mnem = .las) (hready : s.ready = true)
    (hu : s.mayUse (indexSources i.mode) = true) :
    Runs i s (s.ticksOf i) (fun t => VKept s t ∧ ∃ v,
      ReadResult s i t v ({ s.regs with a := v &&& s.cpu.s, x := v &&& s.cpu.s, s := v &&& s.cpu.s }.withNZ
        (v &&& s.cpu.s))) := by
  have hcls : i.row.cls = .read := by
    have hrow : ∀ j : Instr, (j.mnem != .las || j.row.cls == .read) = true := by
      intro j
      cases j <;> rfl
    simpa only [hi, bne_self_eq_false, Bool.false_or, beq_iff_eq] using hrow i
  have hq : sequenceOf i = .read i.mode readLas := by rw [sequenceOf, hi]; rfl
  exact runs_read_result (g := fun v r => { r with a := v &&& r.s, x := v &&& r.s, s := v &&& r.s }.withNZ (v &&& r.s))
    hq hcls (fun v => (readLas_spec v).endsCalmly) hready hu s.mayUse_nil fun _ _ _ => ⟨rfl, rfl⟩

/-- Settles O44: LAS is a read, the others are immediate operations, ARR by the result of `arrResult`. -/
theorem unofficialReads : Obligations.UnofficialReads := by
  intro i s hready
  obtain ⟨hr, hu⟩ := State.readyFor_iff.mp hready
  obtain ⟨hidx, hl⟩ := State.mayUse_sources hu
  refine ⟨fun hi => las_runs hi hr hidx, fun hi => ?_, fun hi => ?_, fun hi => ?_, fun hi => ?_, fun hi => ?_, fun hi => ?_⟩
  · exact runs_immediate hi (by decide) rfl readAnc_spec rfl hready fun v u hm _ => by
      rw [readAnc, State.using_eq hm, readAnd, State.using_eq hm]; exact ⟨rfl, rfl⟩
  · exact runs_immediate hi (by decide) rfl readAlr_spec rfl hready fun v u hm _ => by
      rw [readAlr, State.using_eq hm, lsrByte_eq_shifted]; exact ⟨rfl, rfl⟩
  · rw [hi] at hl
    refine (arr_runs hi hr hl).imp fun t ⟨hresult, hv⟩ => ⟨fun hd => ?_, fun hd => ?_⟩
    · rw [hd, arrResult_binary] at hresult hv
      exact ⟨hv, hresult⟩
    · rw [hd, arrResult_decimal] at hresult hv
      exact ⟨hv, hresult⟩
  · exact runs_immediate hi (by decide) rfl readSbx_spec rfl hready fun v u hm _ => by
      rw [readSbx, State.using_eq hm]; exact ⟨rfl, rfl⟩
  · exact runs_immediate hi (by decide) rfl readLxa_spec rfl hready fun v u hm hp => by
      rw [readLxa, State.using_eq hm, hp]; exact ⟨rfl, rfl⟩
  · exact runs_immediate hi (by decide) rfl readAne_spec rfl hready fun v u hm hp => by
      rw [readAne, State.using_eq hm, hp]; exact ⟨rfl, rfl⟩

/-! ### Masked stores (R426 to R431) -/

/-- A masked store takes its mode's address cycles and the write (R171, R177, R431). -/
theorem maskedStore_shape {i : Instr} (h : i.mnem ∈ [Mnem.sha, .shs, .shx, .shy]) :
    memoryMode i.mode = true ∧ canCross i.mode = true ∧ i.row.cls ≠ .read ∧ i.row.cycles = accessCycle i.mode true := by
  have hrow : ∀ j : Instr, (!([Mnem.sha, .shs, .shx, .shy].contains j.mnem) || (memoryMode j.mode && canCross j.mode &&
      j.row.cls != .read && j.row.cycles == accessCycle j.mode true)) = true := by
    intro j
    cases j <;> rfl
  have hi := hrow i
  rw [List.contains_iff_mem.mpr h] at hi
  simpa only [Bool.not_true, Bool.false_or, Bool.and_eq_true, beq_iff_eq, bne_iff_ne, ne_eq, and_assoc] using hi

/-- The byte that a masked store masks, once it has been prepared (R426 to R429). -/
theorem sh_source {n : Mnem} {m k : Mode} {prep : State → State} {src : State → Byte}
    (h : mnemSequence n m = .sh k prep src) {u : State} (hu : u.mayUse (mnemSources n) = true) :
    src (prep u) = shSource n u.regs := by
  rw [sh_prepares h hu]
  cases n <;> simp only [mnemSequence, reduceCtorEq, Sequence.sh.injEq] at h
  case nop | jmp | asl | lsr | rol | ror => split at h <;> simp only [reduceCtorEq] at h
  all_goals
    obtain ⟨-, -, rfl⟩ := h
    rfl

/-- Settles O45: the store's last cycle, from registers that are as they were. -/
theorem maskedStores : Obligations.MaskedStores := by
  intro i s hready hi
  obtain ⟨hr, hu⟩ := State.readyFor_iff.mp hready
  obtain ⟨hidx, hl⟩ := State.mayUse_sources hu
  obtain ⟨hm, hcross, hcls, hcycles⟩ := maskedStore_shape hi
  obtain ⟨prep, src, hsh⟩ := mnemSequence_sh hi i.mode
  have hprep : (∀ u : State, (∀ l, s.mayUse l = true → u.mayUse l = true) → prep u = u) ∨
      (∀ u : State, (∀ l, s.mayUse l = true → u.mayUse l = true) → prep u = u.setS (u.cpu.a &&& u.cpu.x)) := by
    by_cases hshs : i.mnem = .shs
    · exact .inr fun u h => by rw [sh_prepares hsh (h _ hl), if_pos hshs]
    · exact .inl fun u h => by rw [sh_prepares hsh (h _ hl), if_neg hshs]; rfl
  have hsrc : ∀ u : State, (∀ l, s.mayUse l = true → u.mayUse l = true) → u.cpu.a = s.cpu.a → u.cpu.x = s.cpu.x →
      u.cpu.y = s.cpu.y → src (prep u) = shSource i.mnem s.regs := by
    intro u h ha hx hy
    rw [sh_source hsh (h _ hl)]
    simp only [shSource, State.regs, ha, hx, hy]
  obtain ⟨t, he, hp, hregs, hv, hmem, -, hb, -⟩ :=
    sh_class i i.mode hm hcross rfl prep src hprep hsrc (State.ready_calm hr) hidx
  rw [s.ticksOf_eq_cycles hcls, hcycles]
  refine runs_of_passed hr ((exec_eq i s).trans ?_) hp hb ⟨hv, ?_, hmem⟩
  · exact (congrArg (runInstr i · s) hsh).trans he
  · rw [hregs, sh_prepares hsh hl]
    rfl

end Sys2Proof.Machine

namespace Sys2Proof.Machine

/-! ### A VIA's plain registers and its interrupt output (R533 to R545, R580) -/

theorem State.checkInterrupts_still {s : State} {k : ViaId} (h : (s.via k).irqOut = (s.via k).wantsIrq) :
    s.checkInterrupts k = s := by
  simp [State.checkInterrupts, h]

theorem State.checkInterrupts_rise {s : State} {k : ViaId} (hw : (s.via k).wantsIrq = true)
    (ho : (s.via k).irqOut = false) :
    s.checkInterrupts k = (s.setVia k { s.via k with irqOut := true }).triggerIRQ := by
  simp [State.checkInterrupts, hw, ho]

theorem State.checkInterrupts_fall {s : State} {k : ViaId} (hw : (s.via k).wantsIrq = false)
    (ho : (s.via k).irqOut = true) :
    s.checkInterrupts k = (s.setVia k { s.via k with irqOut := false }).clearIRQ := by
  simp [State.checkInterrupts, hw, ho]

theorem State.triggerIRQ_via (s : State) (k : ViaId) : s.triggerIRQ.via k = s.via k := by cases k <;> rfl

theorem State.clearIRQ_via (s : State) (k : ViaId) : s.clearIRQ.via k = s.via k := by
  unfold State.clearIRQ
  split <;> cases k <;> rfl

/-- `checkInterrupts` changes a VIA's output only, which then follows its flags and enables (R580). -/
theorem State.checkInterrupts_via (s : State) (k : ViaId) :
    (s.checkInterrupts k).via k = { s.via k with irqOut := (s.via k).wantsIrq } := by
  cases hw : (s.via k).wantsIrq <;> cases ho : (s.via k).irqOut
  · rw [State.checkInterrupts_still (ho.trans hw.symm), ← ho]
  · rw [State.checkInterrupts_fall hw ho, State.clearIRQ_via, State.via_setVia]
  · rw [State.checkInterrupts_rise hw ho, State.triggerIRQ_via, State.via_setVia]
  · rw [State.checkInterrupts_still (ho.trans hw.symm), ← ho]

theorem State.irqOut_le_irqCount {s : State} (h : s.linesOk = true) (k : ViaId) : bit (s.via k).irqOut ≤ s.irq.irqCount := by
  simp only [State.linesOk, decide_eq_true_eq] at h
  cases k <;> simp only [State.via] <;> omega

/-- The CPU hears of an edge of the output only, and a count that covers the VIA's output never faults (R471, R580). -/
theorem State.checkInterrupts_line {s : State} {k : ViaId} (h : bit (s.via k).irqOut ≤ s.irq.irqCount) :
    (s.checkInterrupts k).stopped = s.stopped ∧
      ((s.checkInterrupts k).irq.irqCount : Int) = s.irq.irqCount + bit (s.via k).wantsIrq - bit (s.via k).irqOut := by
  have hstopped : ∀ v : Via, (s.setVia k v).stopped = s.stopped := fun v => by cases k <;> rfl
  cases hw : (s.via k).wantsIrq <;> cases ho : (s.via k).irqOut
  · simp [State.checkInterrupts_still (ho.trans hw.symm)]
  · have hcount : s.irq.irqCount ≠ 0 := by rw [ho, bit_true] at h; omega
    simp only [State.checkInterrupts_fall hw ho, State.clearIRQ, State.setVia_irq, hcount, if_false, hstopped, bit_true,
      bit_false, true_and]
    omega
  · simp [State.checkInterrupts_rise hw ho, State.triggerIRQ, State.setVia_irq, hstopped]
  · simp [State.checkInterrupts_still (ho.trans hw.symm)]

theorem State.stepHead_via2 (s : State) (p : BitVec 2) : (s.stepHead p).via2 = s.via2 := by
  unfold State.stepHead
  dsimp only
  generalize (if p = s.mech.phase + 1 then _ else _ : Nat) = h
  split <;> rfl

theorem State.portBEffect_via (s : State) (k : ViaId) : (s.portBEffect k).via k = s.via k := by
  cases k
  · rfl
  · exact State.stepHead_via2 _ _

theorem State.portAEffect_via (s : State) (k : ViaId) (handshake : Bool) : (s.portAEffect k handshake).via k = s.via k := by
  cases k <;> rfl

theorem State.pcrEffect_via (s : State) (k : ViaId) : (s.pcrEffect k).via k = s.via k := by
  cases k
  · rfl
  · show (s.setWriting _).via2 = s.via2
    unfold State.setWriting
    split <;> rfl

/-- A write of a register other than port A changes that VIA's fields as R531 to R546 say, and its output follows. -/
theorem State.viaWrite_via (s : State) (k : ViaId) {r : BitVec 4} (hr : r ≠ 1) (b : Byte) :
    (s.viaWrite k r b).via k = { (s.via k).written r b with irqOut := ((s.via k).written r b).wantsIrq } := by
  unfold State.viaWrite
  rw [State.checkInterrupts_via]
  have hmap : (s.mapVia k fun v => v.written r b).via k = (s.via k).written r b := s.via_setVia k _
  generalize s.mapVia k (fun v => v.written r b) = u at hmap
  dsimp only
  split
  · rw [State.portBEffect_via, hmap]
  · rw [State.portBEffect_via, hmap]
  · next h => exact absurd (BitVec.eq_of_toNat_eq h) hr
  · rw [State.portAEffect_via, hmap]
  · rw [State.portAEffect_via, hmap]
  · rw [State.pcrEffect_via, hmap]
  · rw [hmap]

/-- Settles O56: a write stores the byte in its register's field, and `checkInterrupts` touches none of them. -/
theorem viaRegistersAndInterrupt : Obligations.ViaRegistersAndInterrupt := by
  intro s k b
  refine ⟨fun r hr => ?_, ?_, fun hlines => ⟨?_, State.checkInterrupts_line (State.irqOut_le_irqCount hlines k)⟩⟩
  · have hread : ∀ t : State, t.via k = { (s.via k).written r b with irqOut := ((s.via k).written r b).wantsIrq } →
        (t.viaRead k r).1 = b := by
      intro t ht
      simp only [List.mem_cons, List.not_mem_nil, or_false] at hr
      unfold State.viaRead
      rw [ht]
      rcases hr with rfl | rfl | rfl | rfl | rfl | rfl | rfl <;> rfl
    refine hread _ (s.viaWrite_via k ?_ b)
    rintro rfl
    revert hr
    decide
  · show (0x80 : Byte) ||| ((s.viaWrite k 14 b).via k).ier.setWidth 8 = _
    rw [s.viaWrite_via k (by decide)]
    rfl
  · rw [State.checkInterrupts_via]

end Sys2Proof.Machine

namespace Sys2Proof.Machine

/-! ### The decision at a terminal and the interrupt lines (R471 to R477) -/

/-- A request whose latency is over takes its turn in the decision (R474, R477). -/
theorem State.decision_rst {s : State} (h : s.irq.rstPending = true ∧ s.irq.rstLat = .two) : s.decision = some .rst := by
  simp [State.decision, h]

theorem State.decision_nmi {s : State} (hrst : ¬(s.irq.rstPending = true ∧ s.irq.rstLat = .two))
    (h : s.irq.nmiPending = true ∧ s.irq.nmiLat = .two) : s.decision = some .nmi := by
  simp [State.decision, hrst, h]

theorem State.irqLine_iff (s : State) : s.irqLine = true ↔ 0 < s.irq.irqCount := by
  simp [State.irqLine, Nat.pos_iff_ne_zero]

/-- When an IRQ is eligible (R476). -/
theorem State.irqEligible_iff (s : State) : s.irqEligible = true ↔ 0 < s.irq.irqCount ∧
    (if s.params.iFlagDelay = true ∧ s.sq.ichg = true then s.sq.iprev else s.cpu.p.i) = false ∧ s.irq.irqLat = .two := by
  simp only [State.irqEligible, Bool.and_eq_true, State.irqLine_iff, State.polledI, Bool.not_eq_true', beq_iff_eq, and_assoc]

/-- Without an RST or NMI that is due, the IRQ or the fetch is decided (R477). -/
theorem State.decision_irq {s : State} (hrst : ¬(s.irq.rstPending = true ∧ s.irq.rstLat = .two))
    (hnmi : ¬(s.irq.nmiPending = true ∧ s.irq.nmiLat = .two)) :
    s.decision = if s.irqEligible = true then some .irq else none := by
  simp [State.decision, hrst, hnmi]

/-- The 0-to-1 edge of NMI latches the request, unless one is pending (R472). -/
theorem State.triggerNMI_edge {s : State} (hcount : s.irq.nmiCount = 0) (hpending : s.irq.nmiPending = false) :
    s.triggerNMI.irq.nmiPending = true ∧ s.triggerNMI.irq.nmiLat = .zero := by
  simp [State.triggerNMI, hcount, hpending]

theorem State.triggerNMI_absorbed {s : State} (h : s.irq.nmiCount ≠ 0 ∨ s.irq.nmiPending = true) :
    s.triggerNMI.irq.nmiPending = s.irq.nmiPending ∧ s.triggerNMI.irq.nmiLat = s.irq.nmiLat := by
  rcases h with h | h <;> simp [State.triggerNMI, h]

/-- Two executed ticks serve the latency (R474). -/
theorem Lat.executed_iterate (n : Nat) : Lat.executed^[n + 2] .zero = .two := Function.iterate_fixed rfl n

/-- A stall does not take a latency beyond 1 (R475). -/
theorem Lat.stalled_iterate (n : Nat) : Lat.stalled^[n + 1] .zero = .one := Function.iterate_fixed rfl n

/-! ### The fault that stopped the machine stays (R503) -/

theorem State.phi1_keeps_fault {s : State} {f : Fault} (h : s.stopped = some f) : s.phi1.stopped = some f := by
  have place : ∀ {u : State} (m : Moment), u.stopped = some f → (u.hostCalls m).attachDue.stopped = some f := by
    intro u m hu
    rw [State.attachDue_stopped, State.hostCalls_stopped (Option.isSome_of_mem hu), hu]
  unfold State.phi1
  split
  · exact h
  · have h1 := place .beforeVia1 h
    rw [← State.viaStep_stopped (Option.isSome_of_mem h1) .via1] at h1
    have h2 := place .beforeVia2 h1
    rw [← State.viaStep_stopped (Option.isSome_of_mem h2) .via2] at h2
    have h3 := place .beforeRotation h2
    rw [← State.rotationStep_stopped (Option.isSome_of_mem h3)] at h3
    exact (State.hostCalls_stopped (Option.isSome_of_mem h3) .beforeCpu).trans h3

/-- No agent steps after a fault (R503). -/
theorem State.halfTick_stopped {s : State} {f : Fault} (h : s.stopped = some f) : s.halfTick = s :=
  State.unlessStopped_stopped (Option.isSome_of_mem h) _

theorem step_stopped {s : State} {f : Fault} (h : s.stopped = some f) : step s = .fault f := by
  have hphi : s.clearLogs.phi1.stopped = some f := State.phi1_keeps_fault h
  simp [step, State.stepOnce, State.outcome, hphi]

/-- Settles O15: the decision by its priority, each call on a line by its own equation. -/
theorem interruptLines : Obligations.InterruptLines := by
  intro s
  refine ⟨State.decision_rst, State.decision_nmi, fun hrst hnmi => ?_, rfl, rfl, rfl, rfl, ⟨rfl, rfl⟩, fun h => if_pos h,
    fun h => if_neg h, s.irqLine_iff, rfl, fun h => ?_, fun hcount hpending => (State.triggerNMI_edge hcount hpending).2,
    State.triggerNMI_absorbed, fun h => if_pos h, fun h => if_neg h, rfl,
    fun f hf => ⟨State.halfTick_stopped hf, step_stopped hf⟩,
    fun n => ⟨rfl, Lat.executed_iterate n, Lat.stalled_iterate n, Function.iterate_fixed rfl n⟩⟩
  · rw [State.decision_irq hrst hnmi]
    exact if_congr s.irqEligible_iff rfl rfl
  · cases hpending : s.irq.nmiPending
    · exact (State.triggerNMI_edge h hpending).1
    · rw [(State.triggerNMI_absorbed (.inr hpending)).1, hpending]

end Sys2Proof.Machine

namespace Sys2Proof.Machine

/-! ### The bus access of a calm tick (R81, R155) -/

/-- A calm tick whose micro-op is a read. -/
theorem runSeq_read_bus (feed : Feed) (q : Sequence) {s : State} (hc : Calm 0 s) (hq : s.sq.seq ≠ .boundary)
    {addr : Word} {act : Byte → State → State}
    (hm : ∀ u : State, u.sq = s.sq → u.cpu.pc = s.cpu.pc → u.cpu.s = s.cpu.s → q.micro u = .read addr act)
    (hact : ∀ d u, Stays u (act d u) ∧ (act d u).bus = u.bus) :
    ∃ d, (runSeq feed q 1 s).bus = s.bus ++ [.read addr d] ∧ (s.isStored addr = true → d = s.peek addr) := by
  obtain ⟨d, u, hu, hd, e⟩ := runSeq_read feed q 0 hc hq hm fun d u _ => (hact d _).1
  rw [runSeq, ite_self] at e
  refine ⟨d, ?_, hd⟩
  rw [e, State.endTick_bus, (hact d _).2]
  exact congrArg (· ++ [_]) hu.bus

/-- A calm tick whose micro-op is a push of a value that depends on V alone. -/
theorem runSeq_push_bus (feed : Feed) (q : Sequence) {s : State} (hc : Calm 0 s) (hq : s.sq.seq ≠ .boundary)
    {pre : State → State} {value : State → Byte} {post : State → State} {f : Bool → Byte}
    (hm : ∀ u : State, u.sq = s.sq → q.micro u = .push pre value post)
    (hpre : ∀ u, Dev { s with half := .phi2 } u → Dev u (pre u))
    (hpost : ∀ w, Stays w (post w) ∧ (post w).bus = w.bus ∧ (post w).cpu = w.cpu)
    (hvalue : ∀ u, Dev { s with half := .phi2 } u → value u = f u.cpu.p.v) :
    (runSeq feed q 1 s).bus = s.bus ++ [.write (stackAt s.cpu.s) (f (runSeq feed q 1 s).cpu.p.v)] := by
  obtain ⟨u, hu, e⟩ := runSeq_push feed q 0 hc hq (fun u hsq _ _ => hm u hsq) hpre fun w => (hpost w).1
  dsimp only at e
  rw [runSeq, ite_self] at e
  obtain ⟨-, hbus, hcpu⟩ := hpost (u.pushedByte (value u))
  rw [e, State.endTick_bus, State.endTick_cpu, hbus, hcpu, hvalue u hu]
  show u.bus ++ [.write (stackAt u.cpu.s) (f u.cpu.p.v)] = _ ++ [.write _ (f u.cpu.p.v)]
  rw [show u.bus = s.bus from hu.bus, show u.cpu.s = s.cpu.s from hu.cpu_s]

/-- A run goes on from its first tick, where that has neither stopped nor ended the sequence. -/
theorem runSeq_after_tick {feed : Feed} {q : Sequence} {s t : State} (hc : Calm 0 s) (hq : s.sq.seq ≠ .boundary)
    (ht : runSeq feed q 1 s = runSeq feed q 0 t) (hrun : t.stopped = none) (hseq : t.sq.seq ≠ .boundary) (n : Nat) :
    runSeq feed q (n + 1) s = runSeq feed q n t := by
  have hd := s.phi1_dev hc.quiet
  have hphi : s.phi1.settled = false :=
    State.not_settled (hd.sound ⟨hc.running, hc.lines⟩).1 (by rw [hd.sq]; exact hq)
  have hstall : s.phi1.stalls (q.micro s.phi1) = false := by simp [State.stalls, hd.busHold, hc.hold]
  rw [runSeq_succ, hphi, hstall, if_neg Bool.false_ne_true, if_neg Bool.false_ne_true] at ht ⊢
  rw [runSeq, ite_self, runSeq] at ht
  rw [ht, State.not_settled hrun hseq, if_neg Bool.false_ne_true]

/-! ### The first two ticks of an entry (R152, R484, R486) -/

/-- The terminal micro-op of an entry reads PC. -/
theorem State.terminalTick_bus {s : State} (k : Entry) :
    ∃ d, (s.terminalTick (some k)).bus = s.bus ++ [.read s.cpu.pc d] := by
  have hk : (s.accept k).bus = s.bus := by cases k <;> rfl
  obtain ⟨w, hw, hdw, -⟩ := (s.accept k).busRead_dev s.cpu.pc
  refine ⟨((s.accept k).busRead s.cpu.pc).1, ?_⟩
  show ((s.accept k).executeTick .live (terminalEntry k s)).bus = _
  rw [State.executeTick, State.endTick_bus, (Outside.hostCalls _ _).bus]
  simp only [terminalEntry, MicroOp.discard, MicroOp.perform, hw]
  refine (State.unlessStopped_keeps (P := fun t : State => t.bus = (w.logBus _).bus) rfl rfl).trans ?_
  exact congrArg (· ++ [_]) (hdw.bus.trans hk)

/-- What the terminal tick has logged when the entry goes on from `t`: both logs begin that of the whole entry. -/
theorem enter_bus {s t : State} (k : Entry) (hbus : s.bus = []) (h : s.enter k = runSeq .live (.entry k) 6 t)
    (hlen : t.bus.length = 1) : ∃ d, t.bus = [.read s.cpu.pc d] := by
  obtain ⟨d, hd⟩ := s.terminalTick_bus k
  rw [hbus, List.nil_append] at hd
  have hop : (Sequence.entry k).Operates false [] := rfl
  have hterm : (s.terminalTick (some k)).bus <+: (s.enter k).bus := (runSeq_ran hop .live 6 _).bus
  have ht : t.bus <+: (s.enter k).bus := by
    rw [h]
    exact (runSeq_ran hop .live 6 t).bus
  rw [hd] at hterm
  exact ⟨d, (List.prefix_of_prefix_length_le ht hterm hlen.le).eq_of_length hlen⟩

/-- The terminal tick of an entry and its second cycle, both reads of PC. -/
theorem enter_head (k : Entry) {s : State} (hc : Calm 2 s) :
    ∃ t d1 d2, s.clearLogs.phi1.enter k = runSeq .live (.entry k) 5 t ∧ Kept (s.clearLogs.accept k) t 2 ∧
      t.cpu.pc = s.cpu.pc ∧ t.sq = { (s.accept k).sq.atEntry k with cyc := 3 } ∧ t.irq.nmiLat.executed = .two ∧
      t.bus = [.read s.cpu.pc d1, .read s.cpu.pc d2] := by
  obtain ⟨t, e, k1, p1, hsq⟩ := enter_start k (hc.mono (by omega))
  have hk : (s.clearLogs.accept k).bus = [] ∧ (s.accept k).cpu.pc = s.cpu.pc := by cases k <;> exact ⟨rfl, rfl⟩
  have hd := s.clearLogs.phi1_dev (hc.mono (by omega)).clearLogs.quiet
  obtain ⟨d1, b1⟩ := enter_bus k hd.bus e (by rw [k1.bus, hk.1]; rfl)
  rw [show s.clearLogs.phi1.cpu.pc = s.cpu.pc from hd.cpu_pc] at b1
  have p1 := p1.trans hk.2
  have c1 : Calm 0 t := (k1.calm (n := 1) (hc.clearLogs.accept k)).mono (by omega)
  have hseq : t.sq.seq ≠ .boundary := by rw [hsq]; nofun
  have hm : ∀ u : State, u.sq = t.sq → u.cpu.pc = t.cpu.pc → u.cpu.s = t.cpu.s →
      (Sequence.entry k).micro u = .read s.cpu.pc (fun _ => State.nextCycle) := fun u hu hpc _ => by
    have hcyc : u.sq.cyc = 2 := by rw [hu, hsq]; rfl
    simp only [Sequence.micro, entryCycle, hcyc, hpc, p1, MicroOp.discard]
  obtain ⟨-, u, e2, k2, p2, hsq2, -⟩ := runSeq_next_read .live (.entry k) 0 c1 hseq hm fun _ _ => ⟨⟨rfl, rfl⟩, rfl, id⟩
  have k2 : Kept t (u.nextCycle.endTick .executed) 1 := k2.latched { u.sq with cyc := u.sq.cyc + 1 }
  have k2 := k1.trans k2
  have hsq2 : (u.nextCycle.endTick .executed).sq = { (s.accept k).sq.atEntry k with cyc := 3 } := by
    show { u.sq with cyc := u.sq.cyc + 1 } = _
    rw [hsq2, hsq]
    rfl
  obtain ⟨d2, b2, -⟩ := runSeq_read_bus .live (.entry k) c1 hseq hm fun _ _ => ⟨⟨rfl, rfl⟩, rfl⟩
  refine ⟨_, d1, d2, e.trans (runSeq_after_tick c1 hseq e2 (k2.calm (n := 0) (hc.clearLogs.accept k)).running
    (by rw [hsq2]; nofun) 5), k2, p2.trans p1, hsq2, Lat.executed_executed _, ?_⟩
  exact (congrArg State.bus e2).symm.trans (b2.trans (by rw [b1]; rfl))

/-! ### The last two ticks of an entry (R484, R486) -/

/-- Cycles c6 and c7 read the vector, set I and load PC. -/
theorem runSeq_vector {feed : Feed} {q : Sequence} {s : State} (hc : Calm 1 s) (hq : s.sq.seq ≠ .boundary)
    (hcyc : s.sq.cyc = 6) {vec : Word} (hlow : 0xFFFA ≤ vec.toNat) (hhigh : 0xFFFA ≤ (vec + 1).toNat)
    (hm : ∀ u : State, 5 < u.sq.cyc → u.sq.vec = s.sq.vec → q.micro u = vectorCycle vec u.sq.cyc) :
    ∃ t, runSeq feed q 2 s = t ∧ Passed s t 2 ∧ t.mem = s.mem ∧ VKept s t ∧ t.sq.seq = .boundary ∧ t.sq.brkb = false ∧
      t.regs = { s.regs with i := true, pc := s.peekWord vec } ∧
      t.bus = s.bus ++ [.read vec (s.peek vec), .read (vec + 1) (s.peek (vec + 1))] := by
  have c5 : Calm 0 s := hc.mono (by omega)
  have hm6 : ∀ u : State, u.sq = s.sq → q.micro u = vectorCycle vec 6 := fun u hu => by
    rw [hm u (by rw [hu]; omega) (by rw [hu]), hu, hcyc]
  obtain ⟨t6, e6, p6, hmem6, hv6, hsq6, hregs6⟩ := runSeq_vector_low feed q 0 c5 hq hlow hm6
  obtain ⟨d, b6, hd⟩ := runSeq_read_bus feed q c5 hq (act := fun d u => ((u.setDATA d).setI true).nextCycle)
    (fun u hu _ _ => hm6 u hu) fun _ _ => ⟨⟨rfl, rfl⟩, rfl⟩
  rw [show runSeq feed q 1 s = t6 from e6, hd (State.isStored_vector hc.pages hlow)] at b6
  have c6 : Calm 0 t6 := p6.calm (n := 0) hc
  have hq6 : t6.sq.seq ≠ .boundary := by rw [hsq6]; exact hq
  have hm7 : ∀ u : State, u.sq = t6.sq → q.micro u = vectorCycle vec 7 := fun u hu => by
    rw [hm u (by rw [hu, hsq6]; simp only; omega) (by rw [hu, hsq6]), hu, hsq6, hcyc]
  obtain ⟨t, e7, p7, hmem7, hv7, hend, hregs7⟩ := runSeq_vector_high feed q 0 c6 hq6 hhigh hm7
  obtain ⟨d, u, e, -, -, -, b7, hd⟩ := runSeq_final_read feed q 0 c6 hq6
    (act := fun d u => { u.setPC (joinBytes d u.sq.data) with sq := { u.sq with brkb := false } })
    (fun u hu _ _ => hm7 u hu) fun _ _ => ⟨rfl, rfl⟩
  rw [hd (State.isStored_vector c6.pages hhigh), State.peek, hmem6, b6, List.append_assoc] at b7
  cases e7.symm.trans e
  refine ⟨_, (runSeq_after_tick c5 hq e6 c6.running hq6 1).trans e7, p6.trans p7, hmem7.trans hmem6,
    hv6.trans p6.params hv7, hend, rfl, ?_, b7⟩
  rw [hregs7, hregs6, State.peek, hmem6, hsq6]
  rfl

end Sys2Proof.Machine

namespace Sys2Proof.Machine

/-! ### The tail of an IRQ, NMI or BRK sequence, with its bus accesses (R484, R485) -/

/-- What the vector selection of a sequence consumes; an NMI sequence is not hijackable (R485). -/
def State.selecting (s : State) (hijackable : Bool) : State :=
  { s with irq := { s.irq with nmiPending := s.irq.nmiPending && !(hijackable && s.params.vectorHijack) } }

/-- The vector of a sequence after the selection (R485). -/
def State.selected (s : State) (hijackable : Bool) : Word := if hijackable then s.takenVector else s.sq.vec

theorem State.selecting_false (s : State) : s.selecting false = s := by simp [State.selecting]

theorem Moved.selecting {s t : State} {k : Nat} (h : Moved s t k) (hijackable : Bool) :
    Moved (s.selecting hijackable) (t.selecting hijackable) k := by
  cases hijackable
  · rwa [State.selecting_false, State.selecting_false]
  · exact h.takeOver

theorem Calm.selecting {n : Nat} {s : State} (h : Calm n s) (hijackable : Bool) : Calm n (s.selecting hijackable) :=
  ⟨h.running, h.lines, h.hold, h.quiet, h.pages⟩

/-- The cycle that pushes PCL and selects the vector, where the sequence has a choice (R485). -/
theorem runSeq_push_low (feed : Feed) (q : Sequence) (n : Nat) (hijackable : Bool) {s : State} (hc : Calm 0 s)
    (hq : s.sq.seq ≠ .boundary) (hm : ∀ u : State, u.sq = s.sq → q.micro u = takeInterrupt hijackable u 4)
    (hlat : s.irq.nmiLat = .two) (hvec : hijackable = true → s.sq.vec = 0xFFFE) :
    ∃ t, runSeq feed q (n + 1) s = runSeq feed q n t ∧ Moved ((s.setS (s.cpu.s - 1)).selecting hijackable) t 1 ∧
      t.cpu.pc = s.cpu.pc ∧ t.sq = { s.sq with vec := s.selected hijackable, cyc := s.sq.cyc + 1 } ∧
      t.mem = s.afterWrites [(stackAt s.cpu.s, lo s.cpu.pc)] := by
  cases hijackable
  · obtain ⟨t, e, k, p, hsq, -, hmem⟩ := runSeq_push_next feed q n hc hq (value := fun t => lo t.cpu.pc)
      (v := lo s.cpu.pc) hm fun u hu => by rw [hu]
    exact ⟨t, e, by rwa [State.selecting_false], p, hsq, hmem⟩
  · exact runSeq_push_select feed q n hc hq hm hlat (hvec rfl)

theorem State.selectVector_log (s : State) : s.selectVector.bus = s.bus ∧ s.selectVector.cpu = s.cpu := by
  unfold State.selectVector
  split <;> exact ⟨rfl, rfl⟩

theorem runSeq_push_low_bus (feed : Feed) (q : Sequence) (hijackable : Bool) {s : State} (hc : Calm 0 s)
    (hq : s.sq.seq ≠ .boundary) (hm : ∀ u : State, u.sq = s.sq → q.micro u = takeInterrupt hijackable u 4) :
    (runSeq feed q 1 s).bus = s.bus ++ [.write (stackAt s.cpu.s) (lo s.cpu.pc)] := by
  refine runSeq_push_bus feed q hc hq (pre := id) (value := fun t => lo t.cpu.pc)
    (post := fun t => (if hijackable then t.selectVector else t).nextCycle) (f := fun _ => lo s.cpu.pc) hm
    (fun u _ => Dev.refl u) (fun w => ?_) fun u hu => congrArg lo hu.cpu_pc
  cases hijackable
  · exact ⟨⟨rfl, rfl⟩, rfl, rfl⟩
  · obtain ⟨hgo, -, -⟩ := selectVector_turned w
    exact ⟨⟨hgo.agenda, hgo.tick⟩, w.selectVector_log⟩

theorem runSeq_push_status_bus (feed : Feed) (q : Sequence) (hijackable : Bool) {s : State} (hc : Calm 0 s)
    (hq : s.sq.seq ≠ .boundary) (hm : ∀ u : State, u.sq = s.sq → q.micro u = takeInterrupt hijackable u 5)
    (hflags : s.mayUse statusSources = true) :
    (runSeq feed q 1 s).bus = s.bus ++
      [.write (stackAt s.cpu.s) (s.regs.packed (runSeq feed q 1 s).cpu.p.v s.sq.brkb)] := by
  refine runSeq_push_bus feed q hc hq (pre := State.packAccess) (value := fun t => packFlags t.cpu.p t.sq.brkb)
    (post := State.nextCycle) (f := fun v => s.regs.packed v s.sq.brkb) hm
    (fun u hu => State.packAccess_dev (hu.mayUse (s := { s with half := .phi2 }) hflags))
    (fun _ => ⟨⟨rfl, rfl⟩, rfl, rfl⟩) fun u hu => ?_
  rw [State.packFlags_eq, hu.regs, hu.sq]
  rfl

/-- Cycles c3 and c4 push the return address, and select the vector. -/
theorem runSeq_push_address (feed : Feed) (q : Sequence) (n : Nat) (hijackable : Bool) {s : State} (hc : Calm 2 s)
    (hq : s.sq.seq ≠ .boundary) (hm : ∀ u : State, 2 < u.sq.cyc → q.micro u = takeInterrupt hijackable u u.sq.cyc)
    (hcyc : s.sq.cyc = 3) (hvec : hijackable = true → s.sq.vec = 0xFFFE) (hlat : s.irq.nmiLat.executed = .two) :
    ∃ t, runSeq feed q (n + 2) s = runSeq feed q n t ∧ Moved ((s.setS (s.cpu.s - 2)).selecting hijackable) t 2 ∧
      t.sq = { s.sq with vec := s.selected hijackable, cyc := 5 } ∧
      t.mem = s.afterWrites [(stackAt s.cpu.s, hi s.cpu.pc), (stackAt (s.cpu.s - 1), lo s.cpu.pc)] ∧
      t.bus = s.bus ++ [.write (stackAt s.cpu.s) (hi s.cpu.pc), .write (stackAt (s.cpu.s - 1)) (lo s.cpu.pc)] := by
  have c2 : Calm 0 s := hc.mono (by omega)
  have hm3 : ∀ u : State, u.sq = s.sq → q.micro u = takeInterrupt hijackable u 3 := fun u hu => by
    rw [hm u (by rw [hu]; omega), hu, hcyc]
  obtain ⟨t3, e3, k3, p3, hsq3, hlat3, hmem3⟩ := runSeq_push_next feed q 0 c2 hq (value := fun t => hi t.cpu.pc)
    (v := hi s.cpu.pc) hm3 fun u hu => by rw [hu]
  have b3 := runSeq_push_bus feed q c2 hq (f := fun _ => hi s.cpu.pc) hm3 (fun u _ => Dev.refl u)
    (fun _ => ⟨⟨rfl, rfl⟩, rfl, rfl⟩) fun u hu => congrArg hi hu.cpu_pc
  rw [show runSeq feed q 1 s = t3 from e3] at b3
  have hs3 : t3.cpu.s = s.cpu.s - 1 := k3.sp
  have c3 : Calm 0 t3 := (k3.toPassed.of_setS.calm (n := 1) hc).mono (by omega)
  have hq3 : t3.sq.seq ≠ .boundary := by rw [hsq3]; exact hq
  have hm4 : ∀ u : State, u.sq = t3.sq → q.micro u = takeInterrupt hijackable u 4 := fun u hu => by
    rw [hm u (by rw [hu, hsq3]; simp only; omega), hu, hsq3, hcyc]
  obtain ⟨t4, e4, k4, p4, hsq4, hmem4⟩ := runSeq_push_low feed q 0 hijackable c3 hq3 hm4 (hlat3.trans hlat)
    (by rw [hsq3]; exact hvec)
  have b4 := runSeq_push_low_bus feed q hijackable c3 hq3 hm4
  rw [show runSeq feed q 1 t3 = t4 from e4, b3, hs3, p3, List.append_assoc] at b4
  have k4 := ((k3.setS (t3.cpu.s - 1)).selecting hijackable).trans k4
  have hmem4 := hmem4.trans (State.afterWrites_trans hmem3 k3.params _)
  rw [hs3, p3] at hmem4
  rw [show t3.cpu.s - 1 = s.cpu.s - 2 by rw [hs3]; bv_omega] at k4
  have c4 : Calm 0 t4 := k4.toPassed.calm (n := 0) ⟨hc.running, hc.lines, hc.hold, hc.quiet, hc.pages⟩
  refine ⟨t4, ?_, k4, ?_, hmem4, b4⟩
  · exact (runSeq_after_tick c2 hq e3 c3.running hq3 (n + 1)).trans
      (runSeq_after_tick c3 hq3 e4 c4.running (by rw [hsq4]; exact hq3) n)
  · have hsel : t3.selected hijackable = s.selected hijackable := by
      unfold State.selected
      rw [k3.takenVector, hsq3]
      rfl
    rw [hsq4, hsel, hsq3, hcyc]

/-- Cycles c3 to c5 push the return address and the status, and select the vector. -/
theorem runSeq_pushes (feed : Feed) (q : Sequence) (n : Nat) (hijackable : Bool) {s : State} (hc : Calm 3 s)
    (hq : s.sq.seq ≠ .boundary) (hm : ∀ u : State, 2 < u.sq.cyc → q.micro u = takeInterrupt hijackable u u.sq.cyc)
    (hcyc : s.sq.cyc = 3) (hvec : hijackable = true → s.sq.vec = 0xFFFE) (hlat : s.irq.nmiLat.executed = .two)
    (hflags : s.mayUse statusSources = true) :
    ∃ t, runSeq feed q (n + 3) s = runSeq feed q n t ∧ Moved ((s.setS (s.cpu.s - 3)).selecting hijackable) t 3 ∧
      t.sq = { s.sq with vec := s.selected hijackable, cyc := 6 } ∧
      t.mem = s.afterWrites (s.pushed s.cpu.pc (s.regs.packed t.cpu.p.v s.sq.brkb)) ∧
      t.bus = s.bus ++
        (s.pushed s.cpu.pc (s.regs.packed t.cpu.p.v s.sq.brkb)).map (fun w => BusAccess.write w.1 w.2) := by
  obtain ⟨t4, e4, k4, hsq4, hmem4, b4⟩ := runSeq_push_address feed q (n + 1) hijackable (hc.mono (by omega)) hq hm hcyc
    hvec hlat
  have hs4 : t4.cpu.s = s.cpu.s - 2 := k4.sp
  have c4 : Calm 1 t4 := k4.toPassed.calm (n := 1) ⟨hc.running, hc.lines, hc.hold, hc.quiet, hc.pages⟩
  have hq4 : t4.sq.seq ≠ .boundary := by rw [hsq4]; exact hq
  have hm5 : ∀ u : State, u.sq = t4.sq → q.micro u = takeInterrupt hijackable u 5 := fun u hu => by
    rw [hm u (by rw [hu, hsq4]; show 2 < 5; decide), hu, hsq4]
  have hflags4 : t4.mayUse statusSources = true := k4.mayUse (s := (s.setS _).selecting hijackable) hflags
  have hpacked : ∀ v, t4.regs.packed v t4.sq.brkb = s.regs.packed v s.sq.brkb := fun v => by
    rw [k4.packed, hsq4]
    rfl
  obtain ⟨t5, e5, k5, -, hsq5, hmem5⟩ := runSeq_push_status feed q 0 (c4.mono (by omega)) hq4 hm5 (.inl hflags4)
  have b5 := runSeq_push_status_bus feed q hijackable (c4.mono (by omega)) hq4 hm5 hflags4
  rw [show runSeq feed q 1 t4 = t5 from e5, b4, hs4, hpacked, List.append_assoc] at b5
  have hmem5 := hmem5.trans (State.afterWrites_trans hmem4 k4.params _)
  rw [hs4, hpacked] at hmem5
  have k5 := (k4.setS (t4.cpu.s - 1)).trans k5
  rw [show t4.cpu.s - 1 = s.cpu.s - 3 by rw [hs4]; bv_omega] at k5
  have c5 : Calm 0 t5 := k5.toPassed.calm (n := 0) ⟨hc.running, hc.lines, hc.hold, hc.quiet, hc.pages⟩
  exact ⟨t5, e4.trans (runSeq_after_tick (c4.mono (by omega)) hq4 e5 c5.running (by rw [hsq5]; exact hq4) n), k5,
    by rw [hsq5, hsq4], hmem5, b5⟩

/-- `t` is at the end of an IRQ, NMI or BRK sequence that was at its cycle c3 in `s`: with V being `v`, PC and the status have
been pushed, and PC comes from the selected vector (R484, R485). -/
structure Interrupted (hijackable : Bool) (s t : State) (v : Bool) : Prop where
  passed : Passed (s.selecting hijackable) t 5
  ended : t.sq.seq = .boundary
  vKept : VKept s t
  vSeen : VSeen s v
  regs : t.regs = { s.regs with i := true, s := s.cpu.s - 3, pc := s.peekWord (s.selected hijackable) }
  mem : t.mem = s.afterWrites (s.pushed s.cpu.pc (s.regs.packed v s.sq.brkb))
  bus : t.bus = s.bus ++ (s.pushed s.cpu.pc (s.regs.packed v s.sq.brkb)).map (fun w => BusAccess.write w.1 w.2) ++
    [.read (s.selected hijackable) (s.peek (s.selected hijackable)),
      .read (s.selected hijackable + 1) (s.peek (s.selected hijackable + 1))]

/-- Cycles c3 to c7 of an IRQ, NMI or BRK sequence. -/
theorem runSeq_takeInterrupt (feed : Feed) (q : Sequence) (hijackable : Bool) {s : State} (hc : Calm 5 s)
    (hq : s.sq.seq ≠ .boundary) (hm : ∀ u : State, 2 < u.sq.cyc → q.micro u = takeInterrupt hijackable u u.sq.cyc)
    (hcyc : s.sq.cyc = 3) (hvec : hijackable = true → s.sq.vec = 0xFFFE) (hlat : s.irq.nmiLat.executed = .two)
    (hflags : s.mayUse statusSources = true) (hlow : 0xFFFA ≤ (s.selected hijackable).toNat)
    (hhigh : 0xFFFA ≤ (s.selected hijackable + 1).toNat) :
    ∃ t v, runSeq feed q 5 s = t ∧ Interrupted hijackable s t v := by
  obtain ⟨t5, e5, k5, hsq5, hmem5, b5⟩ := runSeq_pushes feed q 2 hijackable (hc.mono (by omega)) hq hm hcyc hvec hlat hflags
  have p5 : Passed (s.selecting hijackable) t5 3 := k5.toPassed.of_setS (s := s.selecting hijackable) (b := s.cpu.s - 3)
  have hv5 : VKept s t5 := k5.v
  obtain ⟨t7, e7, p7, hmem7, hv7, hend, -, hregs7, b7⟩ := runSeq_vector (feed := feed) (q := q) (s := t5)
    ((p5.calm (n := 2) (hc.selecting hijackable)).mono (by omega)) (by rw [hsq5]; exact hq) (by rw [hsq5]) hlow hhigh
    fun u hlt hu => by
      rw [hm u (by omega), takeInterrupt, hu, hsq5] <;> omega
  have hpeek : ∀ {a : Word}, 0xFFFA ≤ a.toNat → t5.peek a = s.peek a := fun h => by
    rw [State.peek, hmem5, s.read_pushed_vector h]
  have hregs5 : t5.regs = { s.regs with s := s.cpu.s - 3, pc := t5.cpu.pc } := k5.regs
  refine ⟨t7, t5.cpu.p.v, e5.trans e7, p5.trans p7, hend, hv5.trans p5.params hv7, hv5, ?_, hmem7.trans hmem5, ?_⟩
  · rw [hregs7, State.peekWord, hpeek hlow, hpeek hhigh, hregs5]
    rfl
  · rw [b7, b5, hpeek hlow, hpeek hhigh]

end Sys2Proof.Machine

namespace Sys2Proof.Machine

/-! ### The entries from a terminal (R477, R484 to R486) -/

/-- A decision consumes a request and chooses a vector; all else is as it was (R477). -/
theorem State.accept_eq (s : State) (k : Entry) : s.accept k = { s with irq := (s.accept k).irq, sq := (s.accept k).sq } := by
  cases k <;> rfl

/-- A sequence that started in `u`, at the tick of `s`, has completed when calm ticks have passed and it has ended. -/
theorem Passed.completed {s u t : State} {m n : Nat} (h : Passed u t n) (hc : Calm m u) (htick : u.tick = s.tick)
    (hparams : u.params = s.params) (hagenda : u.agenda = s.agenda) (hbus : u.bus = []) (hend : t.sq.seq = .boundary) :
    Completed s t n := by
  obtain ⟨hstop, hlines⟩ := h.sound ⟨hc.running, hc.lines⟩
  exact ⟨hend, by rw [h.tick, htick], h.half, hstop, hlines, h.hold.trans hc.hold, h.params.trans hparams,
    h.agenda.trans hagenda, by rw [h.bus, hbus]; exact Nat.zero_add n⟩

theorem State.pollable_iff {s : State} : s.pollable = true ↔ s.clearLogs.phi1.pollFaults = false := by
  simp [State.pollable]

theorem entryCycle_tail {k : Entry} (hk : k ≠ .rst) (u : State) (h : 2 < u.sq.cyc) :
    (Sequence.entry k).micro u = takeInterrupt (k == .irq) u u.sq.cyc := by
  show entryCycle k u u.sq.cyc = _
  unfold entryCycle
  split
  · omega
  · cases k
    · exact absurd rfl hk
    · rfl
    · rfl

/-- The vector of an IRQ or NMI entry is one of the stored ones. -/
theorem State.selected_stored (s : State) {k : Entry} (hk : k ≠ .rst) :
    0xFFFA ≤ ((s.accept k).selected (k == .irq)).toNat ∧ 0xFFFA ≤ ((s.accept k).selected (k == .irq) + 1).toNat := by
  cases k
  · exact absurd rfl hk
  · exact (by decide : 0xFFFA ≤ (0xFFFA : Word).toNat ∧ 0xFFFA ≤ ((0xFFFA : Word) + 1).toNat)
  · exact s.takenVector_stored

/-- An IRQ or NMI entry from a calm terminal (R484, R485). -/
theorem Calm.step_interrupt {s : State} {k : Entry} (hk : k ≠ .rst) (hc : Calm 7 s) (hseq : s.sq.seq = .boundary)
    (hpoll : s.clearLogs.phi1.pollFaults = false) (hdec : s.decided = some k) (hflags : s.mayUse statusSources = true)
    {vec : Word} (hvec : (s.accept k).selected (k == .irq) = vec) :
    ∃ t v d1 d2, VSeen s v ∧ step s = .next t ∧ Completed s t 7 ∧
      t.regs = { s.regs with i := true, s := s.cpu.s - 3, pc := s.peekWord vec } ∧ VKept s t ∧
      t.mem = s.afterWrites (s.pushed s.cpu.pc (s.regs.packed v false)) ∧
      t.bus = [.read s.cpu.pc d1, .read s.cpu.pc d2] ++
        (s.pushed s.cpu.pc (s.regs.packed v false)).map (fun w => BusAccess.write w.1 w.2) ++
        [.read vec (s.peek vec), .read (vec + 1) (s.peek (vec + 1))] ∧
      t.irq.nmiPending = ((s.accept k).irq.nmiPending && !(k == .irq && s.params.vectorHijack)) ∧
      t.irq.rstPending = (s.accept k).irq.rstPending := by
  obtain ⟨t2, d1, d2, e, k2, hpc2, hsq2, hlat2, b2⟩ := enter_head k (hc.mono (by omega))
  have hc' : Calm 7 (s.clearLogs.accept k) := hc.clearLogs.accept k
  have hirq : (s.clearLogs.accept k).irq = (s.accept k).irq := by cases k <;> rfl
  have hsel : t2.selected (k == .irq) = vec := by
    rw [← hvec]
    unfold State.selected
    rw [k2.takenVector, hsq2]
    cases k <;> rfl
  obtain ⟨hlow, hhigh⟩ := s.selected_stored hk
  rw [hvec, ← hsel] at hlow hhigh
  rw [State.accept_eq, hirq] at k2 hc'
  obtain ⟨t, v, et, ht⟩ := runSeq_takeInterrupt .live (.entry k) (k == .irq) (s := t2) (k2.calm (n := 5) hc')
    (by rw [hsq2]; nofun) (entryCycle_tail hk) (by rw [hsq2])
    (fun h => by rw [hsq2, eq_of_beq h]; rfl) hlat2 (k2.mayUse (s := { s.clearLogs with irq := _, sq := _ }) hflags)
    hlow hhigh
  -- the first two ticks have changed nothing that the rest depends on
  have hregs2 : t2.regs = s.regs := k2.toMoved.regs.trans (by rw [hpc2]; rfl)
  have hbrkb2 : t2.sq.brkb = false := by rw [hsq2]; rfl
  have hpeek2 : ∀ a, t2.peek a = s.peek a := k2.peek
  have hpush2 : ∀ p, t2.pushed t2.cpu.pc p = s.pushed s.cpu.pc p := fun p => by rw [State.pushed, hpc2, k2.sp]; rfl
  have hafter2 : ∀ l, t2.afterWrites l = s.afterWrites l := State.afterWrites_trans (l := []) k2.mem k2.params
  have hpassed := (k2.toMoved.selecting (k == .irq)).toPassed.trans ht.passed
  have hdone : Completed s t 7 := hpassed.completed (hc'.selecting _) rfl rfl rfl rfl ht.ended
  refine ⟨t, v, d1, d2, ht.vSeen.after k2.v k2.params, ?_, hdone, ?_, k2.v.trans k2.params ht.vKept, ?_, ?_,
    hpassed.nmiPending, hpassed.rstPending⟩
  · rw [step_enter hc hseq hpoll hdec, e, et]
    exact State.outcome_eq_next.mpr ⟨rfl, hdone.running⟩
  · rw [ht.regs, hregs2, k2.sp, hsel, State.peekWord, hpeek2, hpeek2]
    rfl
  · rw [ht.mem, hafter2, hpush2, hregs2, hbrkb2]
  · rw [ht.bus, b2, hpush2, hregs2, hbrkb2, hsel, hpeek2, hpeek2]

/-- Settles O16: the IRQ entry, whose vector a pending NMI can take over. -/
theorem takesIrq : Obligations.TakesIrq := by
  intro s hready hseq hdec hflags hpoll
  exact ((State.ready_calm hready).mono (by omega)).step_interrupt (k := .irq) nofun hseq (State.pollable_iff.mp hpoll) hdec
    hflags rfl

/-- A decision for RST or NMI has polled no I (R476, R477). -/
theorem State.pollFaults_of_decision {s : State} {k : Entry} (hk : k ≠ .irq) (h : s.decision = some k) :
    s.pollFaults = false := by
  unfold State.decision at h
  split at h
  · next hrst => simp [State.pollFaults, hrst]
  split at h
  · next hnmi => simp [State.pollFaults, hnmi]
  split at h
  · exact absurd (Option.some.inj h).symm hk
  · cases h

/-- Settles O17: the NMI entry, which keeps its vector. -/
theorem takesNmi : Obligations.TakesNmi := by
  intro s hready hseq hdec hflags
  exact ((State.ready_calm hready).mono (by omega)).step_interrupt (k := .nmi) nofun hseq
    (State.pollFaults_of_decision (k := .nmi) nofun hdec) hdec hflags rfl

/-! ### The reset entry, with its bus accesses (R486) -/

/-- A cycle of the reset entry that reads the stack and lowers S. -/
theorem runSeq_rst_stack_read (n : Nat) {s : State} (hc : Calm 1 s) (hseq : s.sq.seq = .entry .rst)
    (hcyc : s.sq.cyc ∈ [3, 4, 5]) :
    ∃ t, runSeq .live (.entry .rst) (n + 1) s = runSeq .live (.entry .rst) n t ∧ Kept (s.setS (s.cpu.s - 1)) t 1 ∧
      t.sq.seq = .entry .rst ∧ t.sq.cyc = s.sq.cyc + 1 ∧
      t.bus = s.bus ++ [.read (stackAt s.cpu.s) (s.peek (stackAt s.cpu.s))] := by
  have c0 : Calm 0 s := hc.mono (by omega)
  have hq : s.sq.seq ≠ .boundary := by rw [hseq]; nofun
  have hm : ∀ u : State, u.sq = s.sq → u.cpu.pc = s.cpu.pc → u.cpu.s = s.cpu.s →
      (Sequence.entry .rst).micro u = .read (stackAt s.cpu.s) (fun _ t => t.decS.nextCycle) := by
    intro u hu _ hs
    rw [← hu] at hcyc
    rw [← hs]
    show entryCycle .rst u u.sq.cyc = _
    generalize u.sq.cyc = c at hcyc
    simp only [List.mem_cons, List.not_mem_nil, or_false] at hcyc
    rcases hcyc with rfl | rfl | rfl <;> rfl
  obtain ⟨t, e, k, hseqt, hcyct⟩ := runSeq_rst_stack 0 c0 hseq hcyc
  obtain ⟨d, b, hd⟩ := runSeq_read_bus .live (.entry .rst) c0 hq hm fun _ _ => ⟨⟨rfl, rfl⟩, rfl⟩
  rw [show runSeq .live (.entry .rst) 1 s = t from e, hd (State.isStored_stack hc.pages _)] at b
  exact ⟨t, runSeq_after_tick c0 hq e (k.toPassed.of_setS.calm (n := 0) hc).running (by rw [hseqt]; nofun) n, k, hseqt,
    hcyct, b⟩

/-- Cycles c3 to c5 of the reset entry read the three bytes of the stack that an interrupt would write. -/
theorem runSeq_rst_stack_reads (n : Nat) {s : State} (hc : Calm 3 s) (hseq : s.sq.seq = .entry .rst) (hcyc : s.sq.cyc = 3) :
    ∃ t, runSeq .live (.entry .rst) (n + 3) s = runSeq .live (.entry .rst) n t ∧ Kept (s.setS (s.cpu.s - 3)) t 3 ∧
      t.sq.seq = .entry .rst ∧ t.sq.cyc = 6 ∧
      t.bus = s.bus ++ [stackAt s.cpu.s, stackAt (s.cpu.s - 1), stackAt (s.cpu.s - 2)].map
        (fun a => BusAccess.read a (s.peek a)) := by
  obtain ⟨t3, e3, k3, hseq3, hcyc3, b3⟩ := runSeq_rst_stack_read (n + 2) (hc.mono (by omega)) hseq (by rw [hcyc]; decide)
  rw [hcyc] at hcyc3
  have hs3 : t3.cpu.s = s.cpu.s - 1 := k3.sp
  obtain ⟨t4, e4, k4, hseq4, hcyc4, b4⟩ := runSeq_rst_stack_read (n + 1) ((k3.toPassed.of_setS.calm (n := 2) hc).mono (by omega))
    hseq3 (by rw [hcyc3]; decide)
  rw [hcyc3] at hcyc4
  have k4 := (k3.setS (t3.cpu.s - 1)).trans k4
  have hs4 : t4.cpu.s = s.cpu.s - 2 := k4.sp.trans (show t3.cpu.s - 1 = _ by rw [hs3]; bv_omega)
  obtain ⟨t5, e5, k5, hseq5, hcyc5, b5⟩ := runSeq_rst_stack_read n (k4.toPassed.of_setS.of_setS.calm (n := 1) hc) hseq4
    (by rw [hcyc4]; decide)
  rw [hcyc4] at hcyc5
  have k5 := (k4.setS (t4.cpu.s - 1)).trans k5
  rw [show t4.cpu.s - 1 = s.cpu.s - 3 by rw [hs4]; bv_omega] at k5
  refine ⟨t5, e3.trans (e4.trans e5), k5, hseq5, hcyc5, ?_⟩
  rw [b5, b4, b3, hs4, hs3, k4.peek, k3.peek, List.append_assoc, List.append_assoc]
  rfl

theorem entryCycle_rst_vector (u : State) (h : 5 < u.sq.cyc) :
    (Sequence.entry .rst).micro u = vectorCycle 0xFFFC u.sq.cyc := by
  show entryCycle .rst u u.sq.cyc = _
  rw [entryCycle, takeReset] <;> omega

/-- Settles O18: the reset entry reads where the others push, and goes through the reset vector. -/
theorem takesReset : Obligations.TakesReset := by
  intro s hready hseq hdec
  have hc : Calm 7 s := (State.ready_calm hready).mono (by omega)
  have hc' : Calm 7 (s.clearLogs.accept .rst) := hc.clearLogs.accept .rst
  obtain ⟨t2, d1, d2, e2, k2, hpc2, hsq2, -, b2⟩ := enter_head .rst (hc.mono (by omega))
  have hs2 : t2.cpu.s = s.cpu.s := k2.sp
  obtain ⟨t5, e5, k5, hseq5, hcyc5, b5⟩ := runSeq_rst_stack_reads 2 ((k2.calm (n := 5) hc').mono (by omega))
    (by rw [hsq2]; rfl) (by rw [hsq2])
  have k5 := (k2.setS (t2.cpu.s - 3)).trans k5
  have p5 : Passed (s.clearLogs.accept .rst) t5 5 := k5.toPassed.of_setS
  obtain ⟨t, e7, p7, hmem7, hv7, hend, hbrkb, hregs7, b7⟩ := runSeq_vector (feed := .live) (q := .entry .rst) (s := t5)
    (vec := 0xFFFC) ((p5.calm (n := 2) hc').mono (by omega)) (by rw [hseq5]; nofun) hcyc5 (by decide) (by decide)
    fun u hlt _ => entryCycle_rst_vector u hlt
  have hpeek2 : ∀ a, t2.peek a = s.peek a := k2.peek
  have hpeek5 : ∀ a, t5.peek a = s.peek a := k5.peek
  have hpassed := p5.trans p7
  have hdone : Completed s t 7 := hpassed.completed hc' rfl rfl rfl rfl hend
  have hregs5 : t5.regs = { s.regs with s := s.cpu.s - 3, pc := t5.cpu.pc } := hs2 ▸ k5.toMoved.regs
  have hv5 : VKept s t5 := k5.v
  refine ⟨t, d1, d2, ?_, hdone, ?_, hv5.trans p5.params hv7, hmem7.trans k5.mem, ?_, hpassed.rstPending,
    hpassed.nmiPending, hpassed.nmiCount, hbrkb⟩
  · rw [step_enter hc hseq (State.pollFaults_of_decision (k := .rst) nofun hdec) hdec, e2, e5, e7]
    exact State.outcome_eq_next.mpr ⟨rfl, hdone.running⟩
  · rw [hregs7, hregs5, State.peekWord, hpeek5, hpeek5]
    rfl
  · rw [b7, b5, b2, hs2, hpeek5, hpeek5]
    simp only [hpeek2]
    rfl

end Sys2Proof.Machine

namespace Sys2Proof.Machine

/-! ### The registers of a VIA that only a write or a reset changes (R531 to R546, R585) -/

/-- A VIA's ports, directions, timer latches, shift register, controls and enables. -/
structure ViaRegs where
  ora : Byte
  orb : Byte
  ddra : Byte
  ddrb : Byte
  t1ll : Byte
  t1lh : Byte
  t2ll : Byte
  t2lh : Byte
  sr : Byte
  acr : Byte
  pcr : Byte
  ier : BitVec 7

/-- These registers of a VIA. -/
def Via.regs (v : Via) : ViaRegs :=
  ⟨v.ora, v.orb, v.ddra, v.ddrb, v.t1ll, v.t1lh, v.t2ll, v.t2lh, v.sr, v.acr, v.pcr, v.ier⟩

theorem Via.clearPortAFlags_regs (v : Via) : v.clearPortAFlags.regs = v.regs := by
  unfold Via.clearPortAFlags
  dsimp only
  split <;> rfl

theorem Via.clearPortBFlags_regs (v : Via) : v.clearPortBFlags.regs = v.regs := by
  unfold Via.clearPortBFlags
  dsimp only
  split <;> rfl

theorem Via.t1Underflow_regs (v : Via) (reload : Bool) : (v.t1Underflow reload).regs = v.regs := by
  unfold Via.t1Underflow
  split
  · rfl
  · dsimp only
    split <;> split <;> rfl

theorem Via.timerAStep_regs (v : Via) (reload : Bool) : (v.timerAStep reload).regs = v.regs := by
  unfold Via.timerAStep
  split
  · rfl
  · dsimp only
    split
    · exact Via.t1Underflow_regs _ _
    · rfl

theorem Via.timerBStep_regs (v : Via) : v.timerBStep.regs = v.regs := by
  unfold Via.timerBStep
  split
  · rfl
  split
  · rfl
  · dsimp only
    split <;> rfl

/-- A VIA's step at PHI1 (R586). -/
theorem Via.ticked_regs (v : Via) (reload : Bool) : (v.ticked reload).regs = v.regs :=
  (Via.timerBStep_regs _).trans (Via.timerAStep_regs v.endPulses reload)

/-! ### The tracks and the bit offset (R620 to R623) -/

theorem Disk.trackBytes_putTrack (d : Disk) (h : Nat) (bytes : List Byte) : (d.putTrack h bytes).trackBytes h = bytes := by
  simp [Disk.trackBytes, Disk.putTrack]

theorem Disk.trackBytes_putTrack_of_ne (d : Disk) {h k : Nat} (hk : k ≠ h) (bytes : List Byte) :
    (d.putTrack h bytes).trackBytes k = d.trackBytes k := by
  have hfind : (d.tracks.filter (fun t => t.half != h)).find? (fun t => t.half == k) =
      d.tracks.find? (fun t => t.half == k) := by
    rw [List.find?_filter]
    refine congrArg (d.tracks.find? ·) (funext fun t => ?_)
    by_cases ht : t.half = k <;> simp [ht, hk]
  simp [Disk.trackBytes, Disk.putTrack, hfind, hk.symm]

/-- A track replaced by one that fits leaves a buffer of tracks that fit. -/
theorem Disk.putTrack_fits {p : Params} {d : Disk} (hd : d.tracks.all p.trackFits = true) {h : Nat} {bytes : List Byte}
    (hfit : p.trackFits ⟨h, bytes⟩ = true) : (d.putTrack h bytes).tracks.all p.trackFits = true := by
  simp only [Disk.putTrack, List.all_cons, hfit, Bool.true_and, List.all_eq_true] at hd ⊢
  exact fun t ht => hd t (List.mem_of_mem_filter ht)

/-- Bytes no more than those of a track that fits the buffer fit it. -/
theorem Disk.trackFits_of_le {p : Params} {d : Disk} (hd : d.tracks.all p.trackFits = true) {h : Nat} (hh : h < p.maxHalftracks)
    {bytes : List Byte} (hlen : bytes.length = (d.trackBytes h).length) : p.trackFits ⟨h, bytes⟩ = true := by
  have hle : (d.trackBytes h).length ≤ p.maxTrackBytes := by
    unfold Disk.trackBytes
    split
    · next t ht =>
      have hfit := List.all_eq_true.mp hd t (List.mem_of_find?_eq_some ht)
      simp only [Params.trackFits, Bool.and_eq_true, decide_eq_true_eq] at hfit
      exact hfit.1
    · exact Nat.zero_le _
  simp only [Params.trackFits, Bool.and_eq_true, decide_eq_true_eq]
  exact ⟨hlen ▸ hle, hh⟩

theorem withBitAt_length (bytes : List Byte) (p : Nat) (b : Bool) : (withBitAt bytes p b).length = bytes.length :=
  List.length_set

/-- A bit offset on its track is rescaled to one on the new track (R622). -/
theorem rescale_on_track {p m n : Nat} (h : p = 0 ∨ p < m) : rescale p m n = 0 ∨ rescale p m n < n := by
  unfold rescale
  split
  · exact .inl rfl
  · next hmn =>
    simp only [Bool.or_eq_true, decide_eq_true_eq, not_or] at hmn
    obtain ⟨hm, hn⟩ := hmn
    rcases h with rfl | h
    · exact .inl (by simp)
    · refine .inr ((Nat.div_lt_iff_lt_mul (by omega)).mpr ?_)
      rw [Nat.mul_comm n m]
      exact Nat.mul_lt_mul_of_pos_right h (by omega)

/-- The counters of the rotation engine, the head, the tracks and the bit offset are in their ranges. -/
structure State.InRange (s : State) : Prop where
  rotation : s.rotationBounds
  head : s.headInBuffer
  tracks : s.tracksFit
  bitPos : s.bitPosOnTrack

/-- The bounds of `rotationBounds` (R640). -/
def Rotation.InBounds (r : Rotation) : Prop := r.bitCounter < 8 ∧ r.zc < 4 ∧ r.zeroRun ≤ 8 ∧ r.acc < 16

/-- The rotation engine goes from `r` to `q` with its zone and motor as they were and its counters in bounds. -/
structure Rotation.Turns (r q : Rotation) : Prop where
  zone : q.zone = r.zone
  motor : q.motor = r.motor
  inBounds : r.InBounds → q.InBounds

section
variable {s : State}

theorem State.InRange.moveHead (h : s.InRange) (h0 : s.trackSizeBits ≠ 0) : s.moveHead.InRange :=
  ⟨h.rotation, h.head, h.tracks, .inr (Nat.mod_lt _ (Nat.pos_of_ne_zero h0))⟩

theorem State.InRange.setHalfTrack (hr : s.InRange) {h : Nat} (hh : h < s.params.maxHalftracks) : (s.setHalfTrack h).InRange :=
  ⟨hr.rotation, hh, hr.tracks, rescale_on_track hr.bitPos⟩

theorem State.InRange.extendTrack (h : s.InRange) (h0 : s.trackSizeBits = 0) : s.extendTrack.InRange := by
  have hpos : s.disk.bitPos = 0 := h.bitPos.resolve_right (by omega)
  unfold State.extendTrack
  dsimp only
  split
  · exact h
  · next hfits =>
    simp only [Bool.or_eq_true, decide_eq_true_eq, not_or, Nat.not_lt] at hfits
    split
    · refine ⟨h.rotation, h.head, Disk.putTrack_fits h.tracks ?_, .inl hpos⟩
      simp only [Params.trackFits, List.length_replicate, Bool.and_eq_true, decide_eq_true_eq]
      exact ⟨hfits.2, h.head⟩
    · exact ⟨h.rotation, h.head, h.tracks, .inl hpos⟩

/-- The bit offset is on the track whose bytes are under the head. -/
theorem State.bitPosOnTrack_of {bytes : List Byte} (hb : s.disk.trackBytes s.mech.halfTrack = bytes)
    (h : s.disk.bitPos = 0 ∨ s.disk.bitPos < 8 * bytes.length) : s.bitPosOnTrack := by
  subst hb
  exact h

/-- A track overwritten by as many bytes. -/
theorem State.InRange.overwrite (h : s.InRange) {bytes : List Byte}
    (hlen : bytes.length = (s.disk.trackBytes s.mech.halfTrack).length) (dirty : List Nat) :
    State.InRange { s with disk := { s.disk.putTrack s.mech.halfTrack bytes with dirty := dirty } } := by
  refine ⟨h.rotation, h.head, Disk.putTrack_fits h.tracks (Disk.trackFits_of_le h.tracks h.head hlen), ?_⟩
  refine State.bitPosOnTrack_of (Disk.trackBytes_putTrack s.disk s.mech.halfTrack bytes) ?_
  rw [hlen]
  exact h.bitPos

theorem State.InRange.writeNextBit (h : s.InRange) (b : Bool) : (s.writeNextBit b).InRange := by
  have hext : (if s.trackSizeBits = 0 then s.extendTrack else s).InRange := by
    split
    · exact h.extendTrack ‹_›
    · exact h
  unfold State.writeNextBit
  dsimp only
  generalize (if s.trackSizeBits = 0 then s.extendTrack else s) = u at hext ⊢
  by_cases h0 : u.trackSizeBits = 0
  · rw [if_pos h0]
    exact hext
  rw [if_neg h0]
  by_cases hw : (u.disk.attached && !u.disk.writeProtected) = true
  · rw [if_pos hw]
    refine (hext.overwrite (withBitAt_length _ _ _) _).moveHead ?_
    have hsize := congrArg List.length (Disk.trackBytes_putTrack u.disk u.mech.halfTrack
      (withBitAt (u.disk.trackBytes u.mech.halfTrack) u.disk.bitPos b))
    rw [withBitAt_length] at hsize
    exact fun h => h0 ((congrArg (8 * ·) hsize).symm.trans h)
  · rw [if_neg hw]
    exact hext.moveHead h0

theorem State.InRange.setTrack (hr : s.InRange) (h : Nat) (bytes : List Byte) : (s.setTrack h bytes).InRange := by
  unfold State.setTrack
  split
  · exact ⟨hr.rotation, hr.head, hr.tracks, hr.bitPos⟩
  next hfit =>
  rw [Bool.not_eq_true, Bool.not_eq_false'] at hfit
  have htracks := Disk.putTrack_fits hr.tracks hfit
  dsimp only
  split
  · next hh =>
    subst hh
    have hbytes := Disk.trackBytes_putTrack s.disk s.mech.halfTrack bytes
    exact ⟨hr.rotation, hr.head, htracks, State.bitPosOnTrack_of hbytes (rescale_on_track hr.bitPos)⟩
  · next hh =>
    have hbytes := Disk.trackBytes_putTrack_of_ne s.disk (Ne.symm hh) bytes
    exact ⟨hr.rotation, hr.head, htracks, State.bitPosOnTrack_of hbytes hr.bitPos⟩

theorem State.InRange.insertDisk (h : s.InRange) (tracks : List Track) (wp : Bool) : (s.insertDisk tracks wp).InRange := by
  unfold State.insertDisk
  dsimp only
  split
  · exact ⟨h.rotation, h.head, h.tracks, h.bitPos⟩
  · next hfit =>
    rw [Bool.not_eq_true, Bool.not_eq_false'] at hfit
    split <;> exact ⟨h.rotation, h.head, hfit, .inl rfl⟩

end

end Sys2Proof.Machine

namespace Sys2Proof.Machine

/-! ### What device activity and writes to the devices keep -/

/-- From `s` to `t` a fault stays, the outputs of the VIAs keep following their flags and enables, that of `busy` apart, which is
checked next, and what is in range stays in range. -/
structure Orderly (busy : Option ViaId) (s t : State) : Prop where
  params : t.params = s.params
  stopped : s.stopped.isSome = true → t.stopped.isSome = true
  outputs : ∀ k, busy ≠ some k → (s.via k).irqOut = (s.via k).wantsIrq → (t.via k).irqOut = (t.via k).wantsIrq
  inRange : s.InRange → t.InRange

theorem Orderly.trans {o : Option ViaId} {s t u : State} (h : Orderly o s t) (g : Orderly o t u) : Orderly o s u :=
  ⟨g.params.trans h.params, g.stopped ∘ h.stopped, fun k hk => g.outputs k hk ∘ h.outputs k hk, g.inRange ∘ h.inRange⟩

theorem Orderly.setVia {s : State} (k : ViaId) (v : Via) : Orderly (some k) s (s.setVia k v) := by
  have hrange : s.InRange → (s.setVia k v).InRange := fun h => by
    cases k <;> exact ⟨h.rotation, h.head, h.tracks, h.bitPos⟩
  cases k
  · exact ⟨rfl, id, fun | .via1, hk, _ => absurd rfl hk | .via2, _, h => h, hrange⟩
  · exact ⟨rfl, id, fun | .via2, hk, _ => absurd rfl hk | .via1, _, h => h, hrange⟩

/-- `checkInterrupts` changes the output, which follows the flags and enables, and the interrupt state, or raises a fault (R503,
R580). -/
theorem State.checkInterrupts_eq (s : State) (k : ViaId) : ∃ irq stopped,
    (s.stopped.isSome = true → stopped.isSome = true) ∧ s.checkInterrupts k =
      { s.setVia k { s.via k with irqOut := (s.via k).wantsIrq } with irq := irq, stopped := stopped } := by
  by_cases hstill : (s.via k).irqOut = (s.via k).wantsIrq
  · refine ⟨s.irq, s.stopped, id, ?_⟩
    rw [State.checkInterrupts_still hstill, ← hstill]
    cases k <;> rfl
  cases hw : (s.via k).wantsIrq with
  | true =>
    rw [hw, Bool.not_eq_true] at hstill
    rw [State.checkInterrupts_rise hw hstill]
    exact ⟨_, s.stopped, id, by cases k <;> rfl⟩
  | false =>
    rw [hw, Bool.not_eq_false] at hstill
    rw [State.checkInterrupts_fall hw hstill]
    unfold State.clearIRQ
    split
    · exact ⟨s.irq, s.stopped.or (some .clearNeverRaised), by simp, by cases k <;> rfl⟩
    · exact ⟨_, s.stopped, id, by cases k <;> rfl⟩

theorem Orderly.check {s t : State} {k : ViaId} (h : Orderly (some k) s t) : Orderly none s (t.checkInterrupts k) := by
  have hk := t.checkInterrupts_via k
  obtain ⟨irq, stopped, hs, heq⟩ := t.checkInterrupts_eq k
  rw [heq] at hk ⊢
  have hset := h.trans (Orderly.setVia k { t.via k with irqOut := (t.via k).wantsIrq })
  refine ⟨hset.params, hs ∘ h.stopped, fun j _ hj => ?_, fun hr => ?_⟩
  · by_cases hjk : some k = some j
    · injection hjk with hjk
      subst hjk
      rw [hk]
      rfl
    · cases j <;> exact hset.outputs _ hjk hj
  · obtain ⟨hrot, hhead, htracks, hpos⟩ := hset.inRange hr
    exact ⟨hrot, hhead, htracks, hpos⟩

/-- Device activity between `s` and `t` that is neither a write to a register nor a reset: besides, the registers of both VIAs,
the zone, the motor and the stepper's phase are the same. -/
structure Ongoing (busy : Option ViaId) (s t : State) : Prop extends Orderly busy s t where
  regs : ∀ k, (t.via k).regs = (s.via k).regs
  zone : t.rot.zone = s.rot.zone
  motor : t.rot.motor = s.rot.motor
  phase : t.mech.phase = s.mech.phase

section
variable {o : Option ViaId} {s t u : State} {k : ViaId}

theorem Ongoing.trans (h : Ongoing o s t) (g : Ongoing o t u) : Ongoing o s u :=
  ⟨h.toOrderly.trans g.toOrderly, fun k => (g.regs k).trans (h.regs k), g.zone.trans h.zone, g.motor.trans h.motor,
    g.phase.trans h.phase⟩

theorem Ongoing.setVia {v : Via} (h : v.regs = (s.via k).regs) : Ongoing (some k) s (s.setVia k v) := by
  refine ⟨Orderly.setVia k v, ?_, ?_, ?_, ?_⟩ <;> cases k
  · exact fun | .via1 => h | .via2 => rfl
  · exact fun | .via1 => rfl | .via2 => h
  all_goals rfl

/-- A VIA changed in nothing that its output depends on. -/
theorem Ongoing.setVia_of_flags {v : Via} (h : v.regs = (s.via k).regs) (hf : v.ifr = (s.via k).ifr)
    (ho : v.irqOut = (s.via k).irqOut) : Ongoing o s (s.setVia k v) := by
  have hset := Ongoing.setVia h
  have hier : v.ier = (s.via k).ier := congrArg ViaRegs.ier h
  have hw : v.wantsIrq = (s.via k).wantsIrq := by rw [Via.wantsIrq, Via.wantsIrq, hf, hier]
  refine ⟨⟨hset.params, hset.stopped, fun j _ hj => ?_, hset.inRange⟩, hset.regs, hset.zone, hset.motor, hset.phase⟩
  by_cases hjk : some k = some j
  · injection hjk with hjk
    subst hjk
    rw [State.via_setVia, ho, hw]
    exact hj
  · exact hset.outputs j hjk hj

theorem Ongoing.check (h : Ongoing (some k) s t) : Ongoing none s (t.checkInterrupts k) := by
  have horder := h.toOrderly.check
  obtain ⟨irq, stopped, -, heq⟩ := t.checkInterrupts_eq k
  rw [heq] at horder ⊢
  have hset := h.trans (Ongoing.setVia (v := { t.via k with irqOut := (t.via k).wantsIrq }) rfl)
  refine ⟨horder, fun j => Eq.trans ?_ (hset.regs j), hset.zone, hset.motor, hset.phase⟩
  cases j <;> rfl

/-- A change that leaves the VIAs, the zone, the motor and the stepper's phase alone. -/
theorem Ongoing.of_vias (h1 : t.via1 = s.via1) (h2 : t.via2 = s.via2) (hz : t.rot.zone = s.rot.zone)
    (hm : t.rot.motor = s.rot.motor) (hph : t.mech.phase = s.mech.phase) (hp : t.params = s.params)
    (hs : s.stopped.isSome = true → t.stopped.isSome = true) (hr : s.InRange → t.InRange) : Ongoing o s t := by
  have hv : ∀ k, t.via k = s.via k := fun | .via1 => h1 | .via2 => h2
  exact ⟨⟨hp, hs, fun k _ hk => by rw [hv]; exact hk, hr⟩, fun k => by rw [hv], hz, hm, hph⟩

/-- A change of nothing that belongs to the drive. -/
theorem Ongoing.apart (h1 : t.via1 = s.via1) (h2 : t.via2 = s.via2) (hr : t.rot = s.rot) (hm : t.mech = s.mech)
    (hd : t.disk = s.disk) (hp : t.params = s.params) (hs : s.stopped.isSome = true → t.stopped.isSome = true) :
    Ongoing o s t := by
  refine Ongoing.of_vias h1 h2 (by rw [hr]) (by rw [hr]) (by rw [hm]) hp hs fun h => ?_
  obtain ⟨hrot, hhead, htracks, hpos⟩ := h
  refine ⟨?_, ?_, ?_, ?_⟩
  · rwa [State.rotationBounds, hr]
  · rwa [State.headInBuffer, hm, hp]
  · rwa [State.tracksFit, hd, hp]
  · rwa [State.bitPosOnTrack, State.trackSizeBits, hd, hm]

theorem Ongoing.refl (s : State) : Ongoing o s s := Ongoing.apart rfl rfl rfl rfl rfl rfl id

theorem Ongoing.logCall (s : State) (c : OutCall) : Ongoing o s (s.logCall c) := Ongoing.apart rfl rfl rfl rfl rfl rfl id

theorem Ongoing.advanceDraws (s : State) : Ongoing o s s.advanceDraws := Ongoing.apart rfl rfl rfl rfl rfl rfl id

theorem Ongoing.fail (s : State) (f : Fault) : Ongoing o s (s.fail f) :=
  Ongoing.apart rfl rfl rfl rfl rfl rfl fun _ => by simp

theorem Ongoing.rot {r : Rotation} (h : s.rot.Turns r) : Ongoing o s { s with rot := r } :=
  Ongoing.of_vias rfl rfl h.zone h.motor rfl rfl id fun hr => ⟨h.inBounds hr.rotation, hr.head, hr.tracks, hr.bitPos⟩

theorem Ongoing.unlessStopped {f : State → State} (h : Ongoing o s (f s)) : Ongoing o s (s.unlessStopped f) :=
  State.unlessStopped_keeps (P := Ongoing o s) (Ongoing.refl s) h

end

/-! #### Lines, reads and timers -/

theorem Ongoing.drawByte {o : Option ViaId} (s : State) (c : OutCall) : Ongoing o s (s.drawByte c).2 :=
  (Ongoing.advanceDraws s).trans (Ongoing.logCall _ c)

theorem Ongoing.inA {o : Option ViaId} (s : State) (k : ViaId) (b : Bool) : Ongoing o s (s.inA k b).2 := by
  cases k
  · exact Ongoing.drawByte s _
  · exact Ongoing.refl s

theorem Ongoing.inB {o : Option ViaId} (s : State) (k : ViaId) : Ongoing o s (s.inB k).2 := by
  cases k
  · exact Ongoing.drawByte s _
  · exact Ongoing.refl s

theorem Ongoing.signal (s : State) (k : ViaId) (l : ControlLine) (e : Edge) : Ongoing none s (s.signal k l e) := by
  cases l with
  | ca1 =>
    show Ongoing none s (s.signalCA1 k e)
    unfold State.signalCA1
    split
    · have hin := (Ongoing.setVia (v := (s.via k).raiseFlag 1) rfl).trans (Ongoing.inA (s.setVia k _) k false)
      refine (hin.trans (Ongoing.setVia ?_)).check
      rfl
    · exact Ongoing.refl s
  | cb1 =>
    show Ongoing none s (s.signalCB1 k e)
    unfold State.signalCB1
    split
    · have hin := (Ongoing.setVia (v := (s.via k).raiseFlag 4) rfl).trans (Ongoing.inB (s.setVia k _) k)
      refine (hin.trans (Ongoing.setVia ?_)).check
      rfl
    · exact Ongoing.refl s
  | ca2 =>
    show Ongoing none s (s.signalCA2 k e)
    unfold State.signalCA2
    dsimp only
    split
    · exact (Ongoing.setVia (by rfl)).check
    · exact Ongoing.setVia_of_flags (by rfl) (by rfl) (by rfl)
  | cb2 =>
    show Ongoing none s (s.signalCB2 k e)
    unfold State.signalCB2
    dsimp only
    split
    · exact (Ongoing.setVia (by rfl)).check
    · exact Ongoing.setVia_of_flags (by rfl) (by rfl) (by rfl)

theorem Ongoing.ca2Handshake {o : Option ViaId} (s : State) (k : ViaId) : Ongoing o s (s.ca2Handshake k) := by
  unfold State.ca2Handshake
  dsimp only
  split
  · split
    · exact (Ongoing.setVia_of_flags (by rfl) (by rfl) (by rfl)).trans (Ongoing.logCall _ _)
    · exact Ongoing.setVia_of_flags (by rfl) (by rfl) (by rfl)
  · exact Ongoing.refl s

theorem Ongoing.mapVia (s : State) (k : ViaId) {f : Via → Via} (h : ∀ v, (f v).regs = v.regs) :
    Ongoing (some k) s (s.mapVia k f) := Ongoing.setVia (h _)

/-- A read of a VIA register (R531 to R546). -/
theorem Ongoing.viaRead (s : State) (k : ViaId) (r : BitVec 4) : Ongoing none s (s.viaRead k r).2 := by
  have hclear : ∀ n, Ongoing none s ((s.setVia k ((s.via k).clearFlag n)).checkInterrupts k) := fun n =>
    (Ongoing.setVia (by rfl)).check
  unfold State.viaRead
  dsimp only
  split
  case h_1 => exact ((Ongoing.inB s k).trans (Ongoing.mapVia _ k Via.clearPortBFlags_regs)).check
  case h_2 =>
    exact (((Ongoing.inA s k true).trans (Ongoing.mapVia _ k Via.clearPortAFlags_regs)).trans (Ongoing.ca2Handshake _ k)).check
  case h_5 => exact hclear 6
  case h_9 => exact hclear 5
  case h_11 => exact hclear 2
  case h_16 => exact Ongoing.inA s k false
  all_goals exact Ongoing.refl s

theorem Ongoing.viaTick (s : State) (k : ViaId) : Ongoing none s (s.viaTick k) :=
  (Ongoing.mapVia s k fun v => v.ticked_regs s.params.t1OneshotReload).check

/-- A VIA's step at PHI1 (R586). -/
theorem Ongoing.viaStep (s : State) (k : ViaId) : Ongoing none s (s.viaStep k) := by
  unfold State.viaStep
  split
  · exact Ongoing.refl s
  · exact (Ongoing.viaTick s k).unlessStopped

theorem Ongoing.attachDue (s : State) : Ongoing none s s.attachDue := by
  unfold State.attachDue
  split
  · split
    · exact Ongoing.of_vias rfl rfl rfl rfl rfl rfl id fun h => ⟨h.rotation, h.head, h.tracks, h.bitPos⟩
    · exact Ongoing.refl s
  · exact Ongoing.refl s

/-! #### The rotation engine (R640 to R651) -/

theorem Ongoing.byteReady (s : State) : Ongoing none s s.byteReady := by
  have h : Ongoing none s { s.signal .via2 .ca1 .fall with rot := { (s.signal .via2 .ca1 .fall).rot with ca1Low := true } } :=
    (Ongoing.signal s .via2 .ca1 .fall).trans (Ongoing.rot ⟨rfl, rfl, id⟩)
  unfold State.byteReady
  dsimp only
  split
  · exact h.trans (Ongoing.apart rfl rfl rfl rfl rfl rfl id)
  · exact h

theorem Ongoing.frame (s : State) : Ongoing none s s.frame := by
  unfold State.frame
  split
  · exact Ongoing.rot ⟨rfl, rfl, fun ⟨_, hrest⟩ => ⟨Nat.succ_pos _, hrest⟩⟩
  split
  · refine Ongoing.trans (Ongoing.rot ?_) (Ongoing.byteReady _)
    exact ⟨rfl, rfl, fun ⟨_, hrest⟩ => ⟨Nat.succ_pos _, hrest⟩⟩
  · exact Ongoing.rot ⟨rfl, rfl, fun ⟨hbit, hrest⟩ => ⟨Nat.lt_of_le_of_ne hbit ‹_›, hrest⟩⟩

/-- Whatever the engine makes of a bit, it then frames. -/
theorem Ongoing.rot_frame {s u : State} (h : Ongoing none s u) {r : Rotation} (hr : u.rot.Turns r) :
    Ongoing none s (State.frame { u with rot := r }) :=
  (h.trans (Ongoing.rot hr)).trans (Ongoing.frame _)

theorem Ongoing.readNextBit (s : State) : Ongoing none s s.readNextBit.2 := by
  unfold State.readNextBit
  split
  · exact Ongoing.refl s
  · exact Ongoing.of_vias rfl rfl rfl rfl rfl rfl id fun h => h.moveHead ‹_›

theorem Ongoing.fluxNoise (s : State) : Ongoing none s s.fluxNoise.2 := by
  have hdraws : Ongoing none s s.advanceDraws.advanceDraws := (Ongoing.advanceDraws s).trans (Ongoing.advanceDraws _)
  unfold State.fluxNoise
  split
  · dsimp only
    split
    · exact hdraws.trans (Ongoing.readNextBit _)
    · exact hdraws
  · exact Ongoing.refl s

theorem Ongoing.readBit (s : State) : Ongoing none s s.readBit := by
  have hnext := Ongoing.readNextBit s
  unfold State.readBit
  dsimp only
  split
  · exact hnext.rot_frame ⟨rfl, rfl, fun ⟨hbit, _, _, hacc⟩ => ⟨hbit, Nat.succ_pos _, Nat.zero_le _, hacc⟩⟩
  have hnoise : ∀ h, Ongoing none s (State.fluxNoise { s.readNextBit.2 with rot := { s.readNextBit.2.rot with
      history := h, zeroRun := min (s.readNextBit.2.rot.zeroRun + 1) 8 } }).2 := fun h => by
    refine (hnext.trans (Ongoing.rot ?_)).trans (Ongoing.fluxNoise _)
    exact ⟨rfl, rfl, fun ⟨hbit, hzc, _, hacc⟩ => ⟨hbit, hzc, Nat.min_le_right _ _, hacc⟩⟩
  have hforced : ∀ {u : State}, Ongoing none s u → Ongoing none s u.forceOne.frame := fun hu =>
    hu.rot_frame ⟨rfl, rfl, fun ⟨hbit, _, hrest⟩ => ⟨hbit, Nat.succ_pos _, hrest⟩⟩
  split
  · exact hforced (hnoise _)
  split
  · exact hforced (hnoise _)
  · exact (hnoise _).rot_frame ⟨rfl, rfl, fun ⟨hbit, hzc, hrest⟩ => ⟨hbit, Nat.lt_of_le_of_ne hzc ‹_›, hrest⟩⟩

theorem Ongoing.loadWriteShift (s : State) : Ongoing none s s.loadWriteShift := by
  unfold State.loadWriteShift
  split <;> exact Ongoing.rot ⟨rfl, rfl, id⟩

/-- A write of one bit reaches the tracks, the head and the draws of `isAllowed()` only (R621, R626). -/
theorem State.writeNextBit_eq (s : State) (b : Bool) : ∃ disk draws calls,
    s.writeNextBit b = { s with disk := disk, draws := draws, calls := calls } := by
  have hext : ∃ disk draws calls, (if s.trackSizeBits = 0 then s.extendTrack else s) =
      { s with disk := disk, draws := draws, calls := calls } := by
    unfold State.extendTrack
    dsimp only
    split
    · split
      · exact ⟨_, _, _, rfl⟩
      · split <;> exact ⟨_, _, _, rfl⟩
    · exact ⟨_, _, _, rfl⟩
  unfold State.writeNextBit
  dsimp only
  generalize (if s.trackSizeBits = 0 then s.extendTrack else s) = u at hext ⊢
  obtain ⟨_, _, _, rfl⟩ := hext
  split
  · exact ⟨_, _, _, rfl⟩
  · split <;> exact ⟨_, _, _, rfl⟩

theorem Ongoing.writeNextBit (s : State) (b : Bool) : Ongoing none s (s.writeNextBit b) := by
  have hr : s.InRange → (s.writeNextBit b).InRange := fun h => h.writeNextBit b
  obtain ⟨_, _, _, heq⟩ := s.writeNextBit_eq b
  rw [heq] at hr ⊢
  exact Ongoing.of_vias rfl rfl rfl rfl rfl rfl id hr

theorem Ongoing.writeBit (s : State) : Ongoing none s s.writeBit := by
  have hload : Ongoing none s (if s.rot.bitCounter = 0 then s.loadWriteShift else s) := by
    split
    · exact Ongoing.loadWriteShift s
    · exact Ongoing.refl s
  unfold State.writeBit
  dsimp only
  generalize (if s.rot.bitCounter = 0 then s.loadWriteShift else s) = u at hload ⊢
  have hwrite : ∀ v b, Ongoing none s (State.writeNextBit { u with rot := { u.rot with writeShift := v } } b) := fun v b => by
    refine (hload.trans (Ongoing.rot ?_)).trans (Ongoing.writeNextBit _ b)
    exact ⟨rfl, rfl, id⟩
  have hdone : ∀ v b h, Ongoing none s { State.writeNextBit { u with rot := { u.rot with writeShift := v } } b with
      rot := { (State.writeNextBit { u with rot := { u.rot with writeShift := v } } b).rot with
        history := h
        zeroRun := 0
        zc := 0
        bitCounter := ((State.writeNextBit { u with rot := { u.rot with writeShift := v } } b).rot.bitCounter + 1) % 8 } } :=
    fun v b h => (hwrite v b).trans (Ongoing.rot
      ⟨rfl, rfl, fun ⟨_, _, _, hacc⟩ => ⟨Nat.mod_lt _ (Nat.succ_pos _), Nat.succ_pos _, Nat.zero_le _, hacc⟩⟩)
  split
  · exact (hdone _ _ _).trans (Ongoing.byteReady _)
  · exact hdone _ _ _

theorem Ongoing.passBits (n : Nat) (s : State) : Ongoing none s (s.passBits n) := by
  induction n generalizing s with
  | zero => exact Ongoing.refl s
  | succ n ih =>
    have h : Ongoing none s s.passBit := by
      unfold State.passBit
      split
      · exact Ongoing.writeBit s
      · exact Ongoing.readBit s
    exact h.trans (ih _)

theorem Rotation.cell_bounds (r : Rotation) : 0 < r.cell ∧ r.cell ≤ 16 := by
  have := r.zone.isLt
  unfold Rotation.cell
  omega

theorem Ongoing.advanceTick (s : State) : Ongoing none s s.advanceTick := by
  have hrise : ∀ n, Ongoing none s (if s.rot.ca1Low = true then
      State.signal { s with rot := { s.rot with lastTick := n, ca1Low := false } } .via2 .ca1 .rise
      else { s with rot := { s.rot with lastTick := n } }) := fun n => by
    split
    · refine Ongoing.trans (Ongoing.rot ?_) (Ongoing.signal _ _ _ _)
      exact ⟨rfl, rfl, id⟩
    · exact Ongoing.rot ⟨rfl, rfl, id⟩
  have h := hrise (s.rot.lastTick + 1)
  unfold State.advanceTick
  dsimp only at h ⊢
  generalize (if s.rot.ca1Low = true then _ else _ : State) = u at h ⊢
  split
  · obtain ⟨hpos, hle⟩ := u.rot.cell_bounds
    refine (h.trans (Ongoing.rot ?_)).trans (Ongoing.passBits _ _)
    exact ⟨rfl, rfl, fun ⟨hbit, hzc, hzero, _⟩ => ⟨hbit, hzc, hzero, (Nat.mod_lt _ hpos).trans_le hle⟩⟩
  · exact h

theorem Ongoing.advance (s : State) : Ongoing none s s.advance := by
  unfold State.advance
  induction s.tick - s.rot.lastTick generalizing s with
  | zero => exact Ongoing.refl s
  | succ n ih => exact (Ongoing.advanceTick s).trans (ih _)

/-- The rotation engine's step at PHI1 (R586, R650). -/
theorem Ongoing.rotationStep (s : State) : Ongoing none s s.rotationStep := by
  unfold State.rotationStep
  split
  · exact Ongoing.refl s
  · exact (Ongoing.advance s).unlessStopped

/-- The V hook (R45). -/
theorem Ongoing.onVAccess (s : State) : Ongoing none s s.onVAccess := by
  unfold State.onVAccess
  split
  · exact Ongoing.refl s
  · exact Ongoing.advance s

theorem Ongoing.busRead (s : State) (a : Word) : Ongoing none s (s.busRead a).2 := by
  have hlog : ∀ u b, Ongoing none u (State.logBus u b) := fun _ _ => Ongoing.apart rfl rfl rfl rfl rfl rfl id
  refine Ongoing.trans ?_ (hlog (s.readMemory a).2 _)
  unfold State.readMemory
  split
  · exact Ongoing.viaRead s _ _
  · split
    · exact Ongoing.advanceDraws s
    · exact Ongoing.refl s

end Sys2Proof.Machine

namespace Sys2Proof.Machine

/-! #### Writes, resets and host calls -/

theorem Orderly.setHalfTrack {o : Option ViaId} {s : State} {h : Nat} (hh : s.InRange → h < s.params.maxHalftracks) :
    Orderly o s (s.setHalfTrack h) :=
  ⟨rfl, id, fun k _ hk => by cases k <;> exact hk, fun hr => hr.setHalfTrack (hh hr)⟩

/-- Zone, motor and stepper phase may be set to anything. -/
theorem Orderly.wire {o : Option ViaId} (s : State) (zone phase : BitVec 2) (motor : Bool) : Orderly o s { s with
    rot := { s.rot with zone := zone, motor := motor }, mech := { s.mech with phase := phase } } :=
  ⟨rfl, id, fun k _ hk => by cases k <;> exact hk, fun h => ⟨h.rotation, h.head, h.tracks, h.bitPos⟩⟩

/-- The stepper moves the head within the buffer (R599). -/
theorem Orderly.diskPortB {o : Option ViaId} (s : State) : Orderly o s s.diskPortB := by
  have hwire := Orderly.wire (o := o) s (s.via2.outB.extractLsb' 5 2) (s.via2.outB.extractLsb' 0 2) (s.via2.outB.getLsbD 2)
  unfold State.diskPortB State.stepHead
  dsimp only at hwire ⊢
  generalize hnew : (if s.via2.outB.extractLsb' 0 2 = s.mech.phase + 1 then _ else _ : Nat) = h
  split
  · exact hwire
  · refine hwire.trans (Orderly.setHalfTrack fun hr => ?_)
    have hhead : s.mech.halfTrack < s.params.maxHalftracks := hr.head
    show h < s.params.maxHalftracks
    subst hnew
    split
    · omega
    · split <;> omega

theorem Ongoing.setWriting {o : Option ViaId} (s : State) (w : Bool) : Ongoing o s (s.setWriting w) := by
  unfold State.setWriting
  split
  · exact Ongoing.rot ⟨rfl, rfl, fun ⟨_, hrest⟩ => ⟨Nat.succ_pos _, hrest⟩⟩
  · exact Ongoing.rot ⟨rfl, rfl, id⟩

theorem Ongoing.portAEffect {o : Option ViaId} (s : State) (k : ViaId) (b : Bool) : Ongoing o s (s.portAEffect k b) := by
  cases k
  · exact Ongoing.logCall s _
  · exact Ongoing.refl s

theorem Ongoing.pcrEffect {o : Option ViaId} (s : State) (k : ViaId) : Ongoing o s (s.pcrEffect k) := by
  cases k
  · exact Ongoing.refl s
  · exact Ongoing.setWriting s _

/-- After the register has been written (R531 to R546), a write of port B or of its directions has the port-B side effect (R592,
R597), any other write none that touches a register or the drive's wiring; then the output is checked. -/
theorem State.viaWrite_cases (s : State) (k : ViaId) (r : BitVec 4) (b : Byte) : ∃ u, s.viaWrite k r b = u.checkInterrupts k ∧
    ((r = 0 ∨ r = 2) ∧ u = (s.mapVia k fun v => v.written r b).portBEffect k ∨
      (r ≠ 0 ∧ r ≠ 2) ∧ Ongoing (some k) (s.mapVia k fun v => v.written r b) u) := by
  refine ⟨_, rfl, ?_⟩
  generalize s.mapVia k (fun v => v.written r b) = u
  have hr : ∀ n < 16, r.toNat = n → r = BitVec.ofNat 4 n := fun n _ h => by rw [← h, BitVec.ofNat_toNat, BitVec.setWidth_eq]
  split
  case h_1 h => exact .inl ⟨.inl (hr _ (by decide) h), rfl⟩
  case h_2 h => exact .inl ⟨.inr (hr _ (by decide) h), rfl⟩
  case h_7 h0 h2 _ _ _ _ => exact .inr ⟨⟨fun h => h0 (by rw [h]; rfl), fun h => h2 (by rw [h]; rfl)⟩, Ongoing.refl u⟩
  case h_3 h =>
    rw [hr _ (by decide) h]
    exact .inr ⟨by decide, (Ongoing.ca2Handshake u k).trans (Ongoing.portAEffect _ k _)⟩
  case h_4 h | h_5 h =>
    rw [hr _ (by decide) h]
    exact .inr ⟨by decide, Ongoing.portAEffect u k _⟩
  case h_6 h =>
    rw [hr _ (by decide) h]
    exact .inr ⟨by decide, Ongoing.pcrEffect u k⟩

theorem Orderly.viaWrite (s : State) (k : ViaId) (r : BitVec 4) (b : Byte) : Orderly none s (s.viaWrite k r b) := by
  obtain ⟨u, heq, hu⟩ := s.viaWrite_cases k r b
  have hwrite : Orderly (some k) s (s.mapVia k fun v => v.written r b) := Orderly.setVia k _
  rw [heq]
  rcases hu with ⟨-, rfl⟩ | ⟨-, hu⟩
  · refine (hwrite.trans ?_).check
    cases k
    · exact (Ongoing.logCall _ _).toOrderly
    · exact Orderly.diskPortB _
  · exact (hwrite.trans hu.toOrderly).check

/-! #### The wiring of VIA2's port B (R597, R601) -/

/-- The byte that a VIA drives on port B, PB7 of Timer A apart. -/
def Via.drivenB (v : Via) : Byte := v.orb ||| ~~~ v.ddrb

theorem Via.drivenB_of_regs {v w : Via} (h : w.regs = v.regs) : w.drivenB = v.drivenB := by
  rw [Via.drivenB, Via.drivenB, show w.orb = v.orb from congrArg ViaRegs.orb h, show w.ddrb = v.ddrb from congrArg ViaRegs.ddrb h]

/-- Below PB7 the port is what is driven. -/
theorem Via.outB_getLsbD (v : Via) {n : Nat} (hn : n < 7) : v.outB.getLsbD n = v.drivenB.getLsbD n := by
  unfold Via.outB Via.withPb7
  split
  · have hmask : (0x7F : Byte).getLsbD n = true := by revert n; decide
    have hpb7 : (BitVec.ofNat 8 (128 * bit v.pb7)).getLsbD n = false := by
      cases v.pb7 <;> revert n <;> decide
    rw [BitVec.getLsbD_or, BitVec.getLsbD_and, hmask, hpb7, Bool.and_true, Bool.or_false]
    rfl
  · rfl

theorem Via.outB_bits (v : Via) {i w : Nat} (h : i + w ≤ 7) : v.outB.extractLsb' i w = v.drivenB.extractLsb' i w := by
  refine BitVec.eq_of_getLsbD_eq fun j hj => ?_
  rw [BitVec.getLsbD_extractLsb', BitVec.getLsbD_extractLsb', v.outB_getLsbD (by omega)]

theorem State.portBWired_iff {s : State} : s.portBWired ↔ s.rot.zone = s.via2.drivenB.extractLsb' 5 2 ∧
    s.rot.motor = s.via2.drivenB.getLsbD 2 ∧ s.mech.phase = s.via2.drivenB.extractLsb' 0 2 := by
  rw [State.portBWired, Via.outB_bits _ (by decide), Via.outB_bits _ (by decide), Via.outB_getLsbD _ (by decide)]

theorem State.portBWired.of_eq {s t : State} (h : s.portBWired) (hv : t.via2.drivenB = s.via2.drivenB)
    (hz : t.rot.zone = s.rot.zone) (hm : t.rot.motor = s.rot.motor) (hp : t.mech.phase = s.mech.phase) : t.portBWired := by
  rw [State.portBWired_iff] at h ⊢
  rwa [hv, hz, hm, hp]

theorem Ongoing.portBWired {o : Option ViaId} {s t : State} (h : Ongoing o s t) (hs : s.portBWired) : t.portBWired :=
  hs.of_eq (Via.drivenB_of_regs (h.regs .via2)) h.zone h.motor h.phase

theorem State.portBWired.mapVia {s : State} (h : s.portBWired) (k : ViaId) {f : Via → Via}
    (hf : k = .via2 → (f s.via2).drivenB = s.via2.drivenB) : (s.mapVia k f).portBWired := by
  cases k
  · exact h.of_eq rfl rfl rfl rfl
  · exact h.of_eq (hf rfl) rfl rfl rfl

theorem State.portBWired.checkInterrupts {s : State} (h : s.portBWired) (k : ViaId) : (s.checkInterrupts k).portBWired :=
  (Ongoing.refl (o := some k) s).check.portBWired h

/-- The port-B side effect of VIA2 wires the drive (R597). -/
theorem State.diskPortB_wired (s : State) : s.diskPortB.portBWired := by
  unfold State.diskPortB State.stepHead
  dsimp only
  generalize (if s.via2.outB.extractLsb' 0 2 = s.mech.phase + 1 then _ else _ : Nat) = h
  split <;> exact ⟨rfl, rfl, rfl⟩

/-- Only a write of port B or of its directions changes what is driven. -/
theorem Via.written_drivenB (v : Via) {r : BitVec 4} (h0 : r ≠ 0) (h2 : r ≠ 2) (b : Byte) :
    (v.written r b).drivenB = v.drivenB := by
  unfold Via.written
  split
  case h_1 h => exact absurd (BitVec.eq_of_toNat_eq h) h0
  case h_3 h => exact absurd (BitVec.eq_of_toNat_eq h) h2
  case h_2 => exact Via.drivenB_of_regs (v := { v with ora := b }) (Via.clearPortAFlags_regs _)
  all_goals rfl

theorem State.portBWired.viaWrite {s : State} (h : s.portBWired) (k : ViaId) (r : BitVec 4) (b : Byte) :
    (s.viaWrite k r b).portBWired := by
  obtain ⟨u, heq, hu⟩ := s.viaWrite_cases k r b
  rw [heq]
  refine State.portBWired.checkInterrupts ?_ k
  rcases hu with ⟨-, rfl⟩ | ⟨⟨h0, h2⟩, hu⟩
  · cases k
    · exact h.of_eq rfl rfl rfl rfl
    · exact State.diskPortB_wired _
  · exact hu.portBWired (h.mapVia k fun _ => s.via2.written_drivenB h0 h2 b)

/-- The reset side effect (R594, R601). -/
theorem Orderly.resetEffect (s : State) (k : ViaId) : Orderly none s (s.resetEffect k) := by
  cases k
  · exact (Ongoing.logCall s _).toOrderly
  · exact (Orderly.wire s _ _ _).trans (Ongoing.setWriting _ _).toOrderly

theorem State.resetEffect_wired (s : State) : (s.resetEffect .via2).portBWired :=
  (Ongoing.setWriting (o := none) _ _).portBWired ⟨rfl, rfl, rfl⟩

/-- Each invariant of the drive that holds in `s` holds in `t`: what is orderly stays so, and the drive stays wired to VIA2's port
B while no fault has cut a reset short (R503). -/
structure Upheld (s t : State) : Prop extends Orderly none s t where
  wired : t.stopped = none → s.portBWired → t.portBWired

theorem Upheld.trans {s t u : State} (h : Upheld s t) (g : Upheld t u) : Upheld s u where
  toOrderly := h.toOrderly.trans g.toOrderly
  wired hu hs := by
    have ht : t.stopped = none := State.running_of_not_isSome fun ht => by simpa [hu] using g.stopped ht
    exact g.wired hu (h.wired ht hs)

theorem Ongoing.upheld {s t : State} (h : Ongoing none s t) : Upheld s t := ⟨h.toOrderly, fun _ => h.portBWired⟩

theorem Upheld.apart {s t : State} (h1 : t.via1 = s.via1) (h2 : t.via2 = s.via2) (hr : t.rot = s.rot) (hm : t.mech = s.mech)
    (hd : t.disk = s.disk) (hp : t.params = s.params) (hs : s.stopped.isSome = true → t.stopped.isSome = true) : Upheld s t :=
  (Ongoing.apart h1 h2 hr hm hd hp hs).upheld

/-- A change of the disk and of the windows of a disk change. -/
theorem Upheld.storage {s t : State} (h1 : t.via1 = s.via1) (h2 : t.via2 = s.via2) (hr : t.rot = s.rot)
    (hph : t.mech.phase = s.mech.phase) (hp : t.params = s.params) (hs : t.stopped = s.stopped)
    (hin : s.InRange → t.InRange) : Upheld s t :=
  (Ongoing.of_vias h1 h2 (by rw [hr]) (by rw [hr]) hph hp (by rw [hs]; exact id) hin).upheld

theorem Upheld.refl (s : State) : Upheld s s := (Ongoing.refl s).upheld

theorem Upheld.unlessStopped {s : State} {f : State → State} (h : ∀ t, Upheld t (f t)) : Upheld s (s.unlessStopped f) :=
  State.unlessStopped_keeps (P := Upheld s) (Upheld.refl s) (h s)

theorem Upheld.viaReset (s : State) (k : ViaId) : Upheld s (s.viaReset k) := by
  have hcheck : Orderly none s ((s.mapVia k Via.resetFields).checkInterrupts k) := (Orderly.setVia k _).check
  unfold State.viaReset
  refine ⟨State.unlessStopped_keeps (P := Orderly none s) hcheck (hcheck.trans (Orderly.resetEffect _ k)), fun hrun hs => ?_⟩
  rw [(State.unlessStopped_running hrun).2]
  cases k
  · have hmap : (s.mapVia .via1 Via.resetFields).portBWired := hs.mapVia .via1 nofun
    exact (Ongoing.logCall (o := none) _ _).portBWired (hmap.checkInterrupts .via1)
  · exact State.resetEffect_wired _

/-- Every host call (R40, R530, R600, R623, R625, R672). -/
theorem Upheld.apply (s : State) (c : HostCall) : Upheld s (s.apply c) := by
  cases c with
  | triggerIRQ | triggerNMI | triggerRST | setBusHold | forcedJump | setOverflow => exact Upheld.apart rfl rfl rfl rfl rfl rfl id
  | clearIRQ =>
    show Upheld s s.clearIRQ
    unfold State.clearIRQ
    split
    · exact (Ongoing.fail s _).upheld
    · exact Upheld.apart rfl rfl rfl rfl rfl rfl id
  | clearNMI =>
    show Upheld s s.clearNMI
    unfold State.clearNMI
    split
    · exact (Ongoing.fail s _).upheld
    · exact Upheld.apart rfl rfl rfl rfl rfl rfl id
  | signal k l e => exact (Ongoing.signal s k l e).upheld
  | driveReset =>
    have hrst : Upheld s s.triggerRST := Upheld.apart rfl rfl rfl rfl rfl rfl id
    exact (hrst.trans (Upheld.viaReset _ .via1)).trans (Upheld.unlessStopped fun t => Upheld.viaReset t .via2)
  | insert tracks wp =>
    have hr : s.InRange → (s.insertDisk tracks wp).InRange := fun h => h.insertDisk tracks wp
    show Upheld s (s.insertDisk tracks wp)
    unfold State.insertDisk at hr ⊢
    dsimp only at hr ⊢
    split_ifs at hr ⊢ <;> exact Upheld.storage rfl rfl rfl rfl rfl rfl hr
  | eject => exact Upheld.storage rfl rfl rfl rfl rfl rfl fun h => ⟨h.rotation, h.head, h.tracks, h.bitPos⟩
  | setTrack h bytes =>
    have hr : s.InRange → (s.setTrack h bytes).InRange := fun hs => hs.setTrack h bytes
    show Upheld s (s.setTrack h bytes)
    unfold State.setTrack at hr ⊢
    dsimp only at hr ⊢
    split_ifs at hr ⊢ <;> exact Upheld.storage rfl rfl rfl rfl rfl rfl hr

theorem Upheld.hostCalls (s : State) (m : Moment) : Upheld s (s.hostCalls m) := by
  have hall : ∀ (l : List Due) (u : State), Upheld u (u.applyAll l) := by
    intro l
    induction l with
    | nil => exact Upheld.refl
    | cons d rest ih =>
      exact fun u => Upheld.unlessStopped (f := fun t => (t.apply d.call).applyAll rest) fun t =>
        (Upheld.apply t d.call).trans (ih _)
  exact Upheld.trans (t := { s with agenda := s.agenda.filter (fun d => !d.isDue s.tick m) })
    (Upheld.apart rfl rfl rfl rfl rfl rfl id) (hall _ _)

end Sys2Proof.Machine

namespace Sys2Proof.Machine

/-! ### O9, O10, O11 -/

theorem upheld_actClosed (w : Part → Bool) : ActClosed w Upheld where
  trans := Upheld.trans
  rewrites hr := by
    obtain ⟨_, _, _, _, rfl⟩ := hr.rest
    exact Upheld.apart rfl rfl rfl rfl rfl rfl id
  hook s := (Ongoing.onVAccess s).upheld
  guard hk := State.using_keeps (P := Upheld _) hk (Ongoing.fail _ _).upheld

theorem upheld_busClosed : BusClosed Upheld where
  trans := Upheld.trans
  read s a := (Ongoing.busRead s a).upheld
  write s a v := by
    have hlog : ∀ u : State, Upheld u (u.logBus (.write a v)) := fun _ => Upheld.apart rfl rfl rfl rfl rfl rfl id
    refine Upheld.trans ?_ (hlog (s.writeMemory a v))
    unfold State.writeMemory
    split
    · exact ⟨Orderly.viaWrite s _ _ v, fun _ h => h.viaWrite _ _ v⟩
    · split
      · exact Upheld.apart rfl rfl rfl rfl rfl rfl id
      · exact Upheld.refl s

theorem upheld_tickClosed : TickClosed Upheld where
  phi1 s := State.phi1_keeps (P := Upheld s) (fun _ m h => h.trans (Upheld.hostCalls _ m))
    (fun _ h => h.trans (Ongoing.attachDue _).upheld) (fun _ k h => h.trans (Ongoing.viaStep _ k).upheld)
    (fun _ h => h.trans (Ongoing.rotationStep _).upheld)
    (fun _ h => h.trans (Upheld.apart rfl rfl rfl rfl rfl rfl id)) (Upheld.refl s)
  late s := Upheld.hostCalls s .afterCpu
  endTick _ _ := Upheld.apart rfl rfl rfl rfl rfl rfl id

/-- Every step upholds the invariants of the drive. -/
theorem step_upheld {s t : State} (h : step s = .next t) : Upheld s t ∧ t.stopped = none := by
  obtain ⟨u, hu, hR⟩ := (upheld_actClosed _).step upheld_busClosed upheld_tickClosed
    (fun u _ => (Ongoing.fail u .uninitReg).upheld) s
  obtain ⟨rfl, hrun⟩ := State.outcome_eq_next.mp (hu.symm.trans h)
  have hclear : Upheld s s.clearLogs := Upheld.apart rfl rfl rfl rfl rfl rfl id
  exact ⟨hclear.trans hR, hrun⟩

/-- Settles O9: whatever changes a VIA's flags or enables ends by checking its output. -/
theorem stepKeepsIrqOutputs : Obligations.StepKeepsIrqOutputs := fun _ _ h ⟨h1, h2⟩ =>
  have hkept := (step_upheld h).1.outputs
  ⟨hkept .via1 nofun h1, hkept .via2 nofun h2⟩

/-- Settles O10: a write of port B has the side effect that wires the drive, and nothing else changes either side. -/
theorem stepKeepsPortBWiring : Obligations.StepKeepsPortBWiring := fun _ _ h =>
  have ⟨hkept, hrun⟩ := step_upheld h
  hkept.wired hrun

/-- Settles O11: each event of the rotation engine, the stepper and the disk keeps what is in range in range. -/
theorem stepKeepsHeadAndCounters : Obligations.StepKeepsHeadAndCounters := fun _ _ h hrot hhead htracks hpos =>
  have hr := (step_upheld h).1.inRange ⟨hrot, hhead, htracks, hpos⟩
  ⟨hr.rotation, hr.head, hr.tracks, hr.bitPos⟩

/-! ### O50 -/

/-- The bus log tells of no write to a VIA (R530). -/
def State.writesNoVia (s : State) : Prop := ∀ a v, .write a v ∈ s.bus → s.deviceAt a = none

/-- `t` comes after `s`, still with no host call on the agenda; unless a write has gone to a VIA, the registers are the same. -/
structure RegsFramed (s t : State) : Prop where
  agenda : t.agenda = []
  params : t.params = s.params
  bus : s.bus <+: t.bus
  regs : t.writesNoVia → ∀ k, (t.via k).regs = (s.via k).regs

theorem RegsFramed.trans {s t u : State} (h : s.agenda = [] → RegsFramed s t) (g : t.agenda = [] → RegsFramed t u)
    (hs : s.agenda = []) : RegsFramed s u := by
  have h := h hs
  have g := g h.agenda
  refine ⟨g.agenda, g.params.trans h.params, h.bus.trans g.bus, fun hu k => ?_⟩
  have ht : t.writesNoVia := fun a v hw => by
    have := hu a v (g.bus.subset hw)
    rwa [State.deviceAt, g.params] at this
  rw [g.regs hu, h.regs ht]

theorem RegsFramed.dev {s t : State} (hd : Dev s t) (ho : Ongoing none s t) (hs : s.agenda = []) : RegsFramed s t :=
  ⟨hd.agenda.trans hs, hd.params, by rw [hd.bus], fun _ => ho.regs⟩

/-- A change of neither the VIAs nor the agenda nor the arguments. -/
theorem RegsFramed.apart {s t : State} (hs : s.agenda = []) (ha : t.agenda = s.agenda) (hp : t.params = s.params)
    (hb : s.bus <+: t.bus) (h1 : t.via1 = s.via1) (h2 : t.via2 = s.via2) : RegsFramed s t :=
  ⟨ha.trans hs, hp, hb, fun _ => fun | .via1 => congrArg Via.regs h1 | .via2 => congrArg Via.regs h2⟩

theorem regsFramed_actClosed (w : Part → Bool) : ActClosed w (fun s t => s.agenda = [] → RegsFramed s t) where
  trans := RegsFramed.trans
  rewrites hr hs := by
    obtain ⟨_, _, _, _, rfl⟩ := hr.rest
    exact RegsFramed.apart hs rfl rfl List.prefix_rfl rfl rfl
  hook s := RegsFramed.dev (Dev.onVAccess s) (Ongoing.onVAccess s)
  guard hk hs := State.using_keeps (P := RegsFramed _) (hk hs) (RegsFramed.apart hs rfl rfl List.prefix_rfl rfl rfl)

theorem regsFramed_busClosed : BusClosed (fun s t => s.agenda = [] → RegsFramed s t) where
  trans := RegsFramed.trans
  read s a hs := by
    obtain ⟨t, ht, hd, -⟩ := s.busRead_dev a
    have ho := Ongoing.busRead s a
    rw [ht] at ho ⊢
    exact ⟨hd.agenda.trans hs, hd.params, hd.bus ▸ List.prefix_append _ _, fun _ => ho.regs⟩
  write s a v hs := by
    have hon := Onward.busClosed.write s a v
    have hagenda : (s.busWrite a v).agenda = s.agenda := by
      obtain ⟨t, ht, ⟨-, rfl⟩ | ⟨-, hd⟩⟩ := s.busWrite_dev a v
      · rw [ht]; rfl
      · rw [ht]; exact hd.agenda
    refine ⟨hagenda.trans hs, hon.params, hon.bus, fun hno => ?_⟩
    have hdev : s.deviceAt a = none := by
      have := hno a v (List.mem_append_right _ (List.mem_singleton_self _))
      rwa [State.deviceAt, hon.params] at this
    simp only [State.busWrite, State.writeMemory, hdev]
    split <;> exact fun k => by cases k <;> rfl

theorem RegsFramed.hostCalls {s : State} (hs : s.agenda = []) (m : Moment) : RegsFramed s (s.hostCalls m) := by
  rw [State.hostCalls_quiet (by simp [State.quietFor, hs])]
  exact RegsFramed.apart hs rfl rfl List.prefix_rfl rfl rfl

theorem regsFramed_tickClosed : TickClosed (fun s t => s.agenda = [] → RegsFramed s t) where
  phi1 s hs := by
    have keep : ∀ {t u : State}, (t.agenda = [] → RegsFramed t u) → RegsFramed s t → RegsFramed s u := fun htu hst =>
      RegsFramed.trans (fun _ => hst) htu hs
    exact State.phi1_keeps (P := RegsFramed s) (fun _ m => keep fun ht => RegsFramed.hostCalls ht m)
      (fun t => keep (RegsFramed.dev (Dev.attachDue t) (Ongoing.attachDue t)))
      (fun t k => keep (RegsFramed.dev (Dev.viaStep t k) (Ongoing.viaStep t k)))
      (fun t => keep (RegsFramed.dev (Dev.rotationStep t) (Ongoing.rotationStep t)))
      (fun _ => keep fun ht => RegsFramed.apart ht rfl rfl List.prefix_rfl rfl rfl)
      (RegsFramed.apart hs rfl rfl List.prefix_rfl rfl rfl)
  late _ hs := RegsFramed.hostCalls hs _
  endTick _ _ hs := RegsFramed.apart hs rfl rfl List.prefix_rfl rfl rfl

/-- Settles O50: reads, lines, timers and the rotation engine leave the registers alone, and a write to them is on the bus. -/
theorem frameOfDeviceRegisters : Obligations.FrameOfDeviceRegisters := by
  intro i s t k h hagenda hno
  obtain ⟨u, hu, hR⟩ := (regsFramed_actClosed (fun _ => true)).exec regsFramed_busClosed regsFramed_tickClosed i
    (fun _ _ => rfl) (fun _ => rfl) s
  obtain ⟨rfl, -⟩ := State.outcome_eq_next.mp (hu.symm.trans h)
  have hframed := hR hagenda
  have hregs : (u.via k).regs = (s.via k).regs := hframed.regs (fun a v hw => by
    rw [State.deviceAt, hframed.params]
    exact hno a v hw) k
  injection hregs with hora horb hddra hddrb ht1ll ht1lh ht2ll ht2lh hsr hacr hpcr hier
  exact ⟨hora, horb, hddra, hddrb, hacr, hpcr, hier, hsr, ht1ll, ht1lh, ht2ll, ht2lh⟩

end Sys2Proof.Machine

namespace Sys2Proof.Machine

/-! ### One step of a timer (R571 to R575) -/

/-- What Timer A works on, its latch and its mode apart; `flag` is IFR[6]. -/
structure TimerA where
  count : Word
  load : Bool
  armed : Bool
  pb7 : Bool
  flag : Bool

/-- What Timer B works on, its latch and its mode apart; `flag` is IFR[5]. -/
structure TimerB where
  count : Word
  load : Bool
  armed : Bool
  flag : Bool

/-- Timer A of a VIA. -/
def Via.timerA (v : Via) : TimerA := ⟨v.t1c, v.t1load, v.t1armed, v.pb7, v.ifr.getLsbD 6⟩

/-- Timer B of a VIA. -/
def Via.timerB (v : Via) : TimerB := ⟨v.t2c, v.t2load, v.t2armed, v.ifr.getLsbD 5⟩

/-- The underflow of Timer A, `free` in free-running mode, `reload` being T1_ONESHOT_RELOAD (R572). -/
def TimerA.underflow (free reload : Bool) (a : TimerA) : TimerA :=
  if free then { a with load := true, pb7 := !a.pb7, flag := true }
  else if a.armed then { a with load := reload || a.load, armed := false, pb7 := true, flag := true }
  else { a with load := reload || a.load }

/-- The step of Timer A with this latch (R571). -/
def TimerA.step (latch : Word) (free reload : Bool) (a : TimerA) : TimerA :=
  if a.load then { a with count := latch, load := false }
  else if a.count = 0 then TimerA.underflow free reload { a with count := 0xFFFF }
  else { a with count := a.count - 1 }

/-- The step of Timer B with this latch, `hold` in pulse-counting mode (R574, R575). -/
def TimerB.step (latch : Word) (hold : Bool) (b : TimerB) : TimerB :=
  if b.load then { b with count := latch, load := false }
  else if hold then b
  else if b.count = 0 ∧ b.armed = true then { b with count := 0xFFFF, armed := false, flag := true }
  else { b with count := b.count - 1 }

/-! #### A step of the VIA is a step of each timer -/

theorem Word.sub_one_eq_max {w : Word} : w - 1 = 0xFFFF ↔ w = 0 := by
  constructor
  · intro h
    bv_omega
  · rintro rfl
    rfl

theorem Via.raiseFlag_getLsbD (v : Via) (k : Nat) {j : Nat} (hj : j < 7) :
    (v.raiseFlag k).ifr.getLsbD j = (v.ifr.getLsbD j || decide (k = j)) := by
  rw [Via.raiseFlag, BitVec.getLsbD_or, flagBit, BitVec.getLsbD_ofNat, Nat.testBit_two_pow, decide_eq_true hj, Bool.true_and]

theorem Via.clearFlag_getLsbD (v : Via) {k : Nat} (hk : k < 7) : (v.clearFlag k).ifr.getLsbD k = false := by
  rw [Via.clearFlag, BitVec.getLsbD_and, BitVec.getLsbD_not, flagBit, BitVec.getLsbD_ofNat, Nat.testBit_two_pow]
  simp [hk]

section
variable (v : Via) (reload : Bool)

theorem Via.raiseFlag_six_timerA : (v.raiseFlag 6).timerA = { v.timerA with flag := true } := by
  rw [Via.timerA, v.raiseFlag_getLsbD 6 (by decide), decide_eq_true rfl, Bool.or_true]
  rfl

theorem Via.raiseFlag_five_timerA : (v.raiseFlag 5).timerA = v.timerA := by
  rw [Via.timerA, v.raiseFlag_getLsbD 5 (by decide), decide_eq_false (by decide), Bool.or_false]
  rfl

theorem Via.raiseFlag_six_timerB : (v.raiseFlag 6).timerB = v.timerB := by
  rw [Via.timerB, v.raiseFlag_getLsbD 6 (by decide), decide_eq_false (by decide), Bool.or_false]
  rfl

theorem Via.raiseFlag_five_timerB : (v.raiseFlag 5).timerB = { v.timerB with flag := true } := by
  rw [Via.timerB, v.raiseFlag_getLsbD 5 (by decide), decide_eq_true rfl, Bool.or_true]
  rfl

theorem Via.t1Underflow_timerA :
    (v.t1Underflow reload).timerA = v.timerA.underflow (v.acr.getLsbD 6) reload := by
  unfold Via.t1Underflow TimerA.underflow
  split
  · exact congrArg (fun a : TimerA => { a with load := true, pb7 := !v.pb7 }) v.raiseFlag_six_timerA
  dsimp only
  by_cases harmed : v.t1armed = true
  · have hraise := congrArg (fun a : TimerA => { a with load := reload || v.t1load, armed := false, pb7 := true })
      v.raiseFlag_six_timerA
    rw [if_pos harmed, if_pos (show v.timerA.armed = true from harmed)]
    cases reload <;> exact hraise
  · rw [if_neg harmed, if_neg (show ¬ v.timerA.armed = true from harmed)]
    cases reload <;> rfl

theorem Via.t1Underflow_timerB : (v.t1Underflow reload).timerB = v.timerB := by
  unfold Via.t1Underflow
  split
  · exact v.raiseFlag_six_timerB
  dsimp only
  split <;> split
  · exact v.raiseFlag_six_timerB
  · rfl
  · exact v.raiseFlag_six_timerB
  · rfl

theorem Via.timerAStep_timerA : (v.timerAStep reload).timerA =
    v.timerA.step (joinBytes v.t1lh v.t1ll) (v.acr.getLsbD 6) reload := by
  unfold Via.timerAStep TimerA.step
  split
  · rw [if_pos (show v.timerA.load = true from ‹_›)]
    rfl
  rw [if_neg (show ¬ v.timerA.load = true from ‹_›)]
  dsimp only
  by_cases h0 : v.t1c = 0
  · rw [if_pos (Word.sub_one_eq_max.mpr h0), if_pos (show v.timerA.count = 0 from h0), Via.t1Underflow_timerA,
      Word.sub_one_eq_max.mpr h0]
    rfl
  · rw [if_neg (Word.sub_one_eq_max.not.mpr h0), if_neg (show ¬ v.timerA.count = 0 from h0)]
    rfl

theorem Via.timerAStep_timerB : (v.timerAStep reload).timerB = v.timerB := by
  unfold Via.timerAStep
  split
  · rfl
  dsimp only
  split
  · exact Via.t1Underflow_timerB _ reload
  · rfl

theorem Via.timerBStep_timerB :
    v.timerBStep.timerB = v.timerB.step (joinBytes v.t2lh v.t2ll) (v.acr.getLsbD 5) := by
  unfold Via.timerBStep TimerB.step
  split
  · rw [if_pos (show v.timerB.load = true from ‹_›)]
    rfl
  rw [if_neg (show ¬ v.timerB.load = true from ‹_›)]
  split
  · rfl
  simp only [Bool.and_eq_true, decide_eq_true_eq, Word.sub_one_eq_max]
  split
  · next h =>
    rw [if_pos (show v.timerB.count = 0 ∧ v.timerB.armed = true from h), Word.sub_one_eq_max.mpr h.1]
    exact congrArg (fun b : TimerB => { b with armed := false }) (Via.raiseFlag_five_timerB { v with t2c := 0xFFFF })
  · next h =>
    rw [if_neg (show ¬ (v.timerB.count = 0 ∧ v.timerB.armed = true) from h)]
    rfl

theorem Via.timerBStep_timerA : v.timerBStep.timerA = v.timerA := by
  unfold Via.timerBStep
  split
  · rfl
  split
  · rfl
  dsimp only
  split
  · exact Via.raiseFlag_five_timerA { v with t2c := v.t2c - 1 }
  · rfl

theorem Via.ticked_timerA : (v.ticked reload).timerA =
    v.timerA.step (joinBytes v.t1lh v.t1ll) (v.acr.getLsbD 6) reload :=
  (Via.timerBStep_timerA _).trans (Via.timerAStep_timerA v.endPulses reload)

theorem Via.ticked_timerB :
    (v.ticked reload).timerB = v.timerB.step (joinBytes v.t2lh v.t2ll) (v.acr.getLsbD 5) := by
  have hregs := Via.timerAStep_regs v.endPulses reload
  have hstep := Via.timerBStep_timerB (v.endPulses.timerAStep reload)
  injection hregs with _ _ _ _ _ _ hll hlh _ hacr
  rw [Via.timerAStep_timerB, hll, hlh, hacr] at hstep
  exact hstep

/-! #### Ticks of a VIA, one after another -/

theorem Via.ticks_regs (n : Nat) : ((fun w => Via.ticked w reload)^[n] v).regs = v.regs := by
  induction n with
  | zero => rfl
  | succ n ih => rw [Function.iterate_succ_apply', Via.ticked_regs, ih]

theorem Via.ticks_timerA (n : Nat) : ((fun w => Via.ticked w reload)^[n] v).timerA =
    (TimerA.step (joinBytes v.t1lh v.t1ll) (v.acr.getLsbD 6) reload)^[n] v.timerA := by
  induction n with
  | zero => rfl
  | succ n ih =>
    have hregs := v.ticks_regs reload n
    injection hregs with _ _ _ _ hll hlh _ _ _ hacr
    rw [Function.iterate_succ_apply', Function.iterate_succ_apply', Via.ticked_timerA, ih, hll, hlh, hacr]

theorem Via.ticks_timerB (n : Nat) : ((fun w => Via.ticked w reload)^[n] v).timerB =
    (TimerB.step (joinBytes v.t2lh v.t2ll) (v.acr.getLsbD 5))^[n] v.timerB := by
  induction n with
  | zero => rfl
  | succ n ih =>
    have hregs := v.ticks_regs reload n
    injection hregs with _ _ _ _ _ _ hll hlh _ hacr
    rw [Function.iterate_succ_apply', Function.iterate_succ_apply', Via.ticked_timerB, ih, hll, hlh, hacr]

end

end Sys2Proof.Machine

namespace Sys2Proof.Machine

/-! ### O57: Timer A -/

section
variable {latch : Word} {free reload : Bool} {a : TimerA}

theorem TimerA.step_load (h : a.load = true) : a.step latch free reload = { a with count := latch, load := false } :=
  if_pos h

theorem TimerA.step_count (hl : a.load = false) (h : a.count ≠ 0) :
    a.step latch free reload = { a with count := a.count - 1 } := by
  rw [TimerA.step, if_neg (by simp [hl]), if_neg h]

theorem TimerA.step_underflow (hl : a.load = false) (h : a.count = 0) :
    a.step latch free reload = TimerA.underflow free reload { a with count := 0xFFFF } := by
  rw [TimerA.step, if_neg (by simp [hl]), if_pos h]

/-- The counter runs down to 0 (R571). -/
theorem TimerA.countdown (hl : a.load = false) {k : Nat} (hk : k ≤ a.count.toNat) :
    (TimerA.step latch free reload)^[k] a = { a with count := a.count - BitVec.ofNat 16 k } := by
  induction k with
  | zero => rw [BitVec.sub_zero]; rfl
  | succ k ih =>
    have hmax : a.count.toNat < 65536 := a.count.isLt
    have hne : a.count - BitVec.ofNat 16 k ≠ 0 := by intro h; bv_omega
    have hsub : a.count - BitVec.ofNat 16 k - 1 = a.count - BitVec.ofNat 16 (k + 1) := by bv_omega
    rw [Function.iterate_succ_apply', ih (by omega), TimerA.step_count (by exact hl) (by exact hne), hsub]

/-- A pending load, and the counter's way down from the latch. -/
theorem TimerA.loaded (hl : a.load = true) {k : Nat} (hk : k ≤ latch.toNat) : (TimerA.step latch free reload)^[k + 1] a =
    { a with count := latch - BitVec.ofNat 16 k, load := false } := by
  rw [Function.iterate_succ_apply, TimerA.step_load hl, TimerA.countdown rfl hk]

/-- The underflow comes two ticks after as many as the latch says (R572). -/
theorem TimerA.underflows (hl : a.load = true) : (TimerA.step latch free reload)^[latch.toNat + 2] a =
    TimerA.underflow free reload { a with count := 0xFFFF, load := false } := by
  have hzero : latch - BitVec.ofNat 16 latch.toNat = 0 := by simp
  rw [Function.iterate_succ_apply', TimerA.loaded hl (Nat.le_refl _), hzero, TimerA.step_underflow rfl rfl]

/-- In free-running mode the underflows come every N + 2 ticks, and PB7 toggles each time (R572). -/
theorem TimerA.periodic (hl : a.load = true) (j : Nat) :
    (TimerA.step latch true reload)^[(j + 1) * (latch.toNat + 2)] a =
      { count := 0xFFFF, load := true, armed := a.armed, pb7 := a.pb7 ^^ decide (j % 2 = 0), flag := true } := by
  induction j with
  | zero =>
    rw [Nat.zero_add, Nat.one_mul, TimerA.underflows hl]
    simp [TimerA.underflow]
  | succ j ih =>
    have htoggle : (!(a.pb7 ^^ decide (j % 2 = 0))) = (a.pb7 ^^ decide ((j + 1) % 2 = 0)) := by
      rcases Nat.mod_two_eq_zero_or_one j with h | h <;> simp [h, Nat.add_mod]
    rw [Nat.add_one_mul, Nat.add_comm, Function.iterate_add_apply, ih, TimerA.underflows rfl, ← htoggle]
    rfl

/-- A disarmed one-shot timer changes neither the flag nor PB7, and stays disarmed (R572). -/
theorem TimerA.disarmed (ha : a.armed = false) (n : Nat) : ∃ count load,
    (TimerA.step latch false reload)^[n] a = { a with count := count, load := load } := by
  induction n with
  | zero => exact ⟨a.count, a.load, rfl⟩
  | succ n ih =>
    obtain ⟨count, load, h⟩ := ih
    rw [Function.iterate_succ_apply', h]
    cases load with
    | true => exact ⟨latch, false, TimerA.step_load rfl⟩
    | false =>
      by_cases h0 : count = 0
      · refine ⟨0xFFFF, reload || false, ?_⟩
        rw [TimerA.step_underflow rfl h0]
        simp [TimerA.underflow, ha]
      · exact ⟨count - 1, false, TimerA.step_count rfl h0⟩

end

theorem Word.toNat_sub_ofNat {w : Word} {k : Nat} (h : k ≤ w.toNat) : (w - BitVec.ofNat 16 k).toNat = w.toNat - k := by
  bv_omega

/-- Settles O57: Timer A loads its latch, counts down, underflows, and starts again or runs on. -/
theorem timerATiming : Obligations.TimerATiming := by
  intro v reload n after
  have hticks : ∀ k, (after k).timerA = _ := v.ticks_timerA reload
  constructor
  · rintro hload harmed hflag rfl
    refine ⟨fun k hk => ?_, ?_⟩
    · have h := (hticks (k + 1)).trans (TimerA.loaded hload hk)
      injection h with hc _ _ _ hf
      exact ⟨hc ▸ Word.toNat_sub_ofNat hk, hf.trans hflag⟩
    have hunder := (hticks _).trans (TimerA.underflows hload)
    have hnext := hticks ((joinBytes v.t1lh v.t1ll).toNat + 3)
    rw [Function.iterate_succ_apply', TimerA.underflows hload] at hnext
    cases hfree : v.acr.getLsbD 6 with
    | true =>
      rw [hfree] at hunder hnext
      injection hunder with hc _ _ _ hf
      injection hnext with hc'
      refine ⟨hc, hf, fun _ => ⟨congrArg BitVec.toNat hc', fun j => ?_⟩, nofun⟩
      have hj := hticks ((j + 1) * ((joinBytes v.t1lh v.t1ll).toNat + 2))
      rw [hfree, TimerA.periodic hload] at hj
      injection hj with hcj _ _ hpj
      exact ⟨hcj, hpj⟩
    | false =>
      have harm : ({ v.timerA with count := 0xFFFF, load := false } : TimerA).armed = true := harmed
      rw [hfree, TimerA.underflow, if_neg Bool.false_ne_true, if_pos harm] at hunder hnext
      injection hunder with hc _ ha hp hf
      refine ⟨hc, hf, nofun, fun _ => ⟨hp, ha, ?_, ?_⟩⟩
      · rintro rfl
        exact congrArg (fun a => a.count.toNat) hnext
      · rintro rfl
        rw [TimerA.step_count rfl (show (0xFFFF : Word) ≠ 0 by decide)] at hnext
        injection hnext with hc'
        exact hc'.trans (show (0xFFFF : Word) - 1 = 0xFFFE by decide)
  · intro hfree harmed
    have h := hticks n
    obtain ⟨count, load, hn⟩ := TimerA.disarmed (latch := joinBytes v.t1lh v.t1ll) (reload := reload) (a := v.timerA) harmed n
    rw [hfree, hn] at h
    injection h with _ _ ha hp hf
    exact ⟨hf, hp, ha.trans harmed⟩

/-! ### O58: Timer B -/

section
variable {latch : Word} {b : TimerB}

theorem TimerB.step_load {hold : Bool} (h : b.load = true) : b.step latch hold = { b with count := latch, load := false } :=
  if_pos h

theorem TimerB.step_hold (hl : b.load = false) : b.step latch true = b := by
  rw [TimerB.step, if_neg (by simp [hl]), if_pos rfl]

theorem TimerB.step_count (hl : b.load = false) (h : ¬(b.count = 0 ∧ b.armed = true)) :
    b.step latch false = { b with count := b.count - 1 } := by
  rw [TimerB.step, if_neg (by simp [hl]), if_neg Bool.false_ne_true, if_neg h]

theorem TimerB.step_timeout (hl : b.load = false) (h : b.count = 0) (ha : b.armed = true) :
    b.step latch false = { b with count := 0xFFFF, armed := false, flag := true } := by
  rw [TimerB.step, if_neg (by simp [hl]), if_neg Bool.false_ne_true, if_pos ⟨h, ha⟩]

/-- A decrement, which sets the flag and disarms when an armed timer reaches $FFFF (R574). -/
theorem TimerB.step_run (hl : b.load = false) : b.step latch false = { b with
    count := b.count - 1, armed := b.armed && b.count - 1 != 0xFFFF, flag := b.flag || b.armed && b.count - 1 == 0xFFFF } := by
  obtain ⟨count, load, armed, flag⟩ := b
  by_cases h : count = 0 ∧ armed = true
  · obtain ⟨rfl, rfl⟩ := h
    rw [TimerB.step_timeout hl rfl rfl]
    simp
  · rw [TimerB.step_count hl h]
    cases armed with
    | false => simp
    | true =>
      have hne : count - 1 ≠ 0xFFFF := fun h0 => h ⟨Word.sub_one_eq_max.mp h0, rfl⟩
      simp only [bne_iff_ne.mpr hne, beq_eq_false_iff_ne.mpr hne, Bool.and_self, Bool.and_false, Bool.or_false]

/-- The counter runs down: to 0 where the timer is armed, on and on where it is not (R574). -/
theorem TimerB.countdown (hl : b.load = false) {k : Nat} (hk : b.armed = true → k ≤ b.count.toNat) :
    (TimerB.step latch false)^[k] b = { b with count := b.count - BitVec.ofNat 16 k } := by
  induction k with
  | zero => rw [BitVec.sub_zero]; rfl
  | succ k ih =>
    have hmax : b.count.toNat < 65536 := b.count.isLt
    have hgo : ¬(b.count - BitVec.ofNat 16 k = 0 ∧ b.armed = true) := by
      rintro ⟨h0, ha⟩
      have := hk ha
      bv_omega
    have hsub : b.count - BitVec.ofNat 16 k - 1 = b.count - BitVec.ofNat 16 (k + 1) := by
      rw [BitVec.sub_sub, ← BitVec.ofNat_add_ofNat]; rfl
    have hstep := TimerB.step_count (latch := latch) (b := { b with count := b.count - BitVec.ofNat 16 k }) hl hgo
    rw [Function.iterate_succ_apply', ih fun ha => Nat.le_of_succ_le (hk ha), hstep, hsub]

/-- A pending load, and the counter's way down from the latch. -/
theorem TimerB.loaded (hl : b.load = true) {k : Nat} (hk : k ≤ latch.toNat) : (TimerB.step latch false)^[k + 1] b =
    { b with count := latch - BitVec.ofNat 16 k, load := false } := by
  rw [Function.iterate_succ_apply, TimerB.step_load hl, TimerB.countdown rfl fun _ => hk]

/-- The time-out, and the way on from $FFFF without a reload (R574). -/
theorem TimerB.timeout (hl : b.load = true) (ha : b.armed = true) (k : Nat) :
    (TimerB.step latch false)^[latch.toNat + 2 + k] b =
      { count := 0xFFFF - BitVec.ofNat 16 k, load := false, armed := false, flag := true } := by
  have hzero : latch - BitVec.ofNat 16 latch.toNat = 0 := by simp
  have htimeout := TimerB.step_timeout (latch := latch) (b := { b with count := 0, load := false }) rfl rfl ha
  rw [Nat.add_comm, Function.iterate_add_apply, Function.iterate_succ_apply', TimerB.loaded hl (Nat.le_refl _), hzero, htimeout,
    TimerB.countdown rfl fun h => absurd h Bool.false_ne_true]

/-- In pulse-counting mode the counter holds, a pending load apart (R575). -/
theorem TimerB.holds (n : Nat) : (TimerB.step latch true)^[n + 1] b =
    { b with count := if b.load then latch else b.count, load := false } := by
  induction n with
  | zero =>
    cases hl : b.load with
    | true => exact TimerB.step_load hl
    | false =>
      refine (TimerB.step_hold hl).trans ?_
      rw [← hl]
      cases b
      simp_all
  | succ n ih => rw [Function.iterate_succ_apply', ih, TimerB.step_hold rfl]

end

/-- Settles O58: Timer B loads its latch, counts down and times out once, and in pulse-counting mode it holds. -/
theorem timerBTiming : Obligations.TimerBTiming := by
  intro v reload n after
  have hticks : ∀ k, (after k).timerB = _ := v.ticks_timerB reload
  refine ⟨fun hload => ?_, fun hload hgo => ?_, fun b => ?_, fun hgo hload harmed hflag => ?_, fun hgo hload harmed => ?_,
    fun hhold => ?_⟩
  · have h := (hticks 1).trans (TimerB.step_load hload)
    injection h with hc hl ha hf
    exact ⟨hc, hl, ha, hf⟩
  · have h := hticks 1
    rw [hgo, Function.iterate_one] at h
    rw [TimerB.step_run hload] at h
    injection h with hc hl ha hf
    exact ⟨hc, hl.trans hload, hf, ha⟩
  · exact ⟨rfl, rfl, Via.clearFlag_getLsbD _ (by decide), rfl, rfl, rfl⟩
  · rintro rfl
    constructor
    · intro k hk
      have h := hticks (k + 1)
      rw [hgo, TimerB.loaded hload hk] at h
      injection h with hc _ _ hf
      exact ⟨hc ▸ Word.toNat_sub_ofNat hk, hf.trans hflag⟩
    · intro k
      have h := hticks ((joinBytes v.t2lh v.t2ll).toNat + 2 + k)
      rw [hgo, TimerB.timeout hload harmed] at h
      injection h with hc _ ha hf
      exact ⟨hc, hf, ha⟩
  · have h := hticks n
    have harm : v.timerB.armed = true → n ≤ v.timerB.count.toNat := fun ha => absurd (harmed.symm.trans ha) (by decide)
    rw [hgo, TimerB.countdown hload harm] at h
    injection h with hc _ _ hf
    exact ⟨hc, hf⟩
  · have hheld : ∀ k, (after (k + 1)).timerB = _ := fun k => (hticks (k + 1)).trans (by rw [hhold, TimerB.holds])
    have hcount := hheld n
    injection hcount with hc
    refine ⟨hc, ?_⟩
    cases n with
    | zero => exact ⟨rfl, rfl⟩
    | succ n =>
      have h := hheld n
      injection h with _ _ ha hf
      exact ⟨hf, ha⟩

end Sys2Proof.Machine

namespace Sys2Proof.Machine

/-! ### O59: the sector format (R611 to R614, R630 to R635) -/

theorem nib_gcr5 : ∀ n : BitVec 4, nib (gcr5 n) = n := by decide

theorem ungcrByte_gcrByte (b : Byte) : ungcrByte (gcrByte b) = b := by
  rw [ungcrByte, gcrByte, BitVec.extractLsb'_append_eq_left, BitVec.extractLsb'_append_eq_right, nib_gcr5, nib_gcr5,
    BitVec.extractLsb'_append_extractLsb'_eq_extractLsb' (by rfl)]
  exact BitVec.extractLsb'_eq_self

/-- The bytes of 40 bits are those bits. -/
theorem bytes_append (g : BitVec 40) : g.extractLsb' 32 8 ++ g.extractLsb' 24 8 ++ g.extractLsb' 16 8 ++ g.extractLsb' 8 8 ++
    g.extractLsb' 0 8 = g := by
  simp only [BitVec.extractLsb'_append_extractLsb'_eq_extractLsb']
  exact BitVec.extractLsb'_eq_self

/-- The codes of four bytes, taken from their 40 bits. -/
theorem codes_append (c3 c2 c1 c0 : BitVec 10) : (c3 ++ c2 ++ c1 ++ c0).extractLsb' 30 10 = c3 ∧
    (c3 ++ c2 ++ c1 ++ c0).extractLsb' 20 10 = c2 ∧ (c3 ++ c2 ++ c1 ++ c0).extractLsb' 10 10 = c1 ∧
    (c3 ++ c2 ++ c1 ++ c0).extractLsb' 0 10 = c0 := by
  refine ⟨?_, ?_, ?_, BitVec.extractLsb'_append_eq_right⟩
  · rw [BitVec.extractLsb'_append_eq_of_le (by decide), BitVec.extractLsb'_append_eq_of_le (by decide)]
    exact BitVec.extractLsb'_append_eq_left
  · rw [BitVec.extractLsb'_append_eq_of_le (by decide), BitVec.extractLsb'_append_eq_of_le (by decide)]
    exact BitVec.extractLsb'_append_eq_right
  · rw [BitVec.extractLsb'_append_eq_of_le (by decide)]
    exact BitVec.extractLsb'_append_eq_right

/-- Whole groups of four bytes survive encoding and decoding (R613, R614). -/
theorem dec_enc : ∀ {l : List Byte}, l.length % 4 = 0 → dec (enc l) = l
  | [], _ => rfl
  | b0 :: b1 :: b2 :: b3 :: rest, h => by
    have hrest : dec (enc rest) = rest := dec_enc (by simp only [List.length_cons] at h; omega)
    obtain ⟨h3, h2, h1, h0⟩ := codes_append (gcrByte b0) (gcrByte b1) (gcrByte b2) (gcrByte b3)
    simp only [enc, dec, bytes_append, hrest, h3, h2, h1, h0, ungcrByte_gcrByte]
  | [_], h | [_, _], h | [_, _, _], h => by simp at h

/-- Each group of four bytes becomes five, an incomplete one none (R613). -/
theorem length_enc : ∀ l : List Byte, (enc l).length = l.length / 4 * 5
  | b0 :: b1 :: b2 :: b3 :: rest => by
    simp only [enc, List.length_cons, length_enc rest]
    omega
  | [] | [_] | [_, _] | [_, _, _] => by simp [enc]

theorem length_dataBlock (data : List Byte) : (dataBlock data).length = data.length + 4 := by
  simp [dataBlock]

/-- 29 bytes of syncs, header and gap stand before the data block, which takes 325 (R632). -/
theorem plainSector_eq (data : List Byte) (track sector id1 id2 flip : Byte) : ∃ front : List Byte, front.length = 29 ∧
    plainSector data track sector id1 id2 flip = front ++ enc (dataBlock data) := by
  refine ⟨_, ?_, rfl⟩
  simp [length_enc, headerBlock]

section
variable {data : List Byte} (hlen : data.length = 256) (track sector id1 id2 flip : Byte)
include hlen

theorem length_enc_dataBlock : (enc (dataBlock data)).length = 325 := by
  rw [length_enc, length_dataBlock, hlen]

theorem length_plainSector : (plainSector data track sector id1 id2 flip).length = 354 := by
  obtain ⟨front, hfront, heq⟩ := plainSector_eq data track sector id1 id2 flip
  rw [heq, List.length_append, hfront, length_enc_dataBlock hlen]

/-- What is decoded of a data block is its data (R634). -/
theorem decodeSector_plainSector :
    decodeSector (((plainSector data track sector id1 id2 flip).drop 29).take 325) = data := by
  obtain ⟨front, hfront, heq⟩ := plainSector_eq data track sector id1 id2 flip
  have hdec : dec (enc (dataBlock data)) = dataBlock data := dec_enc (by rw [length_dataBlock, hlen])
  rw [heq, ← hfront, List.drop_left, List.take_of_length_le (length_enc_dataBlock hlen).le, decodeSector, hdec, ← hlen]
  simp [dataBlock]

end

/-- Settles O59: a sector is 29 bytes and its encoded data block; the error codes 0 and 27 leave the data block alone. -/
theorem sectorRoundTrip : Obligations.SectorRoundTrip := by
  intro data track sector id1 id2 err hlen
  unfold encodeSector
  split
  · exact ⟨length_plainSector hlen .., fun _ => decodeSector_plainSector hlen ..⟩
  split
  · exact ⟨length_plainSector hlen .., fun _ => decodeSector_plainSector hlen ..⟩
  · next h0 h27 => exact ⟨List.length_ofFn, fun h => absurd h (not_or.mpr ⟨h0, h27⟩)⟩

end Sys2Proof.Machine

namespace Sys2Proof.Machine

/-! ### O60: clock recovery on a track of zeros (R645 to R647) -/

/-- What the read algorithm works on when every bit is 0 and noise is disabled: history, clock, byte framing and read latch. -/
structure Recovery where
  history : BitVec 10
  zc : Nat
  bitCounter : Nat
  readLatch : Byte

/-- The engine's part of that. -/
def Rotation.recovery (r : Rotation) : Recovery := ⟨r.history, r.zc, r.bitCounter, r.readLatch⟩

/-- The history after a bit cell without a flux change: the fourth in a row delivers a 1 (R645). -/
def Recovery.delivered (r : Recovery) : BitVec 10 :=
  if r.zc + 1 = 4 then shiftHistory r.history false ||| 1 else shiftHistory r.history false

/-- A bit cell without a flux change, and the framing of its bit where the history shows no sync (R645, R646). -/
def Recovery.cell (r : Recovery) : Recovery where
  history := r.delivered
  zc := if r.zc + 1 = 4 then 0 else r.zc + 1
  bitCounter := if r.bitCounter + 1 = 8 then 0 else r.bitCounter + 1
  readLatch := if r.bitCounter + 1 = 8 then r.delivered.setWidth 8 else r.readLatch

/-- Since the last 1 was delivered, 0s have been. -/
def Recovery.Spaced (r : Recovery) : Prop := r.zc ≠ 0 → r.history.getLsbD 0 = false

section
variable {r : Recovery}

theorem Recovery.delivered_zero : r.delivered.getLsbD 0 = decide (r.zc + 1 = 4) := by
  unfold Recovery.delivered shiftHistory
  split <;> simp_all

theorem Recovery.delivered_succ {j : Nat} (hj : j + 1 < 10) : r.delivered.getLsbD (j + 1) = r.history.getLsbD j := by
  have hshift : (shiftHistory r.history false).getLsbD (j + 1) = r.history.getLsbD j := by
    simp only [shiftHistory, bit_false, BitVec.or_zero, BitVec.getLsbD_shiftLeft, hj, decide_true, Bool.true_and,
      Nat.add_sub_cancel, Nat.not_lt_of_le (Nat.le_add_left 1 j), decide_false, Bool.not_false]
  unfold Recovery.delivered
  split
  · rw [BitVec.getLsbD_or, hshift]
    simp
  · exact hshift

/-- Between two 1s there is a 0, so the history shows no sync. -/
theorem Recovery.delivered_ne_sync (h : r.Spaced) : r.delivered ≠ 0x3FF := by
  intro hsync
  by_cases h4 : r.zc + 1 = 4
  · have hbit : r.delivered.getLsbD 1 = false := (Recovery.delivered_succ (by decide)).trans (h (by omega))
    rw [hsync] at hbit
    exact absurd hbit (by decide)
  · have hbit : r.delivered.getLsbD 0 = false := Recovery.delivered_zero.trans (decide_eq_false h4)
    rw [hsync] at hbit
    exact absurd hbit (by decide)

theorem Recovery.cell_spaced (r : Recovery) : r.cell.Spaced := fun hz =>
  Recovery.delivered_zero.trans (decide_eq_false fun h4 => hz (if_pos h4))

theorem Recovery.cells_spaced (h : r.Spaced) (n : Nat) : (Recovery.cell^[n] r).Spaced := by
  cases n with
  | zero => exact h
  | succ n =>
    rw [Function.iterate_succ_apply']
    exact Recovery.cell_spaced _

/-- The clock counts the cells by four (R645). -/
theorem Recovery.cells_zc (hz : r.zc = 0) (n : Nat) : (Recovery.cell^[n] r).zc = n % 4 := by
  induction n with
  | zero => exact hz
  | succ n ih =>
    rw [Function.iterate_succ_apply', Recovery.cell]
    dsimp only
    rw [ih]
    split <;> omega

/-- The framing counts the cells by eight (R646). -/
theorem Recovery.cells_bitCounter (hb : r.bitCounter = 0) (n : Nat) : (Recovery.cell^[n] r).bitCounter = n % 8 := by
  induction n with
  | zero => exact hb
  | succ n ih =>
    rw [Function.iterate_succ_apply', Recovery.cell]
    dsimp only
    rw [ih]
    split <;> omega

/-- The bits delivered so far: every fourth is a 1 (R647). -/
theorem Recovery.cells_history (hz : r.zc = 0) {n j : Nat} (hj : j < 10) (hn : j < n) :
    (Recovery.cell^[n] r).history.getLsbD j = decide ((n - 1 - j) % 4 = 3) := by
  obtain ⟨m, rfl⟩ := Nat.exists_eq_add_one_of_ne_zero (Nat.ne_zero_of_lt hn)
  rw [Function.iterate_succ_apply']
  induction j generalizing m with
  | zero =>
    refine Recovery.delivered_zero.trans (decide_eq_decide.mpr ?_)
    rw [Recovery.cells_zc hz]
    omega
  | succ j ih =>
    obtain ⟨m, rfl⟩ := Nat.exists_eq_add_one_of_ne_zero (by omega : m ≠ 0)
    have hprev := ih (Nat.lt_of_succ_lt hj) m (by omega)
    rw [← Function.iterate_succ_apply' Recovery.cell] at hprev
    refine (Recovery.delivered_succ hj).trans (hprev.trans (decide_eq_decide.mpr ?_))
    omega

/-- Each byte latched is $11 (R646, R647). -/
theorem Recovery.cells_readLatch (hz : r.zc = 0) (hb : r.bitCounter = 0) (n : Nat) :
    (Recovery.cell^[8 * (n + 1)] r).readLatch = 0x11 := by
  have hlatch : (Recovery.cell^[8 * n + 7 + 1] r).readLatch = (Recovery.cell^[8 * n + 7 + 1] r).history.setWidth 8 := by
    rw [Function.iterate_succ_apply']
    refine if_pos ?_
    rw [Recovery.cells_bitCounter hb]
    omega
  have hpattern : ∀ j < 8, (0x11 : Byte).getLsbD j = decide (j % 4 = 0) := by decide
  rw [show 8 * (n + 1) = 8 * n + 7 + 1 by omega, hlatch]
  refine BitVec.eq_of_getLsbD_eq fun j hj => ?_
  rw [BitVec.getLsbD_setWidth, Recovery.cells_history hz (by omega) (by omega), hpattern j hj, decide_eq_true hj, Bool.true_and]
  exact decide_eq_decide.mpr (by omega)

end

/-! #### The engine on such a track -/

/-- The engine reads, without noise, a disk whose tracks hold only zero bits. -/
structure State.ReadsZeros (s : State) : Prop where
  noise : s.params.noiseEnabled = false
  reading : s.rot.writing = false
  zeros : ∀ t ∈ s.disk.tracks, ∀ b ∈ t.bytes, b = 0

theorem bitAt_zeros {bytes : List Byte} (h : ∀ b ∈ bytes, b = 0) (p : Nat) : bitAt bytes p = false := by
  have hbyte : bytes.getD (p / 8) 0 = 0 := by
    rw [List.getD_eq_getElem?_getD]
    cases hb : bytes[p / 8]? with
    | none => rfl
    | some b => exact h b (List.mem_of_getElem? hb)
  rw [bitAt, hbyte]
  exact BitVec.getLsbD_zero

theorem State.ReadsZeros.readNextBit {s : State} (h : s.ReadsZeros) : s.readNextBit.1 = false ∧
    ∃ p, s.readNextBit.2 = { s with disk := { s.disk with bitPos := p } } := by
  have hzeros : ∀ b ∈ s.disk.trackBytes s.mech.halfTrack, b = 0 := by
    unfold Disk.trackBytes
    split
    · exact h.zeros _ (List.mem_of_find?_eq_some ‹_›)
    · exact fun _ hb => absurd hb List.not_mem_nil
  unfold State.readNextBit
  split
  · exact ⟨rfl, s.disk.bitPos, rfl⟩
  · exact ⟨by rw [bitAt_zeros hzeros, Bool.and_false], _, rfl⟩

/-- A byte-ready pulse leaves the engine and the disk alone, CA1's level apart (R651). -/
theorem State.byteReady_eq (s : State) : ∃ cpu via2 irq stopped, s.byteReady =
    { s with cpu := cpu, via2 := via2, irq := irq, stopped := stopped, rot := { s.rot with ca1Low := true } } := by
  have hsignal : ∃ via2 irq stopped, s.signal .via2 .ca1 .fall = { s with via2 := via2, irq := irq, stopped := stopped } := by
    show ∃ via2 irq stopped, s.signalCA1 .via2 .fall = { s with via2 := via2, irq := irq, stopped := stopped }
    unfold State.signalCA1
    split
    · obtain ⟨irq, stopped, -, heq⟩ := State.checkInterrupts_eq (s.setVia .via2 { (s.via .via2).raiseFlag 1 with
        latchA := s.rot.readLatch
        ca2hs := ((s.via .via2).raiseFlag 1).ca2hs || ((s.via .via2).raiseFlag 1).ca2Mode == 4 }) .via2
      exact ⟨_, irq, stopped, heq⟩
    · exact ⟨s.via2, s.irq, s.stopped, rfl⟩
  obtain ⟨via2, irq, stopped, heq⟩ := hsignal
  unfold State.byteReady
  rw [heq]
  dsimp only
  split <;> exact ⟨_, via2, irq, stopped, rfl⟩

theorem State.frame_recovery {s : State} (h : s.rot.history ≠ 0x3FF) : s.frame.params = s.params ∧ s.frame.disk = s.disk ∧
    s.frame.rot.writing = s.rot.writing ∧ s.frame.rot.recovery =
      { s.rot.recovery with
        bitCounter := if s.rot.bitCounter + 1 = 8 then 0 else s.rot.bitCounter + 1
        readLatch := if s.rot.bitCounter + 1 = 8 then s.rot.history.setWidth 8 else s.rot.readLatch } := by
  unfold State.frame
  rw [if_neg (by simpa using h)]
  split
  · obtain ⟨_, _, _, _, heq⟩ := State.byteReady_eq { s with
      rot := { s.rot with bitCounter := 0, readLatch := s.rot.history.setWidth 8 } }
    rw [heq]
    exact ⟨rfl, rfl, rfl, rfl⟩
  · exact ⟨rfl, rfl, rfl, rfl⟩

/-- The engine frames the bit that a cell has delivered. -/
theorem State.ReadsZeros.frame {s u : State} (h : s.ReadsZeros) (hs : s.rot.recovery.Spaced) (hp : u.params = s.params)
    (ht : u.disk.tracks = s.disk.tracks) (hw : u.rot.writing = s.rot.writing)
    (hr : u.rot.recovery = { s.rot.recovery with history := s.rot.recovery.delivered, zc := s.rot.recovery.cell.zc }) :
    u.frame.ReadsZeros ∧ u.frame.rot.recovery = s.rot.recovery.cell := by
  obtain ⟨hhistory, hzc, hbit, hlatch⟩ := Recovery.mk.inj hr
  obtain ⟨hparams, hdisk, hwriting, hrec⟩ := State.frame_recovery (s := u) (hhistory ▸ Recovery.delivered_ne_sync hs)
  refine ⟨⟨?_, ?_, ?_⟩, ?_⟩
  · rw [hparams, hp, h.noise]
  · rw [hwriting, hw, h.reading]
  · rw [hdisk, ht]
    exact h.zeros
  · rw [hrec, hr, hhistory, hbit, hlatch]
    rfl

/-- A bit cell passes under the head. -/
theorem State.ReadsZeros.passBit {s : State} (h : s.ReadsZeros) (hs : s.rot.recovery.Spaced) :
    s.passBit.ReadsZeros ∧ s.passBit.rot.recovery = s.rot.recovery.cell := by
  obtain ⟨hraw, p, hnext⟩ := h.readNextBit
  unfold State.passBit
  rw [if_neg (by simp [h.reading])]
  unfold State.readBit
  rw [show s.readNextBit = (false, { s with disk := { s.disk with bitPos := p } }) from Prod.ext hraw hnext]
  simp only [State.fluxNoise, h.noise, Bool.false_and, Bool.false_eq_true, if_false]
  split
  · next h4 =>
    refine h.frame hs rfl rfl rfl ?_
    have hzc : s.rot.recovery.zc + 1 = 4 := h4
    rw [Recovery.delivered, Recovery.cell, if_pos hzc, if_pos hzc]
    rfl
  · next h4 =>
    refine h.frame hs rfl rfl rfl ?_
    have hzc : ¬ s.rot.recovery.zc + 1 = 4 := h4
    rw [Recovery.delivered, Recovery.cell, if_neg hzc, if_neg hzc]
    rfl

theorem State.ReadsZeros.passBits {s : State} (h : s.ReadsZeros) (hs : s.rot.recovery.Spaced) (n : Nat) :
    (s.passBits n).rot.recovery = Recovery.cell^[n] s.rot.recovery := by
  induction n generalizing s with
  | zero => rfl
  | succ n ih =>
    obtain ⟨hpass, hrec⟩ := h.passBit hs
    rw [Function.iterate_succ_apply, ← hrec]
    exact ih hpass (hrec ▸ Recovery.cell_spaced _)

/-- Settles O60: the engine counts the cells, and delivers 0001 again and again. -/
theorem clockRecovery : Obligations.ClockRecovery := by
  intro s n hnoise hreading hzc hbit hzeros
  have hspaced : s.rot.recovery.Spaced := fun h => absurd hzc h
  have hpass : ∀ k, (s.passBits k).rot.recovery = _ := State.ReadsZeros.passBits ⟨hnoise, hreading, hzeros⟩ hspaced
  have hhistory := congrArg Recovery.history (hpass (n + 1))
  refine ⟨?_, ?_, ?_⟩
  · exact (congrArg (·.getLsbD 0) hhistory).trans (Recovery.cells_history hzc (by decide) (Nat.succ_pos n))
  · rw [Function.iterate_succ_apply'] at hhistory
    exact fun h => Recovery.delivered_ne_sync (Recovery.cells_spaced hspaced n) (hhistory.symm.trans h)
  · exact (congrArg Recovery.readLatch (hpass _)).trans (Recovery.cells_readLatch hzc hbit n)

end Sys2Proof.Machine
